-- ==== Sys2Proof/Word.lean ====
section
/-!
DEFINITION. The word types of the machine and the plainest views of them.
A register of a lane is 32 bits, a scalar register 64 bits, memory is bytes, a parcel of code 40 bits (01 R26, 02 R29).
-/
namespace Sys2Proof

/-- One byte of memory. -/
abbrev Byte := BitVec 8
/-- One register of one lane (R26). -/
abbrev Word := BitVec 32
/-- One scalar register, or an even-odd pair (R26, R43). -/
abbrev DWord := BitVec 64
/-- One parcel of code (R29). -/
abbrev Parcel := BitVec 40
/-- A long instruction word: two parcels (R29). -/
abbrev LongWord := BitVec 80

end Sys2Proof
end

