-- ==== Sys2Proof/Syntax.lean ====
section
/-!
DEFINITION. The instructions and steps of the machine: operand selectors, the six long formats and the short
form as structures of their fields (02 R33-R39), and ONE inductive with a constructor for each row of
spec/opcode_table.json.  An encoded instruction carries every field of its word; a row without a word (a step of
an engine, a controller, the link, the host or the boot code) carries the data that names the step.
-/
namespace Sys2Proof

/-- An operand selector (R39).  `bad` stands for the selectors 352-383, which no field accepts. -/
inductive Sel where
  | v (r : BitVec 8)
  | s (r : BitVec 6)
  | b (k : BitVec 2)
  | p (k : Fin 12)
  | q (k : BitVec 3)
  | m (k : BitVec 3)
  | bad (k : BitVec 5)
  | inl (i : BitVec 7)
  deriving DecidableEq, Repr

/-- Bits [33:15] of a long instruction less FN and OP (R33). -/
structure Hdr where
  tc  : BitVec 8
  tav : Bool
  tat : BitVec 3
  ch  : Bool
  ws  : Bool
  gn  : Bool
  gp  : BitVec 4
  deriving DecidableEq, Repr

/-- Format LR (R35). -/
structure LR where
  h   : Hdr
  rs  : BitVec 2
  exc : BitVec 3
  exr : BitVec 3
  c   : Sel
  b   : Sel
  a   : Sel
  d   : Sel
  deriving DecidableEq, Repr

/-- Format LI (R35). -/
structure LI where
  h   : Hdr
  imm : BitVec 22
  exc : BitVec 3
  exr : BitVec 3
  a   : Sel
  d   : Sel
  deriving DecidableEq, Repr

/-- Format LK (R35). -/
structure LK where
  h   : Hdr
  exc : BitVec 3
  exr : BitVec 2
  imm : BitVec 32
  d   : Sel
  deriving DecidableEq, Repr

/-- Format LM (R35). -/
structure LM where
  h   : Hdr
  scp : BitVec 3
  ord : BitVec 2
  sc  : BitVec 2
  imm : BitVec 14
  o   : Sel
  sb  : BitVec 6
  d   : Sel
  deriving DecidableEq, Repr

/-- Format LB (R35). -/
structure LB where
  h    : Hdr
  kind : BitVec 5
  lk   : Sel
  tgt  : BitVec 32
  deriving DecidableEq, Repr

/-- Format LE (R35). -/
structure LE where
  h   : Hdr
  f10 : BitVec 10
  c   : Sel
  b   : Sel
  a   : Sel
  d   : Sel
  deriving DecidableEq, Repr

/-- The short form (R37). -/
structure SH where
  ch  : Bool
  ws  : Bool
  twv : Bool
  twt : BitVec 3
  gn  : Bool
  gp  : BitVec 4
  exc : BitVec 3
  exr : BitVec 3
  b   : Sel
  da  : BitVec 8
  deriving DecidableEq, Repr

/-- Integer type codes (R54). -/
inductive ITy where
  | i32 | n32 | i64 | n64
  deriving DecidableEq, Repr

/-- Floating-point type codes (R54). -/
inductive FTy where
  | f64 | f32 | f16 | bf16 | f16x2 | bf16x2
  deriving DecidableEq, Repr

/-- Rounding codes of FN (R54); `dyn` is fpcr.RM (R72). -/
inductive Rm where
  | dyn | rne | rtz | rup | rdn | rna
  deriving DecidableEq, Repr

/-- Integer compare conditions (R111). -/
inductive Cc where
  | eq | ne | lt | le | gt | ge
  deriving DecidableEq, Repr

/-- Floating-point compare conditions (R112). -/
inductive FCc where
  | eq | ne | lt | le | gt | ge | ord | uno
  deriving DecidableEq, Repr

/-- Type codes of cvt and of copy templates (R54). -/
inductive CvtTy where
  | f64 | f32 | f16 | bf16 | e4m3 | e5m2 | e2m1 | e8m0
  | i8 | i16 | i32 | i64 | n8 | n16 | n32 | n64 | f16x2 | bf16x2
  deriving DecidableEq, Repr

/-- Modes of shfl (R116). -/
inductive ShMode where
  | idx | up | down | xor
  deriving DecidableEq, Repr

/-- Operations of wred and wscan (R117). -/
inductive RedOp where
  | add | min | max | and | or | xor
  deriving DecidableEq, Repr

/-- The type of a reduction: MOD[78] = 0 integer, 1 floating point (R117). -/
inductive RedTy where
  | int (t : ITy)
  | fp (t : FTy)
  deriving DecidableEq, Repr

/-- Access sizes of the LM groups (R54). -/
inductive Size where
  | b8 | b16 | b32 | b64 | b128 | b256 | b512
  deriving DecidableEq, Repr

/-- FN of an atomic: size, scratchpad form, signedness, non-returning form (R151). -/
structure AtomF where
  sz  : Size
  sp  : Bool
  sgn : Bool
  nr  : Bool
  deriving DecidableEq, Repr

/-- FN of loft.add, loft.min and loft.max: 64-bit, float, signed (R151). -/
structure LoftF where
  w64 : Bool
  flt : Bool
  sgn : Bool
  deriving DecidableEq, Repr

/-- Formats of mma.step (R192). -/
inductive MFmt where
  | f64 | f32 | f16 | bf16 | e4m3 | e5m2 | e2m1
  deriving DecidableEq, Repr

/-- Storage types of mma.st (R192). -/
inductive StFmt where
  | f64 | f32 | f16 | bf16
  deriving DecidableEq, Repr

/-- Types of rand (R244). -/
inductive RandTy where
  | i32 | n32 | i64 | n64 | f32 | f64
  deriving DecidableEq, Repr

/-- Scopes (R35, R275), in ascending width. -/
inductive Scope where
  | wave | crew | gang | site | device | system
  deriving DecidableEq, Repr

/-- `mov` from an out queue register, in its long or its short form (R98, R213). -/
inductive PopForm where
  | long (x : LR) (t : ITy)
  | short (x : SH)
  deriving DecidableEq, Repr

/-- A write of a system register as the step of the unit it names: the site, the value, and the wave whose sysw
it is (none for the host's command). -/
structure RegWrite where
  site  : Nat
  value : BitVec 64
  wave  : Option Nat
  deriving DecidableEq, Repr

/-- What waits for the system controller's service of a page (R416). -/
inductive PageReq where
  | frag (core entry : Nat)
  | log (core idx : Nat)
  | step (cluster idx : Nat)
  | port (wave pair lane : Nat)
  | wait (idx : Nat)
  deriving DecidableEq, Repr

/-- The system controller's answer (R416): the table entries it writes (physical address and value), no change
needed, or a refusal. -/
inductive PageAns where
  | map (entries : List (Nat × BitVec 64))
  | noChange
  | refusePage
  | refuseProtect
  deriving DecidableEq, Repr

/-- What sends in a flow: a core, an engine of a cluster, or a site's walker, Light meter, scanout or
scheduler (R287, R332). -/
inductive FlowUnit where
  | core | matrix | copy | rangefinder | haze | walker | meter | scanout | scheduler
  deriving DecidableEq, Repr

/-- The name of a flow: its source (a unit and the number of its core, cluster or site), destination site and class
(R287). -/
structure FlowId where
  src     : Nat
  unit    : FlowUnit
  dst     : Nat
  ordered : Bool
  deriving DecidableEq, Repr

/-- What a gPTP message tells the controllers of one site (R389, R390). -/
structure PtpMsg where
  site     : Nat
  sync     : Bool
  gm       : Bool
  port     : Bool
  interval : BitVec 8
  offset   : BitVec 64
  rate     : BitVec 32
  gmid     : BitVec 64
  skew     : BitVec 32
  forward  : Nat
  deriving DecidableEq, Repr

/-- One UDP datagram that arrives at an Ethernet port, with its source and its destination (R391). -/
structure Datagram where
  port  : Nat
  src   : BitVec 128
  sport : BitVec 16
  dst   : BitVec 128
  dport : BitVec 16
  bytes : List Byte
  deriving DecidableEq, Repr

/-- A register pole of a core or a loft pole of its site (R407). -/
inductive PoleRef where
  | reg (p : Nat)
  | loft (p : Nat)
  deriving DecidableEq, Repr

/-- The operation that an uncorrectable error strikes (R404): a read of a line, a lane's arithmetic, a pole's transfer. -/
inductive ErrAt where
  | line (addr : Nat)
  | scratch (crew off : Nat)
  | lane (core : Nat)
  | pole (core : Nat) (pole : PoleRef)
  deriving DecidableEq, Repr

/-- The instructions and steps: one constructor for each row of spec/opcode_table.json, in its order, except that 32 steps
which come from outside the cores stand last. -/
inductive Instr where
  /-- MOV (R98). -/
  | mov (x : LR) (t : ITy)
  /-- MOV_LI (R98). -/
  | movLi (x : LI) (t : ITy)
  /-- MOV_LK (R98). -/
  | movLk (x : LK) (t : ITy)
  /-- MOV_SHORT (R38). -/
  | movShort (x : SH)
  /-- MOV_Q_PUSH (R213). -/
  | movQPush (x : LR) (t : ITy)
  /-- MOV_Q_POP (R213). -/
  | movQPop (x : PopForm)
  /-- IADD (R99). -/
  | iadd (x : LR) (t : ITy) (sat : Bool)
  /-- IADD_LI (R99). -/
  | iaddLi (x : LI) (t : ITy) (sat : Bool)
  /-- IADD_SHORT (R38). -/
  | iaddShort (x : SH)
  /-- ISUB (R99). -/
  | isub (x : LR) (t : ITy) (sat : Bool)
  /-- ISUB_LI (R99). -/
  | isubLi (x : LI) (t : ITy) (sat : Bool)
  /-- ISUB_SHORT (R38). -/
  | isubShort (x : SH)
  /-- IMUL (R99). -/
  | imul (x : LR) (t : ITy)
  /-- IMUL_LI (R99). -/
  | imulLi (x : LI) (t : ITy)
  /-- IMULH (R99). -/
  | imulh (x : LR) (t : ITy)
  /-- IMAD (R99). -/
  | imad (x : LR) (t : ITy)
  /-- IMAD_WIDE (R99). -/
  | imadWide (x : LR) (t : ITy)
  /-- IDIV (R101). -/
  | idiv (x : LR) (t : ITy)
  /-- IREM (R101). -/
  | irem (x : LR) (t : ITy)
  /-- IABS (R100). -/
  | iabs (x : LR) (t : ITy) (sat : Bool)
  /-- INEG (R100). -/
  | ineg (x : LR) (t : ITy) (sat : Bool)
  /-- IMIN (R99). -/
  | imin (x : LR) (t : ITy)
  /-- IMIN_LI (R99). -/
  | iminLi (x : LI) (t : ITy)
  /-- IMIN_SHORT (R38). -/
  | iminShort (x : SH)
  /-- IMAX (R99). -/
  | imax (x : LR) (t : ITy)
  /-- IMAX_LI (R99). -/
  | imaxLi (x : LI) (t : ITy)
  /-- IMAX_SHORT (R38). -/
  | imaxShort (x : SH)
  /-- ADDC (R102). -/
  | addc (x : LR) (t : ITy) (co : Bool)
  /-- SUBC (R102). -/
  | subc (x : LR) (t : ITy) (co : Bool)
  /-- LEA (R103). -/
  | lea (x : LR) (t : ITy) (sc : BitVec 2)
  /-- LEA_LI (R103). -/
  | leaLi (x : LI) (t : ITy) (sc : BitVec 2)
  /-- AND (R104). -/
  | and (x : LR) (t : ITy)
  /-- AND_LI (R104). -/
  | andLi (x : LI) (t : ITy)
  /-- AND_SHORT (R38). -/
  | andShort (x : SH)
  /-- OR (R104). -/
  | or (x : LR) (t : ITy)
  /-- OR_LI (R104). -/
  | orLi (x : LI) (t : ITy)
  /-- OR_SHORT (R38). -/
  | orShort (x : SH)
  /-- XOR (R104). -/
  | xor (x : LR) (t : ITy)
  /-- XOR_LI (R104). -/
  | xorLi (x : LI) (t : ITy)
  /-- XOR_SHORT (R38). -/
  | xorShort (x : SH)
  /-- NOT (R104). -/
  | not (x : LR) (t : ITy)
  /-- ANDN (R104). -/
  | andn (x : LR) (t : ITy)
  /-- ANDN_LI (R104). -/
  | andnLi (x : LI) (t : ITy)
  /-- SHL (R105). -/
  | shl (x : LR) (t : ITy)
  /-- SHL_LI (R105). -/
  | shlLi (x : LI) (t : ITy)
  /-- SHL_SHORT (R38). -/
  | shlShort (x : SH)
  /-- SHR (R105). -/
  | shr (x : LR) (t : ITy)
  /-- SHR_LI (R105). -/
  | shrLi (x : LI) (t : ITy)
  /-- SHR_SHORT (R38). -/
  | shrShort (x : SH)
  /-- SRA (R105). -/
  | sra (x : LR) (t : ITy)
  /-- SRA_LI (R105). -/
  | sraLi (x : LI) (t : ITy)
  /-- SRA_SHORT (R38). -/
  | sraShort (x : SH)
  /-- SHF (R106). -/
  | shf (x : LR) (t : ITy) (right : Bool)
  /-- BFE (R107). -/
  | bfe (x : LR) (t : ITy)
  /-- BFI (R107). -/
  | bfi (x : LR) (t : ITy)
  /-- POPC (R108). -/
  | popc (x : LR) (t : ITy)
  /-- CLZ (R108). -/
  | clz (x : LR) (t : ITy)
  /-- CTZ (R108). -/
  | ctz (x : LR) (t : ITy)
  /-- BREV (R108). -/
  | brev (x : LR) (t : ITy)
  /-- LUT3 (R109). -/
  | lut3 (x : LR) (table : BitVec 8)
  /-- FADD (R124). -/
  | fadd (x : LR) (t : FTy) (rm : Rm)
  /-- FADD_SHORT (R38). -/
  | faddShort (x : SH)
  /-- FSUB (R124). -/
  | fsub (x : LR) (t : FTy) (rm : Rm)
  /-- FSUB_SHORT (R38). -/
  | fsubShort (x : SH)
  /-- FMUL (R124). -/
  | fmul (x : LR) (t : FTy) (rm : Rm)
  /-- FMUL_SHORT (R38). -/
  | fmulShort (x : SH)
  /-- FFMA (R124). -/
  | ffma (x : LR) (t : FTy) (rm : Rm)
  /-- FDIV (R125). -/
  | fdiv (x : LR) (t : FTy) (rm : Rm)
  /-- FSQRT (R125). -/
  | fsqrt (x : LR) (t : FTy) (rm : Rm)
  /-- FRCP_APPROX (R126). -/
  | frcpApprox (x : LR) (t : FTy)
  /-- FRSQ_APPROX (R126). -/
  | frsqApprox (x : LR) (t : FTy)
  /-- FEXP2_APPROX (R126). -/
  | fexp2Approx (x : LR) (t : FTy)
  /-- FLOG2_APPROX (R126). -/
  | flog2Approx (x : LR) (t : FTy)
  /-- FSIN_APPROX (R126). -/
  | fsinApprox (x : LR) (t : FTy)
  /-- FCOS_APPROX (R126). -/
  | fcosApprox (x : LR) (t : FTy)
  /-- FMIN (R128). -/
  | fmin (x : LR) (t : FTy)
  /-- FMIN_SHORT (R38). -/
  | fminShort (x : SH)
  /-- FMAX (R128). -/
  | fmax (x : LR) (t : FTy)
  /-- FMAX_SHORT (R38). -/
  | fmaxShort (x : SH)
  /-- FMINX (R128). -/
  | fminx (x : LR) (t : FTy)
  /-- FMAXX (R128). -/
  | fmaxx (x : LR) (t : FTy)
  /-- FABS (R129). -/
  | fabs (x : LR) (t : FTy)
  /-- FNEG (R129). -/
  | fneg (x : LR) (t : FTy)
  /-- FCOPYSIGN (R129). -/
  | fcopysign (x : LR) (t : FTy)
  /-- FRINT (R130). -/
  | frint (x : LR) (t : FTy) (rm : Rm) (ix : Bool)
  /-- FGETEXP (R131). -/
  | fgetexp (x : LR) (t : FTy)
  /-- FGETMAN (R131). -/
  | fgetman (x : LR) (t : FTy)
  /-- FSCALE (R131). -/
  | fscale (x : LR) (t : FTy) (rm : Rm)
  /-- FCLASS (R132). -/
  | fclass (x : LR) (t : FTy)
  /-- FFMA_MIX (R133). -/
  | ffmaMix (x : LR) (t : FTy) (rm : Rm)
  /-- FDOT2 (R134). -/
  | fdot2 (x : LR) (t : FTy) (rm : Rm)
  /-- ICMP (R111). -/
  | icmp (x : LR) (t : ITy) (cc : Cc)
  /-- FCMP (R112). -/
  | fcmp (x : LR) (t : FTy) (cc : FCc) (u : Bool) (sig : Bool)
  /-- SEL (R113). -/
  | sel (x : LR) (w64 : Bool)
  /-- PAND (R114). -/
  | pand (x : LR)
  /-- POR (R114). -/
  | por (x : LR)
  /-- PXOR (R114). -/
  | pxor (x : LR)
  /-- PNOT (R114). -/
  | pnot (x : LR)
  /-- PMOV (R114). -/
  | pmov (x : LR)
  /-- CVT (R135). -/
  | cvt (x : LR) (rm : Rm) (sat : Bool) (dt : CvtTy) (st : CvtTy)
  /-- MXQ (R142). -/
  | mxq (x : LR) (rm : Rm)
  /-- SHFL (R116). -/
  | shfl (x : LR) (mode : ShMode) (w64 : Bool) (seg : BitVec 2)
  /-- WRED (R117). -/
  | wred (x : LR) (op : RedOp) (t : RedTy)
  /-- WSCAN (R117). -/
  | wscan (x : LR) (op : RedOp) (t : RedTy) (excl : Bool)
  /-- VOTE_ANY (R118). -/
  | voteAny (x : LR)
  /-- VOTE_ALL (R118). -/
  | voteAll (x : LR)
  /-- BALLOT (R118). -/
  | ballot (x : LR) (cnt : Bool)
  /-- LANE_FIRST (R119). -/
  | laneFirst (x : LR)
  /-- BRA (R146). -/
  | bra (x : LB)
  /-- BRX (R147). -/
  | brx (x : LR)
  /-- CALL (R146). -/
  | call (x : LB)
  /-- CALLX (R147). -/
  | callx (x : LR)
  /-- RET (R147). -/
  | ret (x : LR)
  /-- EXIT (R148). -/
  | exit (x : LR)
  /-- YIELD (R149). -/
  | yield (x : LR)
  /-- NOP (R149). -/
  | nop (x : LR)
  /-- LD_G (R156). -/
  | ldG (x : LM) (sz : Size) (sx : Bool) (nt : Bool)
  /-- ST_G (R157). -/
  | stG (x : LM) (sz : Size) (nt : Bool)
  /-- LD_S (R156). -/
  | ldS (x : LM) (sz : Size) (sx : Bool) (gr : Bool)
  /-- ST_S (R157). -/
  | stS (x : LM) (sz : Size) (gr : Bool)
  /-- LD_C (R156). -/
  | ldC (x : LM) (sz : Size) (sx : Bool)
  /-- LD_F (R156). -/
  | ldF (x : LM) (sz : Size) (sx : Bool)
  /-- PF_G (R159). -/
  | pfG (x : LM)
  /-- ATOM_ADD (R163). -/
  | atomAdd (x : LM) (f : AtomF)
  /-- ATOM_SUB (R163). -/
  | atomSub (x : LM) (f : AtomF)
  /-- ATOM_MIN (R163). -/
  | atomMin (x : LM) (f : AtomF)
  /-- ATOM_MAX (R163). -/
  | atomMax (x : LM) (f : AtomF)
  /-- ATOM_AND (R163). -/
  | atomAnd (x : LM) (f : AtomF)
  /-- ATOM_OR (R163). -/
  | atomOr (x : LM) (f : AtomF)
  /-- ATOM_XOR (R163). -/
  | atomXor (x : LM) (f : AtomF)
  /-- ATOM_EXCH (R163). -/
  | atomExch (x : LM) (f : AtomF)
  /-- ATOM_INC (R163). -/
  | atomInc (x : LM) (f : AtomF)
  /-- ATOM_DEC (R163). -/
  | atomDec (x : LM) (f : AtomF)
  /-- ATOM_CAS (R163). -/
  | atomCas (x : LM) (f : AtomF)
  /-- LOFT_ADD (R167). -/
  | loftAdd (x : LM) (f : LoftF)
  /-- LOFT_MIN (R167). -/
  | loftMin (x : LM) (f : LoftF)
  /-- LOFT_MAX (R167). -/
  | loftMax (x : LM) (f : LoftF)
  /-- LOFT_CAS (R166). -/
  | loftCas (x : LM) (w64 : Bool) (nr : Bool)
  /-- LOFT_SAX (R168). -/
  | loftSax (x : LM) (w64 : Bool)
  /-- FENCE (R170). -/
  | fence (x : LM)
  /-- FENCE_CB (R171). -/
  | fenceCb (x : LM)
  /-- BAR_INIT (R175). -/
  | barInit (x : LM)
  /-- BAR_ARRIVE (R176). -/
  | barArrive (x : LM)
  /-- BAR_WAIT (R176). -/
  | barWait (x : LM)
  /-- BAR_SYNC (R176). -/
  | barSync (x : LM)
  /-- BAR_EXPECT (R177). -/
  | barExpect (x : LM)
  /-- BAR_FREE (R180). -/
  | barFree (x : LM)
  /-- GBAR (R181). -/
  | gbar (x : LR)
  /-- SEMA_TAKE (R184). -/
  | semaTake (x : LM)
  /-- SEMA_WAIT (R184). -/
  | semaWait (x : LM)
  /-- SEMA_GIVE (R184). -/
  | semaGive (x : LM)
  /-- MMA_STEP (R195). -/
  | mmaStep (x : LE) (f : MFmt) (asp : Bool) (bsp : Bool)
  /-- MMA_COMMIT (R196). -/
  | mmaCommit (x : LE)
  /-- MMA_WAIT (R196). -/
  | mmaWait (x : LE) (st : Bool)
  /-- MMA_ZERO (R200). -/
  | mmaZero (x : LE) (f64 : Bool)
  /-- MMA_ZERO_FREE (R200). -/
  | mmaZeroFree (x : LE)
  /-- MMA_LD (R201). -/
  | mmaLd (x : LE) (f64 : Bool) (sp : Bool)
  /-- MMA_ST (R201). -/
  | mmaSt (x : LE) (t : StFmt) (sp : Bool)
  /-- MMA_PROG (R202). -/
  | mmaProg (x : LE)
  /-- COPY (R206). -/
  | copy (x : LE)
  /-- CBUF_INIT (R210). -/
  | cbufInit (x : LE)
  /-- CBUF_TAKE (R210). -/
  | cbufTake (x : LE)
  /-- CBUF_GIVE (R210). -/
  | cbufGive (x : LE)
  /-- QBIND (R212). -/
  | qbind (x : LE)
  /-- QSTAT (R212). -/
  | qstat (x : LE)
  /-- METER_POST (R217). -/
  | meterPost (x : LE)
  /-- EXPOSE (R219). -/
  | expose (x : LE)
  /-- SPAWN (R225). -/
  | spawn (x : LE)
  /-- POST (R226). -/
  | post (x : LE)
  /-- JOIN (R228). -/
  | join (x : LE)
  /-- TASK_END (R229). -/
  | taskEnd (x : LE)
  /-- FRAG_READ (R235). -/
  | fragRead (x : LE)
  /-- FRAG_WRITE (R235). -/
  | fragWrite (x : LE)
  /-- FRAG_RESUME (R236). -/
  | fragResume (x : LE)
  /-- FRAG_KILL (R236). -/
  | fragKill (x : LE)
  /-- FRAG_LIST (R236). -/
  | fragList (x : LE)
  /-- SYSR (R238). -/
  | sysr (x : LI)
  /-- SYSW (R238). -/
  | sysw (x : LI)
  /-- TRAP (R242). -/
  | trap (x : LI)
  /-- TIME (R243). -/
  | time (x : LR)
  /-- CYCLES (R243). -/
  | cycles (x : LR)
  /-- RAND (R244). -/
  | rand (x : LE) (t : RandTy)
  /-- SNAP (R245). -/
  | snap (x : LR)
  /-- FPCR_WRITE (R76). -/
  | fpcrWrite (x : LI)
  /-- FPSR_WRITE (R77). -/
  | fpsrWrite (x : LI)
  /-- HSCOUNT_READ (R399). -/
  | hscountRead (x : LI)
  /-- TAG_RESULT_COMPLETE (R46). -/
  | tagResultComplete (wave : Nat) (tag : Nat)
  /-- WAVE_RETIRE (R148). -/
  | waveRetire (wave : Nat)
  /-- FRAGMENT_REJOIN (R269). -/
  | fragmentRejoin (wave : Nat)
  /-- FAULT_RECORD_DELIVERY (R233). -/
  | faultRecordDelivery (core : Nat) (entry : Nat)
  /-- PAGE_FAULT_SERVICE (R416). -/
  | pageFaultService (req : PageReq) (ans : PageAns)
  /-- SIDE_LOG_REPLAY (R304). -/
  | sideLogReplay (core : Nat) (wave : Nat)
  /-- TILE_GRANT (R190). -/
  | tileGrant (cluster : Nat)
  /-- MMA_CHUNK_APPLY (R311). -/
  | mmaChunkApply (cluster : Nat) (idx : Nat)
  /-- COPY_COMPLETE (R206). -/
  | copyComplete (cluster : Nat) (idx : Nat)
  /-- CBUF_SLOT_CLAIM (R211). -/
  | cbufSlotClaim (cluster : Nat) (idx : Nat)
  /-- PORT_TAKE_PUSH (R213). -/
  | portTakePush (wave : Nat) (pair : Nat) (lane : Nat)
  /-- RANGEFINDER_CLOSEST_HIT (R367). -/
  | rangefinderClosestHit (wave : Nat) (pair : Nat) (lane : Nat)
  /-- RANGEFINDER_ANY_HIT (R367). -/
  | rangefinderAnyHit (wave : Nat) (pair : Nat) (lane : Nat)
  /-- RANGEFINDER_RASTER_PROBE (R370). -/
  | rangefinderRasterProbe (wave : Nat) (pair : Nat) (lane : Nat)
  /-- RANGEFINDER_TREE_QUERY (R371). -/
  | rangefinderTreeQuery (wave : Nat) (pair : Nat) (lane : Nat)
  /-- HAZE_MARCH (R375). -/
  | hazeMarch (wave : Nat) (pair : Nat) (lane : Nat)
  /-- METER_SWEEP (R350). -/
  | meterSweep (site : Nat) (tiles : Nat)
  /-- METER_OFFER_RETRY (R353). -/
  | meterOfferRetry (site : Nat)
  /-- METER_BLOCK_FREE (R353). -/
  | meterBlockFree (site : Nat) (block : Nat)
  /-- SCAN_START (R354). -/
  | scanStart (site : Nat)
  /-- SCANOUT_BAND_START (R359). -/
  | scanoutBandStart (site : Nat)
  /-- SCHEDULER_SCAN (R329). -/
  | schedulerScan (site : Nat)
  /-- PLACEMENT_OFFER (R332). -/
  | placementOffer (site : Nat)
  /-- DELAYED_OFFER (R228). -/
  | delayedOffer (idx : Nat)
  /-- DS_PHASE_COMMIT (R342). -/
  | dsPhaseCommit (phase : Nat)
  /-- PREWAIT (R336). -/
  | prewait (site : Nat)
  /-- GANG_WAIT (R335). -/
  | gangWait (launch : Nat) (gang : Nat)
  /-- GANG_LIMIT (R335). -/
  | gangLimit (launch : Nat) (gang : Nat)
  /-- HANG (R339). -/
  | hang (crew : Nat)
  /-- EXCLUSION_WINDOW_END (R16). -/
  | exclusionWindowEnd (core : Nat)
  /-- URGENT_WAVE_WINDOW (R255). -/
  | urgentWaveWindow (core : Nat)
  /-- BARRIER_RELEASE_SLICE (R179). -/
  | barrierReleaseSlice (crew : Nat)
  /-- PACKET_RECEIVE (R288). -/
  | packetReceive (flow : FlowId) (seq : BitVec 16)
  /-- LINK_ACK_RECEIVE (R288). -/
  | linkAckReceive (flow : FlowId) (seq : BitVec 16)
  /-- LINK_PAUSED (R385). -/
  | linkPaused
  /-- LINK_TRAIN_COMPLETE (R386). -/
  | linkTrainComplete
  /-- OPEN (R394). -/
  | hopen (d : Datagram)
  /-- ELEVATE (R394). -/
  | elevate (d : Datagram)
  /-- CLOSE (R393). -/
  | hclose (d : Datagram)
  /-- ACK (R396). -/
  | ack (d : Datagram)
  /-- SETIP (R391). -/
  | setip (d : Datagram)
  /-- MEMRD (R395). -/
  | memrd (d : Datagram)
  /-- MEMWR (R395). -/
  | memwr (d : Datagram)
  /-- LAUNCH (R322). -/
  | launch (d : Datagram)
  /-- LCLOSE (R322). -/
  | lclose (d : Datagram)
  /-- PUSH (R327). -/
  | push (d : Datagram)
  /-- QCMD (R326). -/
  | qcmd (d : Datagram)
  /-- TLBINV (R393). -/
  | tlbinv (d : Datagram)
  /-- HSRING (R393). -/
  | hsring (d : Datagram)
  /-- GATE (R388). -/
  | gate (d : Datagram)
  /-- ATTEST (R413). -/
  | attest (d : Datagram)
  /-- ROSOINU_UNKNOWN_TYPE (R392). -/
  | rosoinuUnknownType (d : Datagram)
  /-- ROSOINU_RESEND (R396). -/
  | rosoinuResend
  /-- SESSION_IDLE_TIMEOUT (R394). -/
  | sessionIdleTimeout (session : Nat)
  /-- BOOT_REQUEST_REPEAT (R397). -/
  | bootRequestRepeat (site : Nat)
  /-- FLASH_REREAD (R411). -/
  | flashReread
  /-- SNAP_TIME (R415). -/
  | snapTime
  /-- ACCESS_PERFORMED (R278). -/
  | accessPerformed (idx : Nat) (scope : Scope)
  /-- TLBINV_RANGE (R301). -/
  | tlbinvRange (w : RegWrite)
  /-- TLBINV_ALL (R301). -/
  | tlbinvAll (w : RegWrite)
  /-- QCMD_OPEN (R326). -/
  | qcmdOpen (w : RegWrite)
  /-- QCMD_CLOSE (R326). -/
  | qcmdClose (w : RegWrite)
  /-- QCMD_REMOVE (R326). -/
  | qcmdRemove (w : RegWrite)
  /-- POOL_ASSIGN (R333). -/
  | poolAssign (w : RegWrite)
  /-- METER_ENABLE (R348). -/
  | meterEnable (w : RegWrite)
  /-- METER_DISABLE (R348). -/
  | meterDisable (w : RegWrite)
  /-- METER_REJ_CLEAR (R348). -/
  | meterRejClear (w : RegWrite)
  /-- SCAN_ENABLE (R356). -/
  | scanEnable (w : RegWrite)
  /-- SCAN_DISABLE (R356). -/
  | scanDisable (w : RegWrite)
  /-- NEGSTORE_CLEAR (R380). -/
  | negstoreClear (w : RegWrite)
  /-- LINK_PAUSE (R385). -/
  | linkPause (w : RegWrite)
  /-- LINK_RESUME (R385). -/
  | linkResume (w : RegWrite)
  /-- LINK_RETRAIN (R386). -/
  | linkRetrain (w : RegWrite)
  /-- LINK_CLR (R384). -/
  | linkClr (w : RegWrite)
  /-- RAS_CLR (R410). -/
  | rasClr (w : RegWrite)
  /-- DP_HOTPLUG (R400). -/
  | dpHotplug (site : Nat) (present : Bool)
  /-- SECURITY_ALARM (R414). -/
  | securityAlarm (site : Nat)
  /-- THROTTLE (R403). -/
  | throttle (cluster : Nat) (watts : Nat) (tj : Nat)
  /-- THROTTLE_END (R403). -/
  | throttleEnd (cluster : Nat) (watts : Nat) (tj : Nat)
  /-- CORRECTED_ERROR (R404). -/
  | correctedError (site : Nat) (addr : Nat)
  /-- UNCORRECTABLE_ERROR (R404). -/
  | uncorrectableError (at_ : ErrAt) (second : Bool)
  /-- LASTING_LANE_FAULT (R406). -/
  | lastingLaneFault (core : Nat)
  /-- LASTING_POLE_FAULT (R407). -/
  | lastingPoleFault (core : Nat) (pole : PoleRef)
  /-- PTP_SYNC (R389). -/
  | ptpSync (m : PtpMsg)
  /-- HEADSET_FRAME (R399). -/
  | headsetFrame (port : Nat) (records : List (BitVec 256))
  /-- FLIT_CRC_ERROR (R383). -/
  | flitCrcError (site : Nat) (modn : Nat) (lanes : BitVec 64)
  /-- FRAME_RETIRE (R405): a page with its spare, and further ones after it. -/
  | frameRetire (page : Nat) (spare : Nat) (more : List (Nat × Nat))
  /-- POWER_ON (R411). -/
  | powerOn (site : Nat)
  /-- BOOTREQ (R412). -/
  | bootreq (d : Datagram)
  /-- RECOVER (R411). -/
  | recover (d : Datagram)
  deriving DecidableEq, Repr

end Sys2Proof
end

