-- ==== Sys2Proof/Machine/Num.lean ====
section
/-!
DEFINITION. The number formats, their exact values and rounding (03 R64-R75), NaN results (R69, R70), exceptions
(R78, R80) and the arithmetic every unit shares: sum, product, fused product and sum, minimum and maximum.
Exact values are dyadic, m x 2^e; a quotient is a pair of naturals; every rounding goes through `roundTo`.
-/
namespace Sys2Proof.Machine

/-- A format (R64): width, exponent and fraction bits, bias; `inf` says that exponent all ones is infinity and NaN;
`nan` that the format has NaNs. -/
structure Fmt where
  width : Nat
  ebits : Nat
  fbits : Nat
  bias  : Nat
  inf   : Bool
  nan   : Bool
  deriving DecidableEq, Repr

def fF64 : Fmt := ⟨64, 11, 52, 1023, true, true⟩
def fF32 : Fmt := ⟨32, 8, 23, 127, true, true⟩
def fF16 : Fmt := ⟨16, 5, 10, 15, true, true⟩
def fBf16 : Fmt := ⟨16, 8, 7, 127, true, true⟩
def fE4m3 : Fmt := ⟨8, 4, 3, 7, false, true⟩
def fE5m2 : Fmt := ⟨8, 5, 2, 15, true, true⟩
def fE2m1 : Fmt := ⟨4, 2, 1, 1, false, false⟩

/-- Rounding modes that act (R71); `dyn` of `Rm` is replaced by fpcr.RM at issue. -/
inductive Mode where
  | rne | rtz | rup | rdn | rna
  deriving DecidableEq, Repr

/-- fpcr.RM (R76). -/
def modeOfFpcr (fpcr : Word) : Mode :=
  match (fpcr.extractLsb' 0 3).toNat with
  | 1 => .rtz | 2 => .rup | 3 => .rdn | 4 => .rna | _ => .rne

end Sys2Proof.Machine
namespace Sys2Proof
open Machine

/-- The mode of an instruction (R72). -/
def Rm.mode (rm : Rm) (fpcr : Word) : Machine.Mode :=
  match rm with
  | .dyn => modeOfFpcr fpcr
  | .rne => .rne | .rtz => .rtz | .rup => .rup | .rdn => .rdn | .rna => .rna

/-- The format of one half or of the whole element of a floating-point type (R54, R67). -/
def FTy.fmt : FTy → Machine.Fmt
  | .f64 => Machine.fF64 | .f32 => Machine.fF32 | .f16 | .f16x2 => Machine.fF16 | .bf16 | .bf16x2 => Machine.fBf16
def FTy.packed : FTy → Bool
  | .f16x2 | .bf16x2 => true
  | _ => false

end Sys2Proof
namespace Sys2Proof.Machine

/-- Exception flags in the order of fpsr (R77): IV, DZ, OF, UF, IX. -/
abbrev Flags := BitVec 5
def flIV : Flags := 1
def flDZ : Flags := 2
def flOF : Flags := 4
def flUF : Flags := 8
def flIX : Flags := 16

/-- A result with the exceptions it raises. -/
structure Res where
  bits  : Nat
  flags : Flags := 0
  deriving DecidableEq, Repr

/-- The value of a bit pattern (R65): a finite value is m x 2^e with a sign; a NaN keeps its sign, whether it is
quiet, and its fraction. -/
inductive Val where
  | nan (neg quiet : Bool) (frac : Nat)
  | inf (neg : Bool)
  | fin (neg : Bool) (m : Nat) (e : Int)
  deriving DecidableEq, Repr

def Fmt.expMax (f : Fmt) : Nat := 2 ^ f.ebits - 1
/-- The bits of infinity, or of the first pattern above the largest finite one. -/
def Fmt.infBits (f : Fmt) : Nat := f.expMax * 2 ^ f.fbits
/-- The bits of the largest finite magnitude (R64). -/
def Fmt.maxBits (f : Fmt) : Nat :=
  if f.inf then f.infBits - 1 else if f.nan then 2 ^ (f.width - 1) - 2 else 2 ^ (f.width - 1) - 1
def Fmt.signBit (f : Fmt) (neg : Bool) : Nat := if neg then 2 ^ (f.width - 1) else 0
/-- The default NaN (R69). -/
def Fmt.defaultNan (f : Fmt) : Nat :=
  if f.inf then f.infBits + 2 ^ (f.fbits - 1) else 2 ^ (f.width - 1) - 1

/-- Read a bit pattern (R65). -/
def Fmt.unpack (f : Fmt) (x : Nat) : Val :=
  let neg := x / 2 ^ (f.width - 1) % 2 = 1
  let e := x / 2 ^ f.fbits % 2 ^ f.ebits
  let frac := x % 2 ^ f.fbits
  if f.inf && e = f.expMax then
    if frac = 0 then .inf neg else .nan neg (frac / 2 ^ (f.fbits - 1) % 2 = 1) frac
  else if !f.inf && f.nan && x % 2 ^ (f.width - 1) = 2 ^ (f.width - 1) - 1 then .nan neg true frac
  else if e = 0 then .fin neg frac (1 - (f.bias : Int) - f.fbits)
  else .fin neg (2 ^ f.fbits + frac) ((e : Int) - f.bias - f.fbits)

/-- The floor of the binary logarithm of n / d, both positive. -/
def ilog2 (n d : Nat) : Int :=
  let k : Int := (Nat.log2 n : Int) - Nat.log2 d
  if 0 ≤ k then (if d * 2 ^ k.toNat ≤ n then k else k - 1)
  else (if d ≤ n * 2 ^ (-k).toNat then k else k - 1)

/-- n / d in units of 2^q: the integer part, and twice the rest against one unit (0 nothing, 1 less than half, 2 half,
3 more). -/
def quantise (n d : Nat) (q : Int) : Nat × Nat :=
  let num := if q < 0 then n * 2 ^ (-q).toNat else n
  let den := if q < 0 then d else d * 2 ^ q.toNat
  let r := num % den
  (num / den, if r = 0 then 0 else if 2 * r < den then 1 else if 2 * r = den then 2 else 3)

/-- Whether a rounding goes away from zero (R71). -/
def roundsAway (rm : Mode) (neg odd : Bool) (rest : Nat) : Bool :=
  match rm with
  | .rne => rest = 3 || (rest = 2 && odd)
  | .rna => rest ≥ 2
  | .rtz => false
  | .rup => rest != 0 && !neg
  | .rdn => rest != 0 && neg

/-- n / d in units of 2^q, rounded. -/
def roundUnits (n d : Nat) (q : Int) (rm : Mode) (neg : Bool) : Nat × Bool :=
  let (m, rest) := quantise n d q
  (if roundsAway rm neg (m % 2 = 1) rest then m + 1 else m, rest != 0)

/-- The result of an overflow (R73). -/
def Fmt.overflow (f : Fmt) (rm : Mode) (sat neg : Bool) : Nat :=
  f.signBit neg +
    (if !f.nan then f.maxBits
     else if sat then f.maxBits
     else if !f.inf then f.defaultNan
     else match rm with
       | .rne | .rna => f.infBits
       | .rtz => f.maxBits
       | .rup => if neg then f.maxBits else f.infBits
       | .rdn => if neg then f.infBits else f.maxBits)

/-- round(x, rm, fmt) of a nonzero x of magnitude n / d (R71, R73, R74). -/
def Fmt.roundTo (f : Fmt) (rm : Mode) (neg : Bool) (n d : Nat) (sat : Bool := false) : Res :=
  let e := ilog2 n d
  let emin : Int := 1 - (f.bias : Int)
  let qU := e - f.fbits
  let q := if qU < emin - f.fbits then emin - f.fbits else qU
  let (m, inexact) := roundUnits n d q rm neg
  let bits := ((q + f.fbits + f.bias - 1).toNat) * 2 ^ f.fbits + m
  if f.maxBits < bits then ⟨f.overflow rm sat neg, flOF ||| flIX⟩
  else
    let mU := (roundUnits n d qU rm neg).1
    let tiny := e < emin - 1 || (e < emin && mU < 2 ^ (f.fbits + 1))
    ⟨f.signBit neg + bits, (if inexact then flIX else 0) ||| (if tiny && inexact then flUF else 0)⟩

/-- An exact value m x 2^e. -/
structure Dyad where
  m : Int
  e : Int
  deriving DecidableEq, Repr

def Dyad.add (a b : Dyad) : Dyad :=
  if a.e ≤ b.e then ⟨a.m + b.m * 2 ^ (b.e - a.e).toNat, a.e⟩
  else ⟨a.m * 2 ^ (a.e - b.e).toNat + b.m, b.e⟩
def Dyad.mul (a b : Dyad) : Dyad := ⟨a.m * b.m, a.e + b.e⟩
def Dyad.neg (a : Dyad) : Dyad := ⟨-a.m, a.e⟩
def Dyad.lt (a b : Dyad) : Bool := (Dyad.add a b.neg).m < 0
def Dyad.ofFin (neg : Bool) (m : Nat) (e : Int) : Dyad := ⟨if neg then -(m : Int) else m, e⟩

/-- round(x, rm, fmt) of an exact value; `zneg` is the sign of a zero (R75). -/
def Fmt.roundDyad (f : Fmt) (rm : Mode) (x : Dyad) (zneg : Bool) (sat : Bool := false) : Res :=
  if x.m = 0 then ⟨f.signBit zneg, 0⟩
  else
    let n := x.m.natAbs
    if 0 ≤ x.e then f.roundTo rm (x.m < 0) (n * 2 ^ x.e.toNat) 1 sat
    else f.roundTo rm (x.m < 0) n (2 ^ (-x.e).toNat) sat

/-- A signalling NaN (R69). -/
def Val.isSnan : Val → Bool
  | .nan _ q _ => !q
  | _ => false
def Val.isNan : Val → Bool
  | .nan .. => true
  | _ => false
def Val.isInf : Val → Bool
  | .inf _ => true
  | _ => false
def Val.isZero : Val → Bool
  | .fin _ m _ => m = 0
  | _ => false
def Val.neg : Val → Bool
  | .nan n _ _ | .inf n | .fin n _ _ => n
def Val.dyad : Val → Dyad
  | .fin n m e => .ofFin n m e
  | _ => ⟨0, 0⟩

/-- A NaN operand quieted in its own format (R70). -/
def Fmt.quiet (f : Fmt) (x : Nat) : Nat :=
  if f.inf then (x ||| 2 ^ (f.fbits - 1)) % 2 ^ f.width else x % 2 ^ f.width

/-- The NaN result of an operation on the listed operands, if one is a NaN (R70). -/
def Fmt.nanOf (f : Fmt) (xs : List Nat) : Option Res :=
  match xs.find? fun x => (f.unpack x).isNan with
  | none => none
  | some x => some ⟨f.quiet x, if xs.any fun y => (f.unpack y).isSnan then flIV else 0⟩

/-- The invalid operation (R70). -/
def Fmt.invalid (f : Fmt) : Res := ⟨f.defaultNan, flIV⟩

/-- The sign of an exact zero sum: x - x is +0, and -0 in RDN; two zeros of one sign keep it (R75). -/
def zeroSumSign (rm : Mode) (a b : Bool) : Bool := if a = b then a else rm = .rdn

/-- round(exact(a + b)) (R70, R71, R75, R78). -/
def Fmt.add (f : Fmt) (rm : Mode) (a b : Nat) : Res :=
  match f.nanOf [a, b] with
  | some r => r
  | none =>
    match f.unpack a, f.unpack b with
    | .inf x, .inf y => if x = y then ⟨f.signBit x + f.infBits, 0⟩ else f.invalid
    | .inf x, _ | _, .inf x => ⟨f.signBit x + f.infBits, 0⟩
    | va, vb => f.roundDyad rm (va.dyad.add vb.dyad) (zeroSumSign rm va.neg vb.neg)

/-- Change the sign bit. -/
def Fmt.negate (f : Fmt) (a : Nat) : Nat := if a / 2 ^ (f.width - 1) % 2 = 1 then a - 2 ^ (f.width - 1) else a + 2 ^ (f.width - 1)

/-- round(exact(a - b)): a NaN operand keeps its sign (R70). -/
def Fmt.sub (f : Fmt) (rm : Mode) (a b : Nat) : Res :=
  match f.nanOf [a, b] with
  | some r => r
  | none => f.add rm a (f.negate b)

/-- round(exact(a x b)). -/
def Fmt.mul (f : Fmt) (rm : Mode) (a b : Nat) : Res :=
  match f.nanOf [a, b] with
  | some r => r
  | none =>
    let va := f.unpack a
    let vb := f.unpack b
    let neg := va.neg != vb.neg
    if va.isInf || vb.isInf then
      if va.isZero || vb.isZero then f.invalid else ⟨f.signBit neg + f.infBits, 0⟩
    else f.roundDyad rm (va.dyad.mul vb.dyad) neg

/-- round(exact(a x b + c)) with operands given as values of any formats, the result in f; `nan` is the NaN result when
an operand is one (R70, R75, R78). -/
def Fmt.fmaVal (f : Fmt) (rm : Mode) (va vb vc : Val) (nan : Option Res) : Res :=
  let bad := (va.isInf && vb.isZero) || (va.isZero && vb.isInf)
  match nan with
  | some r => if bad then { r with flags := r.flags ||| flIV } else r
  | none =>
    let pneg := va.neg != vb.neg
    if bad then f.invalid
    else if va.isInf || vb.isInf then
      match vc with
      | .inf y => if y = pneg then ⟨f.signBit pneg + f.infBits, 0⟩ else f.invalid
      | _ => ⟨f.signBit pneg + f.infBits, 0⟩
    else match vc with
      | .inf y => ⟨f.signBit y + f.infBits, 0⟩
      | _ => f.roundDyad rm ((va.dyad.mul vb.dyad).add vc.dyad) (zeroSumSign rm pneg vc.neg)

def Fmt.fma (f : Fmt) (rm : Mode) (a b c : Nat) : Res :=
  f.fmaVal rm (f.unpack a) (f.unpack b) (f.unpack c) (f.nanOf [a, b, c])

/-- Order of values that are not NaN. -/
def Val.lt : Val → Val → Bool
  | .inf a, .inf b => a && !b
  | .inf a, _ => a
  | _, .inf b => !b
  | a, b => a.dyad.lt b.dyad

/-- a comes before b in the order of minimum: -0 before +0. -/
def Val.before (a b : Val) : Bool := a.lt b || (!b.lt a && a.neg && !b.neg)

/-- minimumNumber and maximumNumber (R128): a quiet NaN yields to a number. -/
def Fmt.minmaxNum (f : Fmt) (max : Bool) (a b : Nat) : Res :=
  let va := f.unpack a
  let vb := f.unpack b
  let fl : Flags := if va.isSnan || vb.isSnan then flIV else 0
  if va.isNan && vb.isNan then ⟨f.quiet a, fl⟩
  else if va.isNan then ⟨b, fl⟩
  else if vb.isNan then ⟨a, fl⟩
  else if max then ⟨if va.before vb then b else a, 0⟩
  else ⟨if vb.before va then b else a, 0⟩

/-- The code of a floating-point trap for the flags an element raises and the enables of fpcr (R80). -/
def fpTrapCode (fpcr : Word) (fl : Flags) : Option (BitVec 8) :=
  if fl.getLsbD 0 && fpcr.getLsbD 3 then some 0x10
  else if fl.getLsbD 1 && fpcr.getLsbD 4 then some 0x11
  else if fl.getLsbD 2 && fpcr.getLsbD 5 then some 0x12
  else if fl.getLsbD 3 && fpcr.getLsbD 6 then some 0x13
  else if fl.getLsbD 4 && fpcr.getLsbD 7 then some 0x14
  else none

/-! ### Small integers as floating-point operands (R40) -/

/-- A small integer in a format: exact in f64 to bf16; in e4m3, e5m2 and e2m1 rounded RNE with unbounded exponent range
and held to the largest finite value (R40). -/
def Fmt.ofSmall (f : Fmt) (v : Int) : Nat :=
  if v = 0 then 0
  else
    let neg : Bool := v < 0
    let r := f.roundTo .rne neg v.natAbs 1
    if r.flags.getLsbD 2 then f.signBit neg + f.maxBits else r.bits

/-- A small integer for a floating-point operand: packed types take it in both halves (R40). -/
def smallFp (t : FTy) (v : Int) : DWord :=
  let x := t.fmt.ofSmall v
  if t.packed then BitVec.ofNat 64 (x + 65536 * x) else BitVec.ofNat 64 x

/-- The power of two that e8m0 holds for a small integer in RNE: the nearer, a tie going up (R40, R139). -/
def e8m0OfSmall (v : Int) : Nat :=
  if v ≤ 0 then 255
  else
    let n := v.natAbs
    let e := Nat.log2 n
    if 2 * n < 3 * 2 ^ e then 127 + e else 128 + e

end Sys2Proof.Machine
end

