-- ==== Sys2Proof/Machine/Opmap.lean ====
section
/-!
DEFINITION. The opcode map as one table (02 R45, R53, R54 and the encoding tables of 04-08): for each encoded
instruction its format, OP, FN and MOD, and what each operand field accepts.  The encoder, the decoder and the
well-formedness check read this table; no other place repeats it.
-/
namespace Sys2Proof

/-- What an operand field accepts (R39-R43, R153 and each instruction's description).  `n` counts the registers
of one element. -/
inductive Role where
  /-- Not used: the selector must be 0 (R36). -/
  | none
  /-- A value source: v block, s, b, p or inline. -/
  | src (n : Nat)
  /-- A target of a branch: v, s, latch or inline (R145). -/
  | tgt
  /-- A v block or, with extent 1 x 1, an s register (R41). -/
  | dst (n : Nat)
  /-- A v block only. -/
  | dstV (n : Nat)
  /-- A predicate block (R41). -/
  | dstP
  /-- A group of n consecutive registers aligned to n, whatever the extent (R43, R141). -/
  | grp (n : Nat)
  /-- The same as a source: the operands of a cas that returns nothing, or of loft.sax (R153). -/
  | grpIn (n : Nat)
  /-- A group of n consecutive registers, or an s register: LM data of n registers. -/
  | grpS (n : Nat)
  /-- Store data: v group of n registers, or s, latch, predicate, inline when n is at most 2 (R153). -/
  | data (n : Nat)
  /-- A single v register, whatever the extent (R141). -/
  | vOne
  /-- v or s, one 32-bit value (LE). -/
  | vs
  /-- An even v pair or an s register (R224). -/
  | pairS
  /-- s only. -/
  | s
  /-- An s register whose number is a multiple of 4 (R192). -/
  | s4
  /-- s or inline. -/
  | si
  /-- s, v or inline. -/
  | svi
  /-- A tile handle (R192). -/
  | hnd
  /-- An even queue register (R212, R213). -/
  | qIn
  /-- An odd queue register (R213). -/
  | qOut
  /-- Any queue register (R212). -/
  | qAny
  /-- Offset of LM: v, s or inline (R153). -/
  | off
  deriving DecidableEq, Repr

/-- What R45 to R55 need of an instruction: the roles of its operands, T and K marks of R53, whether it uses EX
(and RS), and the checks of its own description at 0x06 and 0x07. -/
structure Desc where
  d   : Role := .none
  a   : Role := .none
  b   : Role := .none
  c   : Role := .none
  t   : Bool := false
  blk : Bool := false
  ext : Bool := true
  ok6 : Bool := true
  ok7 : Bool := true
  deriving DecidableEq, Repr

/-- An instruction by its format, with OP, FN and MOD; `step` is a row without a word. -/
inductive Parts where
  | lr (x : LR) (op : BitVec 8) (fn : BitVec 6) (mod : BitVec 2) (k : Desc)
  | li (x : LI) (op : BitVec 8) (fn : BitVec 6) (k : Desc)
  | lk (x : LK) (op : BitVec 8) (fn : BitVec 6) (k : Desc)
  | lm (x : LM) (op : BitVec 8) (fn : BitVec 6) (k : Desc)
  | lb (x : LB) (op : BitVec 8) (fn : BitVec 6) (k : Desc)
  | le (x : LE) (op : BitVec 8) (fn : BitVec 6) (k : Desc)
  /-- cvt: B and C hold the type codes (R135). -/
  | cvt (x : LR) (fn : BitVec 6) (dt st : BitVec 5) (k : Desc)
  | sh (x : SH) (ops : BitVec 4) (k : Desc)
  | step
  deriving DecidableEq, Repr

def ITy.code : ITy → BitVec 3
  | .i32 => 0 | .n32 => 1 | .i64 => 2 | .n64 => 3
/-- Registers of one element of the type (R43). -/
def ITy.regs : ITy → Nat
  | .i32 | .n32 => 1
  | .i64 | .n64 => 2
def ITy.signed : ITy → Bool
  | .i32 | .i64 => true
  | .n32 | .n64 => false

def FTy.code : FTy → BitVec 3
  | .f64 => 0 | .f32 => 1 | .f16 => 2 | .bf16 => 3 | .f16x2 => 4 | .bf16x2 => 5
def FTy.regs : FTy → Nat
  | .f64 => 2
  | _ => 1

def Rm.code : Rm → BitVec 3
  | .dyn => 0 | .rne => 1 | .rtz => 2 | .rup => 3 | .rdn => 4 | .rna => 5

def Cc.code : Cc → BitVec 3
  | .eq => 0 | .ne => 1 | .lt => 2 | .le => 3 | .gt => 4 | .ge => 5
def FCc.code : FCc → BitVec 3
  | .eq => 0 | .ne => 1 | .lt => 2 | .le => 3 | .gt => 4 | .ge => 5 | .ord => 6 | .uno => 7

def CvtTy.code : CvtTy → BitVec 5
  | .f64 => 0 | .f32 => 1 | .f16 => 2 | .bf16 => 3 | .e4m3 => 4 | .e5m2 => 5 | .e2m1 => 6 | .e8m0 => 7
  | .i8 => 8 | .i16 => 9 | .i32 => 10 | .i64 => 11 | .n8 => 12 | .n16 => 13 | .n32 => 14 | .n64 => 15
  | .f16x2 => 16 | .bf16x2 => 17
def CvtTy.regs : CvtTy → Nat
  | .f64 | .i64 | .n64 => 2
  | _ => 1

def ShMode.code : ShMode → BitVec 3
  | .idx => 0 | .up => 1 | .down => 2 | .xor => 3
def RedOp.code : RedOp → BitVec 3
  | .add => 0 | .min => 1 | .max => 2 | .and => 3 | .or => 4 | .xor => 5
def RedTy.code : RedTy → BitVec 3
  | .int t => t.code
  | .fp t => t.code
def RedTy.regs : RedTy → Nat
  | .int t => t.regs
  | .fp t => t.regs
def RedTy.isFp : RedTy → Bool
  | .int _ => false
  | .fp _ => true

def Size.code : Size → BitVec 3
  | .b8 => 0 | .b16 => 1 | .b32 => 2 | .b64 => 3 | .b128 => 4 | .b256 => 5 | .b512 => 6
/-- Bytes of an access (R54). -/
def Size.bytes : Size → Nat
  | .b8 => 1 | .b16 => 2 | .b32 => 4 | .b64 => 8 | .b128 => 16 | .b256 => 32 | .b512 => 64
/-- Registers that hold the data of an access (R43). -/
def Size.regs : Size → Nat
  | .b8 | .b16 | .b32 => 1
  | .b64 => 2 | .b128 => 4 | .b256 => 8 | .b512 => 16

def MFmt.code : MFmt → BitVec 3
  | .f64 => 0 | .f32 => 1 | .f16 => 2 | .bf16 => 3 | .e4m3 => 4 | .e5m2 => 5 | .e2m1 => 6
def StFmt.code : StFmt → BitVec 3
  | .f64 => 0 | .f32 => 1 | .f16 => 2 | .bf16 => 3
def RandTy.code : RandTy → BitVec 3
  | .i32 => 0 | .n32 => 1 | .i64 => 2 | .n64 => 3 | .f32 => 4 | .f64 => 5
def RandTy.regs : RandTy → Nat
  | .i32 | .n32 | .f32 => 1
  | .i64 | .n64 | .f64 => 2

def bit1 (b : Bool) : BitVec 1 := if b then 1 else 0

/-- FN of the integer and logic groups: [14] LI, [13:12] modifier, [11:9] type (R54). -/
def fnInt (li : Bool) (m : BitVec 2) (t : ITy) : BitVec 6 := bit1 li ++ m ++ t.code

/-- FN of the floating-point groups: rounding, type (R54). -/
def fnFp (rm : Rm) (t : FTy) : BitVec 6 := rm.code ++ t.code

/-- FN of the LM groups: [14], [13], [12], size (R54, R151). -/
def fnLm (b14 b13 b12 : Bool) (sz : BitVec 3) : BitVec 6 := bit1 b14 ++ bit1 b13 ++ bit1 b12 ++ sz

/-- D := f(A) over elements of n registers. -/
def kUn (n : Nat) (t : Bool := false) : Desc := ⟨.dst n, .src n, .none, .none, t, false, true, true, true⟩
/-- D := f(A, B) over elements of n registers. -/
def kBin (n : Nat) (t : Bool := false) : Desc := ⟨.dst n, .src n, .src n, .none, t, false, true, true, true⟩
/-- D := f(A, B, C) over elements of n registers. -/
def kTer (n : Nat) : Desc := ⟨.dst n, .src n, .src n, .src n, false, false, true, true, true⟩
/-- The LI form of a two-operand instruction. -/
def kLi (n : Nat) : Desc := ⟨.dst n, .src n, .none, .none, false, false, true, true, true⟩

/-- ORD and SCP of a memory instruction that accepts an acquire, a release, or both, up to gang scope when
`gang` (R151): plain with scope 000, or one of the allowed orderings. -/
def ordOk (x : LM) (acq rel ar gang : Bool) : Bool :=
  if x.ord = 0 then x.scp = 0
  else ((x.ord = 1 && acq) || (x.ord = 2 && rel) || (x.ord = 3 && ar)) && (!gang || x.scp.toNat ≤ 2)

/-- ORD and SCP of an atomic (R151): a returning form takes no release, a non-returning one no acquire. -/
def ordAtom (x : LM) (nr gang : Bool) : Bool := ordOk x (!nr) nr (!nr) gang

def plainOnly (x : LM) : Bool := x.ord = 0 && x.scp = 0

/-- The registers of an atomic's D: the operand, or compare and swap values (R162). -/
def atomDesc (x : LM) (f : AtomF) (cas : Bool) : Desc :=
  let n := if cas then 2 * f.sz.regs else f.sz.regs
  ⟨if !f.nr then .grp n else if cas then .grpIn n else .data n, .off, .none, .none, !f.nr, false, false, true, ordAtom x f.nr f.sp⟩

def fnAtom (f : AtomF) : BitVec 6 := fnLm f.nr f.sgn f.sp f.sz.code

def loftDesc (x : LM) (n : Nat) : Desc :=
  ⟨.data n, .off, .none, .none, false, false, false, true, ordOk x false true false false⟩

def loftSz (w64 : Bool) : BitVec 3 := if w64 then 3 else 2
def wRegs (w64 : Bool) : Nat := if w64 then 2 else 1
/-- FN[11:9] of sel and shfl (R113, R116). -/
def fnW (w64 : Bool) : BitVec 3 := if w64 then 2 else 0

/-- A control instruction in LR: no extent (R145). -/
def kCtl (d a : Role) (blk : Bool) : Desc := ⟨d, a, .none, .none, false, blk, false, true, true⟩
/-- A predicate instruction: extent 1 x 1 (R114). -/
def kPred (x : LR) (b : Role) : Desc :=
  ⟨.dstP, .src 1, b, .none, false, false, true, x.exc = 0 && x.exr = 0, true⟩
/-- A vote: a dense block of at most 8 elements (R118). -/
def kVote (x : LR) (d : Role) : Desc :=
  ⟨d, .src 1, .none, .none, false, false, true, (x.exc.toNat + 1) * (x.exr.toNat + 1) ≤ 8 && x.rs = 0, true⟩
/-- An LE instruction. -/
def kLe (d a b c : Role) (t : Bool := false) (blk : Bool := false) : Desc :=
  ⟨d, a, b, c, t, blk, false, true, true⟩
/-- A barrier or semaphore instruction (R174, R184). -/
def kSync (d : Role) (blk ok : Bool) : Desc := ⟨d, .off, .none, .none, false, blk, false, true, ok⟩

/-- The dense block shape that a queue push or pop needs (R213, R346). -/
def shapeQ (rs : BitVec 2) (exr exc : BitVec 3) (r c : Nat) : Bool := rs = 0 && exr.toNat + 1 = r && exc.toNat + 1 = c

/-- A mov of an immediate: to a block or an s register, or a push of a record that holds it in every word (R98, R213). -/
def kImm (d : Sel) (t : ITy) (record : Bool) : Desc :=
  match d with
  | .q _ => { d := .qIn, blk := true, ok6 := record }
  | _ => { d := .dst t.regs }

/-- B and C of rand: used only in the explicit form (R244). -/
def randRole (x : LE) : Role := if x.f10.getLsbD 7 then .svi else .none

/-- D of rand: its extent stands in F10, and an s register takes one element only (R41, R244). -/
def randDst (x : LE) (t : RandTy) : Role := if x.f10.extractLsb' 0 6 = 0 then .dst t.regs else .dstV t.regs

/-- Whether a rand block lies within the file and is aligned (R244, R246). -/
def randBlock (x : LE) (t : RandTy) : Bool :=
  match x.d with
  | .v r =>
    let n := (((x.f10.extractLsb' 3 3).toNat + 1) * ((x.f10.extractLsb' 0 3).toNat + 1)) * t.regs
    r.toNat % t.regs = 0 && r.toNat + n ≤ 256
  | _ => true

/-- The opcode map (R53, R54, R38). -/
def Instr.parts : Instr → Parts
  | .mov x t => .lr x 0x00 (fnInt false 0 t) 0 (kUn t.regs)
  | .movLi x t => .li x 0x00 (0b100#3 ++ t.code) (kImm x.d t (shapeQ 0 x.exr x.exc 3 3))
  | .movLk x t => .lk x 0x00 (0b110#3 ++ t.code) (kImm x.d t (shapeQ 0 (x.exr.setWidth 3) x.exc 3 3))
  | .movShort x => .sh x 0 { d := .dstV 1, b := .src 1 }
  | .movQPush x t => .lr x 0x00 (fnInt false 0 t) 0
      { d := .qIn, a := .src t.regs, blk := true, ok6 := shapeQ x.rs x.exr x.exc 3 3 }
  | .movQPop (.long x t) => .lr x 0x00 (fnInt false 0 t) 0
      { d := .dst t.regs, a := .qOut, blk := true, ok6 := shapeQ x.rs x.exr x.exc 1 8 }
  | .movQPop (.short x) => .sh x 0 { d := .dstV 1, b := .qOut, blk := true, ok6 := shapeQ 0 x.exr x.exc 1 8 }
  | .iadd x t sat => .lr x 0x01 (fnInt false (if sat then 1 else 0) t) 0 (kBin t.regs)
  | .iaddLi x t sat => .li x 0x01 (fnInt true (if sat then 1 else 0) t) (kLi t.regs)
  | .iaddShort x => .sh x 1 { d := .dstV 1, b := .src 1 }
  | .isub x t sat => .lr x 0x02 (fnInt false (if sat then 1 else 0) t) 0 (kBin t.regs)
  | .isubLi x t sat => .li x 0x02 (fnInt true (if sat then 1 else 0) t) (kLi t.regs)
  | .isubShort x => .sh x 2 { d := .dstV 1, b := .src 1 }
  | .imul x t => .lr x 0x03 (fnInt false 0 t) 0 (kBin t.regs)
  | .imulLi x t => .li x 0x03 (fnInt true 0 t) (kLi t.regs)
  | .imulh x t => .lr x 0x04 (fnInt false 0 t) 0 (kBin t.regs)
  | .imad x t => .lr x 0x05 (fnInt false 0 t) 0 (kTer t.regs)
  | .imadWide x t => .lr x 0x06 (fnInt false 0 t) 0 { d := .dst 2, a := .src 1, b := .src 1, c := .src 2 }
  | .idiv x t => .lr x 0x07 (fnInt false 0 t) 0 (kBin t.regs true)
  | .irem x t => .lr x 0x08 (fnInt false 0 t) 0 (kBin t.regs true)
  | .iabs x t sat => .lr x 0x09 (fnInt false (if sat then 1 else 0) t) 0 (kUn t.regs)
  | .ineg x t sat => .lr x 0x0A (fnInt false (if sat then 1 else 0) t) 0 (kUn t.regs)
  | .imin x t => .lr x 0x0B (fnInt false 0 t) 0 (kBin t.regs)
  | .iminLi x t => .li x 0x0B (fnInt true 0 t) (kLi t.regs)
  | .iminShort x => .sh x 9 { d := .dstV 1, b := .src 1 }
  | .imax x t => .lr x 0x0C (fnInt false 0 t) 0 (kBin t.regs)
  | .imaxLi x t => .li x 0x0C (fnInt true 0 t) (kLi t.regs)
  | .imaxShort x => .sh x 10 { d := .dstV 1, b := .src 1 }
  | .addc x t co => .lr x 0x0D (fnInt false (if co then 1 else 0) t) 0
      { d := .dst t.regs, a := .src t.regs, b := .src t.regs, c := .src 1 }
  | .subc x t co => .lr x 0x0E (fnInt false (if co then 1 else 0) t) 0
      { d := .dst t.regs, a := .src t.regs, b := .src t.regs, c := .src 1 }
  | .lea x t sc => .lr x 0x0F (fnInt false sc t) 0 { d := .dst 2, a := .src 2, b := .src t.regs }
  | .leaLi x t sc => .li x 0x0F (fnInt true sc t) { d := .dst 2, a := .src 2 }
  | .and x t => .lr x 0x10 (fnInt false 0 t) 0 (kBin t.regs)
  | .andLi x t => .li x 0x10 (fnInt true 0 t) (kLi t.regs)
  | .andShort x => .sh x 3 { d := .dstV 1, b := .src 1 }
  | .or x t => .lr x 0x11 (fnInt false 0 t) 0 (kBin t.regs)
  | .orLi x t => .li x 0x11 (fnInt true 0 t) (kLi t.regs)
  | .orShort x => .sh x 4 { d := .dstV 1, b := .src 1 }
  | .xor x t => .lr x 0x12 (fnInt false 0 t) 0 (kBin t.regs)
  | .xorLi x t => .li x 0x12 (fnInt true 0 t) (kLi t.regs)
  | .xorShort x => .sh x 5 { d := .dstV 1, b := .src 1 }
  | .not x t => .lr x 0x13 (fnInt false 0 t) 0 (kUn t.regs)
  | .andn x t => .lr x 0x14 (fnInt false 0 t) 0 (kBin t.regs)
  | .andnLi x t => .li x 0x14 (fnInt true 0 t) (kLi t.regs)
  | .shl x t => .lr x 0x15 (fnInt false 0 t) 0 { d := .dst t.regs, a := .src t.regs, b := .src 1 }
  | .shlLi x t => .li x 0x15 (fnInt true 0 t) (kLi t.regs)
  | .shlShort x => .sh x 6 { d := .dstV 1, b := .src 1 }
  | .shr x t => .lr x 0x16 (fnInt false 0 t) 0 { d := .dst t.regs, a := .src t.regs, b := .src 1 }
  | .shrLi x t => .li x 0x16 (fnInt true 0 t) (kLi t.regs)
  | .shrShort x => .sh x 7 { d := .dstV 1, b := .src 1 }
  | .sra x t => .lr x 0x17 (fnInt false 0 t) 0 { d := .dst t.regs, a := .src t.regs, b := .src 1 }
  | .sraLi x t => .li x 0x17 (fnInt true 0 t) (kLi t.regs)
  | .sraShort x => .sh x 8 { d := .dstV 1, b := .src 1 }
  | .shf x t r => .lr x 0x18 (fnInt false (if r then 1 else 0) t) 0
      { d := .dst t.regs, a := .src t.regs, b := .src t.regs, c := .src 1 }
  | .bfe x t => .lr x 0x19 (fnInt false 0 t) 0 { d := .dst t.regs, a := .src t.regs, b := .src 1 }
  | .bfi x t => .lr x 0x1A (fnInt false 0 t) 0
      { d := .dst t.regs, a := .src t.regs, b := .src t.regs, c := .src 1 }
  | .popc x t => .lr x 0x1B (fnInt false 0 t) 0 (kUn t.regs)
  | .clz x t => .lr x 0x1C (fnInt false 0 t) 0 (kUn t.regs)
  | .ctz x t => .lr x 0x1D (fnInt false 0 t) 0 (kUn t.regs)
  | .brev x t => .lr x 0x1E (fnInt false 0 t) 0 (kUn t.regs)
  | .lut3 x tb => .lr x 0x1F (tb.extractLsb' 0 6) (tb.extractLsb' 6 2) (kTer 1)
  | .fadd x t rm => .lr x 0x20 (fnFp rm t) 0 (kBin t.regs)
  | .faddShort x => .sh x 11 { d := .dstV 1, b := .src 1 }
  | .fsub x t rm => .lr x 0x21 (fnFp rm t) 0 (kBin t.regs)
  | .fsubShort x => .sh x 12 { d := .dstV 1, b := .src 1 }
  | .fmul x t rm => .lr x 0x22 (fnFp rm t) 0 (kBin t.regs)
  | .fmulShort x => .sh x 13 { d := .dstV 1, b := .src 1 }
  | .ffma x t rm => .lr x 0x23 (fnFp rm t) 0 (kTer t.regs)
  | .fdiv x t rm => .lr x 0x24 (fnFp rm t) 0 (kBin t.regs true)
  | .fsqrt x t rm => .lr x 0x25 (fnFp rm t) 0 (kUn t.regs true)
  | .frcpApprox x t => .lr x 0x26 (fnFp .dyn t) 0 (kUn t.regs true)
  | .frsqApprox x t => .lr x 0x27 (fnFp .dyn t) 0 (kUn t.regs true)
  | .fexp2Approx x t => .lr x 0x28 (fnFp .dyn t) 0 (kUn t.regs true)
  | .flog2Approx x t => .lr x 0x29 (fnFp .dyn t) 0 (kUn t.regs true)
  | .fsinApprox x t => .lr x 0x2A (fnFp .dyn t) 0 (kUn t.regs true)
  | .fcosApprox x t => .lr x 0x2B (fnFp .dyn t) 0 (kUn t.regs true)
  | .fmin x t => .lr x 0x2C (fnFp .dyn t) 0 (kBin t.regs)
  | .fminShort x => .sh x 14 { d := .dstV 1, b := .src 1 }
  | .fmax x t => .lr x 0x2D (fnFp .dyn t) 0 (kBin t.regs)
  | .fmaxShort x => .sh x 15 { d := .dstV 1, b := .src 1 }
  | .fminx x t => .lr x 0x2E (fnFp .dyn t) 0 (kBin t.regs)
  | .fmaxx x t => .lr x 0x2F (fnFp .dyn t) 0 (kBin t.regs)
  | .fabs x t => .lr x 0x30 (fnFp .dyn t) 0 (kUn t.regs)
  | .fneg x t => .lr x 0x31 (fnFp .dyn t) 0 (kUn t.regs)
  | .fcopysign x t => .lr x 0x32 (fnFp .dyn t) 0 (kBin t.regs)
  | .frint x t rm ix => .lr x 0x33 (fnFp rm t) (if ix then 1 else 0) (kUn t.regs)
  | .fgetexp x t => .lr x 0x34 (fnFp .dyn t) 0 (kUn t.regs)
  | .fgetman x t => .lr x 0x35 (fnFp .dyn t) 0 (kUn t.regs)
  | .fscale x t rm => .lr x 0x36 (fnFp rm t) 0 { d := .dst t.regs, a := .src t.regs, b := .src 1 }
  | .fclass x t => .lr x 0x37 (fnFp .dyn t) 0 { d := .dst 1, a := .src t.regs }
  | .ffmaMix x t rm => .lr x 0x38 (fnFp rm t) 0
      (let n := if t = .f32 then 2 else 1; { d := .dst n, a := .src 1, b := .src 1, c := .src n })
  | .fdot2 x t rm => .lr x 0x39 (fnFp rm t) 0 (kTer 1)
  | .icmp x t cc => .lr x 0x40 (cc.code ++ t.code) 0 { d := .dstP, a := .src t.regs, b := .src t.regs }
  | .fcmp x t cc u sg => .lr x 0x41 (cc.code ++ t.code) (bit1 sg ++ bit1 u)
      { d := .dstP, a := .src t.regs, b := .src t.regs }
  | .sel x w => .lr x 0x42 (0#3 ++ fnW w) 0
      { d := .dst (wRegs w), a := .src (wRegs w), b := .src (wRegs w), c := .src 1 }
  | .pand x => .lr x 0x43 0 0 (kPred x (.src 1))
  | .por x => .lr x 0x44 0 0 (kPred x (.src 1))
  | .pxor x => .lr x 0x45 0 0 (kPred x (.src 1))
  | .pnot x => .lr x 0x46 0 0 (kPred x .none)
  | .pmov x => .lr x 0x47 0 0 (kPred x .none)
  | .cvt x rm sat dt st => .cvt x (rm.code ++ 0#2 ++ bit1 sat) dt.code st.code { d := .dst dt.regs, a := .src st.regs }
  | .mxq x rm => .lr x 0x51 (rm.code ++ 1#3) 0
      { d := .grp 4, a := .src 1, b := .vOne, ok6 := x.exr = 3 && x.exc = 7 }
  | .shfl x m w sg => .lr x 0x52 (m.code ++ fnW w) sg
      { d := .dst (wRegs w), a := .src (wRegs w), b := .src 1, c := .src (wRegs w) }
  | .wred x op t => .lr x 0x53 (op.code ++ t.code) (bit1 false ++ bit1 t.isFp) (kUn t.regs)
  | .wscan x op t e => .lr x 0x54 (op.code ++ t.code) (bit1 e ++ bit1 t.isFp) (kUn t.regs)
  | .voteAny x => .lr x 0x55 0 0 (kVote x .dstP)
  | .voteAll x => .lr x 0x56 0 0 (kVote x .dstP)
  | .ballot x cnt => .lr x 0x57 0 (if cnt then 1 else 0) (kVote x (.dst 1))
  | .laneFirst x => .lr x 0x58 0 0 (kUn 1)
  | .bra x => .lb x 0x60 0 (kCtl .none .none false)
  | .brx x => .lr x 0x61 0 0 (kCtl .none .tgt false)
  | .call x => .lb x 0x62 0 (kCtl (.dst 1) .none false)
  | .callx x => .lr x 0x63 0 0 (kCtl (.dst 1) .tgt false)
  | .ret x => .lr x 0x64 0 0 (kCtl .none .tgt false)
  | .exit x => .lr x 0x65 0 0 (kCtl .none .none true)
  | .yield x => .lr x 0x66 0 0 (kCtl .none .none true)
  | .nop x => .lr x 0x67 0 0 (kCtl .none .none false)
  | .ldG x sz sx nt => .lm x 0x70 (fnLm false nt sx sz.code)
      ⟨.grpS sz.regs, .off, .none, .none, true, false, false, true, ordOk x true false false false⟩
  | .stG x sz nt => .lm x 0x71 (fnLm false nt false sz.code)
      ⟨.data sz.regs, .off, .none, .none, false, false, false, true, ordOk x false true false false⟩
  | .ldS x sz sx gr => .lm x 0x72 (fnLm gr false sx sz.code)
      ⟨.grpS sz.regs, .off, .none, .none, true, false, false, true, ordOk x true false false true⟩
  | .stS x sz gr => .lm x 0x73 (fnLm gr false false sz.code)
      ⟨.data sz.regs, .off, .none, .none, false, false, false, true, ordOk x false true false true⟩
  | .ldC x sz sx => .lm x 0x74 (fnLm false false sx sz.code)
      ⟨.grpS sz.regs, .off, .none, .none, true, false, false, true, plainOnly x⟩
  | .ldF x sz sx => .lm x 0x75 (fnLm false false sx sz.code)
      ⟨.grpS sz.regs, .off, .none, .none, true, false, false, true, plainOnly x⟩
  | .pfG x => .lm x 0x76 0 ⟨.none, .off, .none, .none, false, false, false, true, plainOnly x⟩
  | .atomAdd x f => .lm x 0x90 (fnAtom f) (atomDesc x f false)
  | .atomSub x f => .lm x 0x91 (fnAtom f) (atomDesc x f false)
  | .atomMin x f => .lm x 0x92 (fnAtom f) (atomDesc x f false)
  | .atomMax x f => .lm x 0x93 (fnAtom f) (atomDesc x f false)
  | .atomAnd x f => .lm x 0x94 (fnAtom f) (atomDesc x f false)
  | .atomOr x f => .lm x 0x95 (fnAtom f) (atomDesc x f false)
  | .atomXor x f => .lm x 0x96 (fnAtom f) (atomDesc x f false)
  | .atomExch x f => .lm x 0x97 (fnAtom f) (atomDesc x f false)
  | .atomInc x f => .lm x 0x98 (fnAtom f) (atomDesc x f false)
  | .atomDec x f => .lm x 0x99 (fnAtom f) (atomDesc x f false)
  | .atomCas x f => .lm x 0x9A (fnAtom f) (atomDesc x f true)
  | .loftAdd x f => .lm x 0x9B (fnLm false f.sgn f.flt (loftSz f.w64)) (loftDesc x (wRegs f.w64))
  | .loftMin x f => .lm x 0x9C (fnLm false f.sgn f.flt (loftSz f.w64)) (loftDesc x (wRegs f.w64))
  | .loftMax x f => .lm x 0x9D (fnLm false f.sgn f.flt (loftSz f.w64)) (loftDesc x (wRegs f.w64))
  | .loftCas x w nr => .lm x 0x9E (fnLm nr false false (loftSz w))
      ⟨if nr then .grpIn (2 * wRegs w) else .grp (2 * wRegs w), .off, .none, .none, !nr, false, false, true, ordAtom x nr false⟩
  | .loftSax x w => .lm x 0x9F (fnLm false false true (loftSz w))
      ⟨.grpIn 4, .off, .none, .none, false, false, false, true, ordOk x false true false false⟩
  | .fence x => .lm x 0xA0 0
      { ext := false, ok7 := x.ord ≠ 0 && x.sb = 0 && x.imm = 0 && x.sc = 0 }
  | .fenceCb x => .lm x 0xA0 (fnLm false false true 0)
      { ext := false, ok7 := x.ord ≠ 0 && x.sb = 0 && x.imm = 0 && x.sc = 0 }
  | .barInit x => .lm x 0xA1 4 (kSync (.data 1) false (plainOnly x))
  | .barArrive x => .lm x 0xA2 4 (kSync (.grpS 1) false (ordOk x false true false false))
  | .barWait x => .lm x 0xA3 4 (kSync (.data 1) true (ordOk x true false false false))
  | .barSync x => .lm x 0xA4 4 (kSync .none true (ordOk x true true true false))
  | .barExpect x => .lm x 0xA5 4 (kSync (.data 1) false (plainOnly x))
  | .barFree x => .lm x 0xA6 4 (kSync .none false (plainOnly x))
  | .gbar x => .lr x 0xA7 0 0 (kCtl .none .none true)
  | .semaTake x => .lm x 0xA8 3 (kSync (.grpS 1) false (ordOk x true false true false))
  | .semaWait x => .lm x 0xA9 3 (kSync (.data 1) true (ordOk x true false false false))
  | .semaGive x => .lm x 0xAA 3 (kSync .none false (ordOk x false true false false))
  | .mmaStep x f asp bsp => .le x 0xB0 (bit1 false ++ bit1 bsp ++ bit1 asp ++ f.code) (kLe .hnd .s4 .s4 .si)
  | .mmaCommit x => .le x 0xB1 0 (kLe .none .none .none .none)
  | .mmaWait x st => .le x 0xB2 (fnLm false false st 0) (kLe (if st then .vs else .none) .none .none .none false true)
  | .mmaZero x f64 => .le x 0xB3 (if f64 then 0 else 1) (kLe .hnd .none .none .none)
  | .mmaZeroFree x => .le x 0xB3 0 (kLe .hnd .none .none .none)
  | .mmaLd x f64 sp => .le x 0xB4 (fnLm false false sp (if f64 then 0 else 1)) (kLe .hnd .s .si .vs true)
  | .mmaSt x t sp => .le x 0xB5 (fnLm false false sp t.code) (kLe .hnd .s .si .vs true)
  | .mmaProg x => .le x 0xB6 0 (kLe .vs .hnd .none .none)
  | .copy x => .le x 0xC0 0 (kLe .vs .s .s .svi true)
  | .cbufInit x => .le x 0xC1 0 (kLe .none .svi .s .none)
  | .cbufTake x => .le x 0xC2 0 (kLe .vs .svi .none .none false true)
  | .cbufGive x => .le x 0xC3 0 (kLe .none .svi .none .none)
  | .qbind x => .le x 0xC8 0 (kLe .qIn .si .s .none false true)
  | .qstat x => .le x 0xC9 0 (kLe .vs .qAny .none .none false true)
  | .meterPost x => .le x 0xCA 0 (kLe .none .s .none .none)
  | .expose x => .le x 0xCB 0 (kLe .none (.grp 8) .none .none)
  | .spawn x => .le x 0xD0 0 (kLe .vs .svi .svi .none)
  | .post x => .le x 0xD1 0 (kLe .vs (.grp 16) .s .none)
  | .join x => .le x 0xD2 0 (kLe .none .s .svi .svi)
  | .taskEnd x => .le x 0xD3 0 (kLe .none .svi .none .none false true)
  | .fragRead x => .le x 0xD4 0 (kLe .pairS .vs .svi .none)
  | .fragWrite x => .le x 0xD5 0 (kLe .vs .vs .svi (.src 1))
  | .fragResume x => .le x 0xD6 0 (kLe .vs .vs .svi .none)
  | .fragKill x => .le x 0xD7 0 (kLe .vs .vs .svi .none)
  | .fragList x => .le x 0xD8 0 (kLe .pairS .vs .none .none)
  | .sysr x => .li x 0xE0 0 (kCtl (if sysWide x.imm then .dst 2 else .dst 1) .none false)
  | .hscountRead x => .li x 0xE0 0 (kCtl (.dst 1) .none false)
  | .sysw x => .li x 0xE1 0 (kCtl .none (if sysWide x.imm then .src 2 else .src 1) false)
  | .fpcrWrite x => .li x 0xE1 0 (kCtl .none (.src 1) false)
  | .fpsrWrite x => .li x 0xE1 0 (kCtl .none (.src 1) false)
  | .trap x => .li x 0xE2 0 (kCtl .none .none false)
  | .time x => .lr x 0xE3 0 0 (kCtl (.dst 2) .none false)
  | .cycles x => .lr x 0xE4 0 0 (kCtl (.dst 2) .none false)
  | .rand x t => .le x 0xE5 (0#3 ++ t.code)
      ⟨randDst x t, .none, randRole x, randRole x, false, false, false, randBlock x t, true⟩
  | .snap x => .lr x 0xE6 0 0 (kCtl .none .none false)
  | .tlbinvRange _ => .step
  | .tlbinvAll _ => .step
  | .qcmdOpen _ => .step
  | .qcmdClose _ => .step
  | .qcmdRemove _ => .step
  | .poolAssign _ => .step
  | .meterEnable _ => .step
  | .meterDisable _ => .step
  | .meterRejClear _ => .step
  | .scanEnable _ => .step
  | .scanDisable _ => .step
  | .negstoreClear _ => .step
  | .linkPause _ => .step
  | .linkResume _ => .step
  | .linkRetrain _ => .step
  | .linkClr _ => .step
  | .rasClr _ => .step
  | .tagResultComplete _ _ => .step
  | .waveRetire _ => .step
  | .fragmentRejoin _ => .step
  | .faultRecordDelivery _ _ => .step
  | .pageFaultService _ _ => .step
  | .sideLogReplay _ _ => .step
  | .frameRetire _ _ _ => .step
  | .tileGrant _ => .step
  | .mmaChunkApply _ _ => .step
  | .copyComplete _ _ => .step
  | .cbufSlotClaim _ _ => .step
  | .portTakePush _ _ _ => .step
  | .rangefinderClosestHit _ _ _ => .step
  | .rangefinderAnyHit _ _ _ => .step
  | .rangefinderRasterProbe _ _ _ => .step
  | .rangefinderTreeQuery _ _ _ => .step
  | .hazeMarch _ _ _ => .step
  | .meterSweep _ _ => .step
  | .meterOfferRetry _ => .step
  | .meterBlockFree _ _ => .step
  | .scanStart _ => .step
  | .scanoutBandStart _ => .step
  | .schedulerScan _ => .step
  | .placementOffer _ => .step
  | .delayedOffer _ => .step
  | .dsPhaseCommit _ => .step
  | .prewait _ => .step
  | .gangWait _ _ => .step
  | .gangLimit _ _ => .step
  | .hang _ => .step
  | .exclusionWindowEnd _ => .step
  | .urgentWaveWindow _ => .step
  | .barrierReleaseSlice _ => .step
  | .packetReceive _ _ => .step
  | .linkAckReceive _ _ => .step
  | .flitCrcError _ _ _ => .step
  | .linkPaused => .step
  | .linkTrainComplete => .step
  | .ptpSync _ => .step
  | .headsetFrame _ _ => .step
  | .hopen _ => .step
  | .elevate _ => .step
  | .hclose _ => .step
  | .ack _ => .step
  | .setip _ => .step
  | .memrd _ => .step
  | .memwr _ => .step
  | .launch _ => .step
  | .lclose _ => .step
  | .push _ => .step
  | .qcmd _ => .step
  | .tlbinv _ => .step
  | .hsring _ => .step
  | .gate _ => .step
  | .attest _ => .step
  | .bootreq _ => .step
  | .recover _ => .step
  | .rosoinuUnknownType _ => .step
  | .rosoinuResend => .step
  | .sessionIdleTimeout _ => .step
  | .bootRequestRepeat _ => .step
  | .flashReread => .step
  | .powerOn _ => .step
  | .dpHotplug _ _ => .step
  | .securityAlarm _ => .step
  | .throttle _ _ _ => .step
  | .snapTime => .step
  | .correctedError _ _ => .step
  | .uncorrectableError _ _ => .step
  | .lastingLaneFault _ => .step
  | .lastingPoleFault _ _ => .step
  | .accessPerformed _ _ => .step
  | .throttleEnd _ _ _ => .step
where
  /-- The 64-bit system registers (R239, R241, R301, R326, R338, R348, R356, R359, R380, R384, R390, R409, R415). -/
  sysWide (imm : BitVec 22) : Bool :=
    [0x006, 0x00C, 0x1003, 0x3021, 0x3030, 0x3031, 0x3041, 0x3042, 0x3050, 0x3051, 0x3060, 0x3081,
     0x4003, 0x4004, 0x4005, 0x4006, 0x4007, 0x4008, 0x6001, 0x6003, 0x8001, 0x8002].contains imm.toNat

/-- Formats of R64 other than e8m0. -/
def CvtTy.isFloat : CvtTy → Bool
  | .f64 | .f32 | .f16 | .bf16 | .e4m3 | .e5m2 | .e2m1 => true
  | _ => false
/-- f64, f32, f16 and bf16. -/
def CvtTy.isBig : CvtTy → Bool
  | .f64 | .f32 | .f16 | .bf16 => true
  | _ => false
def CvtTy.isInt : CvtTy → Bool
  | .i8 | .i16 | .i32 | .i64 | .n8 | .n16 | .n32 | .n64 => true
  | _ => false
def CvtTy.isPacked : CvtTy → Bool
  | .f16x2 | .bf16x2 => true
  | _ => false

/-- The pairs that cvt accepts, source then destination (R140). -/
def cvtPairOk (st dt : CvtTy) : Bool :=
  (st.isFloat && dt.isFloat) || (st.isBig && (dt = .e8m0 || dt.isInt)) || (st = .e8m0 && dt.isBig) ||
  (st.isInt && (dt.isBig || dt.isInt)) || (st.isPacked && dt.isPacked)

/-- The pairs that R140 marks "sat". -/
def cvtSatOk (st dt : CvtTy) : Bool :=
  (st.isFloat && (dt = .e4m3 || dt = .e5m2)) || (st.isInt && dt.isInt)

/-- The system registers that a rule assigns (R239 to R241 and each register's description). -/
def sysAssigned (n : Nat) : Bool :=
  n < 0x10 || (0x1000 ≤ n && n ≤ 0x1003) || n = 0x2010 || n = 0x2011 ||
  [0x3020, 0x3021, 0x3030, 0x3031, 0x3032, 0x3040, 0x3041, 0x3042, 0x3050, 0x3051, 0x3060, 0x3061, 0x3070,
   0x3080, 0x3081].contains n ||
  (0x4000 ≤ n && n ≤ 0x4008) || (0x5000 ≤ n && n ≤ 0x5003) || n = 0x5010 || (0x6000 ≤ n && n ≤ 0x6004) ||
  (0x7000 ≤ n && n ≤ 0x7010) || (0x8000 ≤ n && n ≤ 0x8004)

/-- The system registers that a rule makes writable (R238). -/
def sysWritable (n : Nat) : Bool :=
  [0x00A, 0x00B, 0x2010, 0x2011, 0x3020, 0x3021, 0x3030, 0x3031, 0x3032, 0x3040, 0x3041, 0x3042, 0x3050, 0x3061,
   0x4001, 0x4002, 0x4003, 0x4005, 0x5000, 0x5001, 0x5002, 0x5003, 0x7010, 0x8000, 0x8001, 0x8003].contains n

/-- The targets of frag.read and frag.write: F10 [9:8] class, [7:0] index (R234). -/
def fragTargetOk (f10 : BitVec 10) : Bool :=
  let cls := (f10.extractLsb' 8 2).toNat
  let ix := (f10.extractLsb' 0 8).toNat
  cls = 0 || (cls = 1 && (ix ≤ 6 || (16 ≤ ix && ix ≤ 79))) || (cls = 2 && ix ≤ 127)

/-- Scope codes of F10 [9:7]: 110 and 111 are not defined (R205, R224). -/
def scopeOk (f10 : BitVec 10) : Bool := (f10.extractLsb' 7 3).toNat < 6

/-- Tile columns of F10 [6:3]: an f64 layout allows at most 64 (R191, R192). -/
def f64Cols (f10 : BitVec 10) : Bool := (f10.extractLsb' 3 4).toNat < 8

/-- Check 0x02: what each instruction's own description asks of its types, modifiers and immediate codes (R54). -/
def Instr.fnOk : Instr → Bool
  | .imadWide _ t => t.regs = 1
  | .iabs _ t _ | .ineg _ t _ => t.signed
  | .frcpApprox _ t | .frsqApprox _ t | .fexp2Approx _ t | .flog2Approx _ t | .fsinApprox _ t | .fcosApprox _ t => t != .f64
  | .ffmaMix _ t _ => t = .f32 || t = .f16 || t = .bf16
  | .fdot2 _ t _ => t = .f16x2 || t = .bf16x2
  | .fcmp _ t cc u _ => t != .f16x2 && t != .bf16x2 && !((cc = .ord || cc = .uno) && u)
  | .cvt _ _ sat dt st => cvtPairOk st dt && (!sat || cvtSatOk st dt)
  | .wred _ op t | .wscan _ op t _ => !t.isFp || op = .add || op = .min || op = .max
  | .ldG _ sz sx _ | .ldS _ sz sx _ | .ldC _ sz sx | .ldF _ sz sx => !sx || sz.bytes ≤ 2
  | .atomAdd _ f | .atomSub _ f | .atomAnd _ f | .atomOr _ f | .atomXor _ f | .atomInc _ f | .atomDec _ f =>
      (f.sz = .b32 || f.sz = .b64) && !f.sgn
  | .atomMin _ f | .atomMax _ f => f.sz = .b32 || f.sz = .b64
  | .atomExch _ f | .atomCas _ f => (f.sz = .b32 || f.sz = .b64 || f.sz = .b128) && !f.sgn
  | .loftAdd _ f => !f.sgn
  | .loftMin _ f | .loftMax _ f => !(f.sgn && f.flt)
  | .mmaStep x f _ _ => !(f = .f64 || f = .f32) || x.f10.extractLsb' 1 2 = 0
  | .mmaZero x f64 => !x.f10.getLsbD 0 && (!f64 || f64Cols x.f10)
  | .mmaZeroFree x => x.f10.getLsbD 0
  | .mmaLd x f64 _ => !f64 || f64Cols x.f10
  | .copy x | .post x | .join x => scopeOk x.f10
  | .qbind x => match x.a with
    | .inl i => 64 ≤ i.toNat && i.toNat ≤ 69
    | _ => true
  | .fragRead x | .fragWrite x => fragTargetOk x.f10
  | .sysr x => sysAssigned x.imm.toNat && x.imm != 0x3070
  | .hscountRead x => x.imm = 0x3070
  | .sysw x => sysWritable x.imm.toNat && x.imm != 0x00A && x.imm != 0x00B
  | .fpcrWrite x => x.imm = 0x00A
  | .fpsrWrite x => x.imm = 0x00B
  | _ => true

end Sys2Proof
end

