-- ==== Sys2Proof/WellFormed.lean ====
section
/-!
DEFINITION. Well-formed instructions: the checks 0x02 to 0x07 of R55 over the opcode map, each by name and in the
order in which the fault record reports them.  A row without a word is well formed.
-/
namespace Sys2Proof

/-- The extent and stride of the vector blocks of an instruction (R35, R42). -/
structure Ext where
  rows   : Nat
  cols   : Nat
  stride : Nat
  deriving DecidableEq, Repr

/-- Elements of a block. -/
def Ext.count (e : Ext) : Nat := e.rows * e.cols

/-- The extent of a short, LI or LK block: dense (R35, R37). -/
def Ext.dense (r c : Nat) : Ext := ⟨r, c, c⟩

/-- The row stride of RS (R35). -/
def rowStride (rs : BitVec 2) (cols : Nat) : Nat :=
  if rs = 0 then cols else if rs = 1 then 8 else if rs = 2 then 16 else 32

def LR.extent (x : LR) : Ext := ⟨x.exr.toNat + 1, x.exc.toNat + 1, rowStride x.rs (x.exc.toNat + 1)⟩
def LI.extent (x : LI) : Ext := .dense (x.exr.toNat + 1) (x.exc.toNat + 1)
def LK.extent (x : LK) : Ext := .dense (x.exr.toNat + 1) (x.exc.toNat + 1)
def SH.extent (x : SH) : Ext := .dense (x.exr.toNat + 1) (x.exc.toNat + 1)

/-- A v block of n-register elements lies within v0-v255 and starts at a multiple of n (R42, R43). -/
def blockFits (e : Ext) (n : Nat) (r : BitVec 8) : Bool :=
  r.toNat % n = 0 && r.toNat + n * ((e.rows - 1) * e.stride + e.cols) ≤ 256

/-- Check 0x05: a selector of a kind its field accepts (R39, R41, R153, R187). -/
def Role.kindOk (ro : Role) (e : Ext) (x : Sel) : Bool :=
  match ro, x with
  | .none, _ => true
  | .src _, .v _ | .src _, .s _ | .src _, .b _ | .src _, .p _ | .src _, .inl _ => true
  | .tgt, .v _ | .tgt, .s _ | .tgt, .b _ | .tgt, .inl _ => true
  | .dst _, .v _ => true
  | .dst _, .s _ => e.count = 1
  | .dstV _, .v _ | .vOne, .v _ | .grp _, .v _ | .grpIn _, .v _ => true
  | .dstP, .p _ => true
  | .grpS _, .v _ => true
  | .grpS n, .s _ => n ≤ 2
  | .data _, .v _ => true
  | .data n, .s _ | .data n, .b _ | .data n, .p _ | .data n, .inl _ => n ≤ 2
  | .vs, .v _ | .vs, .s _ | .pairS, .v _ | .pairS, .s _ => true
  | .s, .s _ | .s4, .s _ => true
  | .si, .s _ | .si, .inl _ => true
  | .svi, .s _ | .svi, .v _ | .svi, .inl _ => true
  | .hnd, .m _ => true
  | .qIn, .q _ | .qOut, .q _ | .qAny, .q _ => true
  | .off, .v _ | .off, .s _ | .off, .inl _ => true
  | _, _ => false

/-- Check 0x06: each block within its file and aligned (R41-R43, R187, R212, R213).  A predicate block whose row stride equals
its columns counts as dense (log entry 17). -/
def Role.blockOk (ro : Role) (e : Ext) (x : Sel) : Bool :=
  match ro, x with
  | .src n, .v r | .dst n, .v r | .dstV n, .v r => blockFits e n r
  | .dstP, .p k => k.val + e.count ≤ 12 && (e.stride = e.cols)
  | .grp n, .v r | .grpIn n, .v r | .grpS n, .v r | .data n, .v r => r.toNat % n = 0 && r.toNat + n ≤ 256
  | .pairS, .v r => r.toNat % 2 = 0
  | .s4, .s r => r.toNat % 4 = 0
  | .qIn, .q k => k.toNat % 2 = 0
  | .qOut, .q k => k.toNat % 2 = 1
  | _, _ => true

/-- Check 0x07 for one field: unused means zero (R36). -/
def Role.usedOk (ro : Role) (x : Sel) : Bool :=
  match ro with
  | .none => x = .v 0
  | _ => true

/-- Check 0x04: GD.P is p0-p11, or 15 without negation (R34). -/
def guardOk (gn : Bool) (gp : BitVec 4) : Bool := gp.toNat < 12 || (gp = 15 && !gn)

/-- Whether an instruction leaves a latch entry that is not empty (R50): it is not a T instruction and writes a
vector block. -/
def entryOk (k : Desc) (d : Sel) : Bool :=
  !k.t && match k.d, d with
    | .dst _, .v _ | .dstV _, .v _ | .grp _, .v _ | .grpS _, .v _ | .vs, .v _ | .pairS, .v _ => true
    | _, _ => false

/-- Check 0x07 of the header: TA only on T, CH only on non-blocking, WS only with a latch entry (R45, R50, R51). -/
def hdrOk (k : Desc) (tav ch ws : Bool) (d : Sel) : Bool :=
  (!tav || k.t) && (!ch || !k.blk) && (!ws || entryOk k d)

/-- The operands of an instruction in the order A, B, C, D with their roles, its extent and its header bits. -/
structure Operands where
  e   : Ext
  ops : List (Role × Sel)
  k   : Desc
  gn  : Bool
  gp  : BitVec 4
  tav : Bool
  tatZ : Bool
  ch  : Bool
  ws  : Bool
  d   : Sel
  extZ : Bool
  deriving DecidableEq, Repr

/-- The extent over which an instruction's operand blocks are judged: one that does not use EX and RS has elements of
1 x 1, whatever stands in those fields (R36, R55). -/
def Desc.extent (k : Desc) (e : Ext) : Ext := if k.ext then e else .dense 1 1

def Parts.operands : Parts → Option Operands
  | .lr x _ _ _ k => some
      ⟨k.extent x.extent, [(k.a, x.a), (k.b, x.b), (k.c, x.c), (k.d, x.d)], k, x.h.gn, x.h.gp, x.h.tav, x.h.tat = 0,
       x.h.ch, x.h.ws, x.d, x.exc = 0 && x.exr = 0 && x.rs = 0⟩
  | .cvt x _ _ _ k => some
      ⟨k.extent x.extent, [(k.a, x.a), (.none, x.b), (.none, x.c), (k.d, x.d)], k, x.h.gn, x.h.gp, x.h.tav, x.h.tat = 0,
       x.h.ch, x.h.ws, x.d, x.exc = 0 && x.exr = 0 && x.rs = 0⟩
  | .li x _ _ k => some
      ⟨k.extent x.extent, [(k.a, x.a), (k.d, x.d)], k, x.h.gn, x.h.gp, x.h.tav, x.h.tat = 0,
       x.h.ch, x.h.ws, x.d, x.exc = 0 && x.exr = 0⟩
  | .lk x _ _ k => some
      ⟨k.extent x.extent, [(k.d, x.d)], k, x.h.gn, x.h.gp, x.h.tav, x.h.tat = 0, x.h.ch, x.h.ws, x.d, x.exc = 0 && x.exr = 0⟩
  | .lm x _ _ k => some
      ⟨.dense 1 1, [(k.a, x.o), (k.d, x.d)], k, x.h.gn, x.h.gp, x.h.tav, x.h.tat = 0, x.h.ch, x.h.ws, x.d, true⟩
  | .lb x _ _ k => some
      ⟨.dense 1 1, [(k.d, x.lk)], k, x.h.gn, x.h.gp, x.h.tav, x.h.tat = 0, x.h.ch, x.h.ws, x.lk, true⟩
  | .le x _ _ k => some
      ⟨.dense 1 1, [(k.a, x.a), (k.b, x.b), (k.c, x.c), (k.d, x.d)], k, x.h.gn, x.h.gp, x.h.tav, x.h.tat = 0,
       x.h.ch, x.h.ws, x.d, true⟩
  | .sh x _ k => some
      ⟨k.extent x.extent, [(k.b, x.b), (k.d, .v x.da)], k, x.gn, x.gp, false, true, x.ch, x.ws, .v x.da, true⟩
  | .step => none

/-- Reserved fields that an instruction's constructor still holds (0x03): SCP, KIND, tag numbers without their
valid bit, IMM[21:16] of trap, the F10 bits its table gives as 0, and the shape of mma.zero.free (R192). -/
def Instr.reservedOk (i : Instr) : Bool :=
  (match i.parts with
   | .lm x _ _ _ => x.scp.toNat < 6
   | .lb x _ _ _ => x.kind.toNat < 2
   | .sh x _ _ => x.twv || x.twt = 0
   | .le x op _ _ => x.f10 &&& f10Zero op = 0
   | _ => true) &&
  (match i with
   | .trap x => (x.imm.extractLsb' 16 6) = 0
   | .mmaZeroFree x => x.f10.extractLsb' 3 7 = 0
   | _ => true) &&
  (match i.parts.operands with
   | some o => o.tav || o.tatZ
   | none => true)
where
  /-- The F10 bits that the tables of R192, R205, R210, R212, R217, R219, R224 and R244 give as 0. -/
  f10Zero (op : BitVec 8) : BitVec 10 :=
    match op.toNat with
    | 0xB0 => 0x001
    | 0xB1 | 0xB2 => 0x3FC
    | 0xB3 => 0x006
    | 0xB4 => 0x007
    | 0xC0 | 0xD1 | 0xD2 => 0x07F
    | 0xD4 | 0xD5 => 0x000
    | 0xE5 => 0x340
    | _ => 0x3FF

/-- The checks of R55 from 0x02 on, in their order: the first that fails. -/
def Instr.firstFailure (i : Instr) : Option (BitVec 16) :=
  if !i.fnOk then some 2
  else if !i.reservedOk then some 3
  else match i.parts.operands with
    | none => none
    | some o =>
      if !guardOk o.gn o.gp then some 4
      else if !(o.ops.all fun p => p.1.kindOk o.e p.2) then some 5
      else if !(o.ops.all fun p => p.1.blockOk o.e p.2) || !o.k.ok6 then some 6
      else if !(o.ops.all fun p => p.1.usedOk p.2) || !(o.k.ext || o.extZ) || !hdrOk o.k o.tav o.ch o.ws o.d || !o.k.ok7
      then some 7
      else none

/-- An instruction that decoding can answer: no check of R55 fails. -/
def Instr.WellFormed (i : Instr) : Bool := i.firstFailure.isNone

end Sys2Proof
end

