-- ==== Sys2Proof/Decode.lean ====
section
/-!
DEFINITION. The decoder, total on any parcels, with the details of R55 for what it refuses, and after it the
encoder, written from the same tables (02 R33-R38, R53, R54).
-/
namespace Sys2Proof

/-- The selector of R39. -/
def decodeSel (x : BitVec 9) : Sel :=
  let n := x.toNat
  if n < 256 then .v (BitVec.ofNat 8 n)
  else if n < 320 then .s (BitVec.ofNat 6 (n - 256))
  else if n < 324 then .b (BitVec.ofNat 2 (n - 320))
  else if n < 336 then .p (Fin.ofNat 12 (n - 324))
  else if n < 344 then .q (BitVec.ofNat 3 (n - 336))
  else if n < 352 then .m (BitVec.ofNat 3 (n - 344))
  else if n < 384 then .bad (BitVec.ofNat 5 (n - 352))
  else .inl (BitVec.ofNat 7 (n - 384))

def decodeITy (x : BitVec 3) : Option ITy :=
  match x.toNat with
  | 0 => some .i32 | 1 => some .n32 | 2 => some .i64 | 3 => some .n64 | _ => none

def decodeFTy (x : BitVec 3) : Option FTy :=
  match x.toNat with
  | 0 => some .f64 | 1 => some .f32 | 2 => some .f16 | 3 => some .bf16 | 4 => some .f16x2 | 5 => some .bf16x2
  | _ => none

def decodeRm (x : BitVec 3) : Option Rm :=
  match x.toNat with
  | 0 => some .dyn | 1 => some .rne | 2 => some .rtz | 3 => some .rup | 4 => some .rdn | 5 => some .rna | _ => none

def decodeCc (x : BitVec 3) : Option Cc :=
  match x.toNat with
  | 0 => some .eq | 1 => some .ne | 2 => some .lt | 3 => some .le | 4 => some .gt | 5 => some .ge | _ => none

def decodeFCc (x : BitVec 3) : FCc :=
  match x.toNat with
  | 0 => .eq | 1 => .ne | 2 => .lt | 3 => .le | 4 => .gt | 5 => .ge | 6 => .ord | _ => .uno

def decodeCvtTy (x : BitVec 5) : Option CvtTy :=
  match x.toNat with
  | 0 => some .f64 | 1 => some .f32 | 2 => some .f16 | 3 => some .bf16 | 4 => some .e4m3 | 5 => some .e5m2
  | 6 => some .e2m1 | 7 => some .e8m0 | 8 => some .i8 | 9 => some .i16 | 10 => some .i32 | 11 => some .i64
  | 12 => some .n8 | 13 => some .n16 | 14 => some .n32 | 15 => some .n64 | 16 => some .f16x2 | 17 => some .bf16x2
  | _ => none

def decodeRedOp (x : BitVec 3) : Option RedOp :=
  match x.toNat with
  | 0 => some .add | 1 => some .min | 2 => some .max | 3 => some .and | 4 => some .or | 5 => some .xor | _ => none

def decodeShMode (x : BitVec 3) : Option ShMode :=
  match x.toNat with
  | 0 => some .idx | 1 => some .up | 2 => some .down | 3 => some .xor | _ => none

def decodeSize (x : BitVec 3) : Option Size :=
  match x.toNat with
  | 0 => some .b8 | 1 => some .b16 | 2 => some .b32 | 3 => some .b64 | 4 => some .b128 | 5 => some .b256
  | 6 => some .b512 | _ => none

def decodeMFmt (x : BitVec 3) : Option MFmt :=
  match x.toNat with
  | 0 => some .f64 | 1 => some .f32 | 2 => some .f16 | 3 => some .bf16 | 4 => some .e4m3 | 5 => some .e5m2
  | 6 => some .e2m1 | _ => none

def decodeStFmt (x : BitVec 3) : Option StFmt :=
  match x.toNat with
  | 0 => some .f64 | 1 => some .f32 | 2 => some .f16 | 3 => some .bf16 | _ => none

def decodeRandTy (x : BitVec 3) : Option RandTy :=
  match x.toNat with
  | 0 => some .i32 | 1 => some .n32 | 2 => some .i64 | 3 => some .n64 | 4 => some .f32 | 5 => some .f64 | _ => none

/-! ### Fields of a long word (R33, R35) -/

def longOp (w : LongWord) : BitVec 8 := w.extractLsb' 1 8
def longFn (w : LongWord) : BitVec 6 := w.extractLsb' 9 6
def longMod (w : LongWord) : BitVec 2 := w.extractLsb' 78 2

def hdrOf (w : LongWord) : Hdr :=
  ⟨w.extractLsb' 26 8, w.getLsbD 25, w.extractLsb' 22 3, w.getLsbD 21, w.getLsbD 20, w.getLsbD 19, w.extractLsb' 15 4⟩

def lrOf (w : LongWord) : LR :=
  ⟨hdrOf w, w.extractLsb' 76 2, w.extractLsb' 73 3, w.extractLsb' 70 3, decodeSel (w.extractLsb' 61 9),
   decodeSel (w.extractLsb' 52 9), decodeSel (w.extractLsb' 43 9), decodeSel (w.extractLsb' 34 9)⟩

def liOf (w : LongWord) : LI :=
  ⟨hdrOf w, w.extractLsb' 58 22, w.extractLsb' 55 3, w.extractLsb' 52 3, decodeSel (w.extractLsb' 43 9),
   decodeSel (w.extractLsb' 34 9)⟩

def lkOf (w : LongWord) : LK :=
  ⟨hdrOf w, w.extractLsb' 77 3, w.extractLsb' 75 2, w.extractLsb' 43 32, decodeSel (w.extractLsb' 34 9)⟩

def lmOf (w : LongWord) : LM :=
  ⟨hdrOf w, w.extractLsb' 76 3, w.extractLsb' 74 2, w.extractLsb' 72 2, w.extractLsb' 58 14,
   decodeSel (w.extractLsb' 49 9), w.extractLsb' 43 6, decodeSel (w.extractLsb' 34 9)⟩

def lbOf (w : LongWord) : LB :=
  ⟨hdrOf w, w.extractLsb' 75 5, decodeSel (w.extractLsb' 66 9), w.extractLsb' 34 32⟩

def leOf (w : LongWord) : LE :=
  ⟨hdrOf w, w.extractLsb' 70 10, decodeSel (w.extractLsb' 61 9), decodeSel (w.extractLsb' 52 9),
   decodeSel (w.extractLsb' 43 9), decodeSel (w.extractLsb' 34 9)⟩

/-- OP assigned (R53), check 0x01. -/
def opAssigned (op : BitVec 8) : Bool :=
  let n := op.toNat
  n ≤ 0x39 || (0x40 ≤ n && n ≤ 0x47) || (0x50 ≤ n && n ≤ 0x58) || (0x60 ≤ n && n ≤ 0x67) || (0x70 ≤ n && n ≤ 0x76) ||
  (0x90 ≤ n && n ≤ 0xAA) || (0xB0 ≤ n && n ≤ 0xB6) || (0xC0 ≤ n && n ≤ 0xC3) || (0xC8 ≤ n && n ≤ 0xCB) ||
  (0xD0 ≤ n && n ≤ 0xD8) || (0xE0 ≤ n && n ≤ 0xE6)

/-- An integer instruction in LR with modifier 00 and MOD 00. -/
def pInt (w : LongWord) (f : LR → ITy → Instr) : Option Instr := do
  guard ((longFn w).extractLsb' 3 3 = 0 ∧ longMod w = 0)
  let t ← decodeITy ((longFn w).extractLsb' 0 3)
  some (f (lrOf w) t)

/-- As `pInt`, with a one-bit modifier in FN[12]. -/
def pIntM (w : LongWord) (f : LR → ITy → Bool → Instr) : Option Instr := do
  guard ((longFn w).extractLsb' 4 2 = 0 ∧ longMod w = 0)
  let t ← decodeITy ((longFn w).extractLsb' 0 3)
  some (f (lrOf w) t ((longFn w).getLsbD 3))

/-- An integer instruction with an LI form: FN[14] chooses it. -/
def pIntL (w : LongWord) (f : LR → ITy → Instr) (g : LI → ITy → Instr) : Option Instr := do
  let t ← decodeITy ((longFn w).extractLsb' 0 3)
  guard ((longFn w).extractLsb' 3 2 = 0)
  if (longFn w).getLsbD 5 then some (g (liOf w) t) else do
    guard (longMod w = 0)
    some (f (lrOf w) t)

/-- As `pIntL`, with the modifier .sat. -/
def pIntS (w : LongWord) (f : LR → ITy → Bool → Instr) (g : LI → ITy → Bool → Instr) : Option Instr := do
  let t ← decodeITy ((longFn w).extractLsb' 0 3)
  guard (!(longFn w).getLsbD 4)
  if (longFn w).getLsbD 5 then some (g (liOf w) t ((longFn w).getLsbD 3)) else do
    guard (longMod w = 0)
    some (f (lrOf w) t ((longFn w).getLsbD 3))

/-- A floating-point instruction marked rm. -/
def pFpR (w : LongWord) (ok : FTy → Bool) (f : LR → FTy → Rm → Instr) : Option Instr := do
  let rm ← decodeRm ((longFn w).extractLsb' 3 3)
  let t ← decodeFTy ((longFn w).extractLsb' 0 3)
  guard (ok t ∧ longMod w = 0)
  some (f (lrOf w) t rm)

/-- A floating-point instruction not marked rm. -/
def pFp (w : LongWord) (ok : FTy → Bool) (f : LR → FTy → Instr) : Option Instr := do
  let t ← decodeFTy ((longFn w).extractLsb' 0 3)
  guard ((longFn w).extractLsb' 3 3 = 0 ∧ ok t ∧ longMod w = 0)
  some (f (lrOf w) t)

/-- FN = 0 and MOD = 0 in LR. -/
def pLr0 (w : LongWord) (f : LR → Instr) : Option Instr := do
  guard (longFn w = 0 ∧ longMod w = 0)
  some (f (lrOf w))

def pLb0 (w : LongWord) (f : LB → Instr) : Option Instr := do
  guard (longFn w = 0)
  some (f (lbOf w))

def pLe0 (w : LongWord) (f : LE → Instr) : Option Instr := do
  guard (longFn w = 0)
  some (f (leOf w))

def pLm (w : LongWord) (fn : BitVec 6) (f : LM → Instr) : Option Instr := do
  guard (longFn w = fn)
  some (f (lmOf w))

/-- A load: FN[12] sign-extends 8 and 16 bits only (R151). -/
def pLoad (w : LongWord) (b14 b13 : Bool) (f : LM → Size → Bool → Instr) : Option Instr := do
  let sz ← decodeSize ((longFn w).extractLsb' 0 3)
  guard (((longFn w).getLsbD 3 → sz.bytes ≤ 2) ∧ (b14 ∨ (longFn w).getLsbD 5 = false) ∧
    (b13 ∨ (longFn w).getLsbD 4 = false))
  some (f (lmOf w) sz ((longFn w).getLsbD 3))

/-- A store (R151). -/
def pStore (w : LongWord) (b14 b13 : Bool) (f : LM → Size → Instr) : Option Instr := do
  let sz ← decodeSize ((longFn w).extractLsb' 0 3)
  guard ((longFn w).getLsbD 3 = false ∧ (b14 ∨ (longFn w).getLsbD 5 = false) ∧ (b13 ∨ (longFn w).getLsbD 4 = false))
  some (f (lmOf w) sz)

/-- An atomic: sizes 010, 011 and, for exch and cas, 100; FN[13] for min and max only (R151, R165). -/
def pAtom (w : LongWord) (wide minmax : Bool) (f : LM → AtomF → Instr) : Option Instr := do
  let sz ← decodeSize ((longFn w).extractLsb' 0 3)
  guard ((sz = .b32 ∨ sz = .b64 ∨ (wide ∧ sz = .b128)) ∧ (minmax ∨ (longFn w).getLsbD 4 = false))
  some (f (lmOf w) ⟨sz, (longFn w).getLsbD 3, (longFn w).getLsbD 4, (longFn w).getLsbD 5⟩)

/-- loft.add, loft.min, loft.max (R151, R169). -/
def pLoft (w : LongWord) (minmax : Bool) (f : LM → LoftF → Instr) : Option Instr := do
  let fn := longFn w
  guard ((fn.extractLsb' 0 3 = 2 ∨ fn.extractLsb' 0 3 = 3) ∧ fn.getLsbD 5 = false ∧
    (fn.getLsbD 4 = true → minmax = true ∧ fn.getLsbD 3 = false))
  some (f (lmOf w) ⟨fn.getLsbD 0, fn.getLsbD 3, fn.getLsbD 4⟩)

def parseMov (w : LongWord) : Option Instr := do
  let t ← decodeITy ((longFn w).extractLsb' 0 3)
  match ((longFn w).extractLsb' 3 3).toNat with
  | 0 =>
    guard (longMod w = 0)
    let x := lrOf w
    match x.d, x.a with
    | .q _, _ => some (.movQPush x t)
    | _, .q _ => some (.movQPop (.long x t))
    | _, _ => some (.mov x t)
  | 4 => some (.movLi (liOf w) t)
  | 6 => some (.movLk (lkOf w) t)
  | _ => none

def parseLea (w : LongWord) : Option Instr := do
  let t ← decodeITy ((longFn w).extractLsb' 0 3)
  if (longFn w).getLsbD 5 then some (.leaLi (liOf w) t ((longFn w).extractLsb' 3 2)) else do
    guard (longMod w = 0)
    some (.lea (lrOf w) t ((longFn w).extractLsb' 3 2))

def parseFcmp (w : LongWord) : Option Instr := do
  let t ← decodeFTy ((longFn w).extractLsb' 0 3)
  let cc := decodeFCc ((longFn w).extractLsb' 3 3)
  guard (t ≠ .f16x2 ∧ t ≠ .bf16x2 ∧ ((cc = .ord ∨ cc = .uno) → (longMod w).getLsbD 0 = false))
  some (.fcmp (lrOf w) t cc ((longMod w).getLsbD 0) ((longMod w).getLsbD 1))

def parseW (x : BitVec 3) : Option Bool := if x = 0 then some false else if x = 2 then some true else none

def parseRed (w : LongWord) (f : LR → RedOp → RedTy → Instr) : Option Instr := do
  let op ← decodeRedOp ((longFn w).extractLsb' 3 3)
  if (longMod w).getLsbD 0 then do
    let t ← decodeFTy ((longFn w).extractLsb' 0 3)
    guard (op = .add ∨ op = .min ∨ op = .max)
    some (f (lrOf w) op (.fp t))
  else do
    let t ← decodeITy ((longFn w).extractLsb' 0 3)
    some (f (lrOf w) op (.int t))

def parseCvt (w : LongWord) : Option Instr := do
  let rm ← decodeRm ((longFn w).extractLsb' 3 3)
  let dt ← decodeCvtTy (w.extractLsb' 52 5)
  let st ← decodeCvtTy (w.extractLsb' 61 5)
  let sat := (longFn w).getLsbD 0
  guard ((longFn w).extractLsb' 1 2 = 0 ∧ longMod w = 0 ∧ cvtPairOk st dt ∧ (sat = true → cvtSatOk st dt = true))
  some (.cvt { lrOf w with b := .v 0, c := .v 0 } rm sat dt st)

def parseMma (w : LongWord) : Option Instr :=
  let fn := longFn w
  let x := leOf w
  match (longOp w).toNat with
  | 0xB0 => do
    let f ← decodeMFmt (fn.extractLsb' 0 3)
    guard (fn.getLsbD 5 = false ∧ ((f = .f64 ∨ f = .f32) → x.f10.extractLsb' 1 2 = 0))
    some (.mmaStep x f (fn.getLsbD 3) (fn.getLsbD 4))
  | 0xB1 => pLe0 w .mmaCommit
  | 0xB2 => do
    guard (fn &&& 0b110111 = 0)
    some (.mmaWait x (fn.getLsbD 3))
  | 0xB3 => do
    guard (fn = 0 ∨ fn = 1)
    if x.f10.getLsbD 0 then do
      guard (fn = 0)
      some (.mmaZeroFree x)
    else do
      guard (fn = 1 ∨ f64Cols x.f10)
      some (.mmaZero x (fn = 0))
  | 0xB4 => do
    guard (fn &&& 0b110110 = 0 ∧ (fn.getLsbD 0 = true ∨ f64Cols x.f10))
    some (.mmaLd x (!fn.getLsbD 0) (fn.getLsbD 3))
  | 0xB5 => do
    let t ← decodeStFmt (fn.extractLsb' 0 3)
    guard (fn &&& 0b110000 = 0)
    some (.mmaSt x t (fn.getLsbD 3))
  | _ => pLe0 w .mmaProg

/-- qbind with an inline port code outside 0 to 5 (R212). -/
def parseQbind (w : LongWord) : Option Instr := do
  guard (longFn w = 0)
  let x := leOf w
  match x.a with
  | .inl i => guard (64 ≤ i.toNat ∧ i.toNat ≤ 69)
  | _ => pure ()
  some (.qbind x)

def parseSys (w : LongWord) : Option Instr :=
  match (longOp w).toNat with
  | 0xE0 => do
    guard (longFn w = 0 ∧ sysAssigned (liOf w).imm.toNat)
    if (liOf w).imm = 0x3070 then some (.hscountRead (liOf w)) else some (.sysr (liOf w))
  | 0xE1 => do
    guard (longFn w = 0 ∧ sysWritable (liOf w).imm.toNat)
    if (liOf w).imm = 0x00A then some (.fpcrWrite (liOf w))
    else if (liOf w).imm = 0x00B then some (.fpsrWrite (liOf w)) else some (.sysw (liOf w))
  | 0xE2 => do
    guard (longFn w = 0)
    some (.trap (liOf w))
  | 0xE3 => pLr0 w .time
  | 0xE4 => pLr0 w .cycles
  | 0xE5 => do
    guard ((longFn w).extractLsb' 3 3 = 0)
    let t ← decodeRandTy ((longFn w).extractLsb' 0 3)
    some (.rand (leOf w) t)
  | _ => pLr0 w .snap

/-- The instruction that OP, FN and MOD name, or none: check 0x02 (R54). -/
def parseLong (w : LongWord) : Option Instr :=
  match (longOp w).toNat with
  | 0x00 => parseMov w
  | 0x01 => pIntS w .iadd .iaddLi
  | 0x02 => pIntS w .isub .isubLi
  | 0x03 => pIntL w .imul .imulLi
  | 0x04 => pInt w .imulh
  | 0x05 => pInt w .imad
  | 0x06 => do
    guard ((longFn w).extractLsb' 1 2 = 0)
    pInt w .imadWide
  | 0x07 => pInt w .idiv
  | 0x08 => pInt w .irem
  | 0x09 => do
    guard ((longFn w).getLsbD 0 = false)
    pIntM w .iabs
  | 0x0A => do
    guard ((longFn w).getLsbD 0 = false)
    pIntM w .ineg
  | 0x0B => pIntL w .imin .iminLi
  | 0x0C => pIntL w .imax .imaxLi
  | 0x0D => pIntM w .addc
  | 0x0E => pIntM w .subc
  | 0x0F => parseLea w
  | 0x10 => pIntL w .and .andLi
  | 0x11 => pIntL w .or .orLi
  | 0x12 => pIntL w .xor .xorLi
  | 0x13 => pInt w .not
  | 0x14 => pIntL w .andn .andnLi
  | 0x15 => pIntL w .shl .shlLi
  | 0x16 => pIntL w .shr .shrLi
  | 0x17 => pIntL w .sra .sraLi
  | 0x18 => pIntM w .shf
  | 0x19 => pInt w .bfe
  | 0x1A => pInt w .bfi
  | 0x1B => pInt w .popc
  | 0x1C => pInt w .clz
  | 0x1D => pInt w .ctz
  | 0x1E => pInt w .brev
  | 0x1F => some (.lut3 (lrOf w) (longMod w ++ longFn w))
  | 0x20 => pFpR w (fun _ => true) .fadd
  | 0x21 => pFpR w (fun _ => true) .fsub
  | 0x22 => pFpR w (fun _ => true) .fmul
  | 0x23 => pFpR w (fun _ => true) .ffma
  | 0x24 => pFpR w (fun _ => true) .fdiv
  | 0x25 => pFpR w (fun _ => true) .fsqrt
  | 0x26 => pFp w (· ≠ .f64) .frcpApprox
  | 0x27 => pFp w (· ≠ .f64) .frsqApprox
  | 0x28 => pFp w (· ≠ .f64) .fexp2Approx
  | 0x29 => pFp w (· ≠ .f64) .flog2Approx
  | 0x2A => pFp w (· ≠ .f64) .fsinApprox
  | 0x2B => pFp w (· ≠ .f64) .fcosApprox
  | 0x2C => pFp w (fun _ => true) .fmin
  | 0x2D => pFp w (fun _ => true) .fmax
  | 0x2E => pFp w (fun _ => true) .fminx
  | 0x2F => pFp w (fun _ => true) .fmaxx
  | 0x30 => pFp w (fun _ => true) .fabs
  | 0x31 => pFp w (fun _ => true) .fneg
  | 0x32 => pFp w (fun _ => true) .fcopysign
  | 0x33 => do
    let rm ← decodeRm ((longFn w).extractLsb' 3 3)
    let t ← decodeFTy ((longFn w).extractLsb' 0 3)
    guard ((longMod w).getLsbD 1 = false)
    some (.frint (lrOf w) t rm ((longMod w).getLsbD 0))
  | 0x34 => pFp w (fun _ => true) .fgetexp
  | 0x35 => pFp w (fun _ => true) .fgetman
  | 0x36 => pFpR w (fun _ => true) .fscale
  | 0x37 => pFp w (fun _ => true) .fclass
  | 0x38 => pFpR w (fun t => t = .f32 ∨ t = .f16 ∨ t = .bf16) .ffmaMix
  | 0x39 => pFpR w (fun t => t = .f16x2 ∨ t = .bf16x2) .fdot2
  | 0x40 => do
    let cc ← decodeCc ((longFn w).extractLsb' 3 3)
    let t ← decodeITy ((longFn w).extractLsb' 0 3)
    guard (longMod w = 0)
    some (.icmp (lrOf w) t cc)
  | 0x41 => parseFcmp w
  | 0x42 => do
    guard ((longFn w).extractLsb' 3 3 = 0 ∧ longMod w = 0)
    let wd ← parseW ((longFn w).extractLsb' 0 3)
    some (.sel (lrOf w) wd)
  | 0x43 => pLr0 w .pand
  | 0x44 => pLr0 w .por
  | 0x45 => pLr0 w .pxor
  | 0x46 => pLr0 w .pnot
  | 0x47 => pLr0 w .pmov
  | 0x50 => parseCvt w
  | 0x51 => do
    let rm ← decodeRm ((longFn w).extractLsb' 3 3)
    guard ((longFn w).extractLsb' 0 3 = 1 ∧ longMod w = 0)
    some (.mxq (lrOf w) rm)
  | 0x52 => do
    let m ← decodeShMode ((longFn w).extractLsb' 3 3)
    let wd ← parseW ((longFn w).extractLsb' 0 3)
    some (.shfl (lrOf w) m wd (longMod w))
  | 0x53 => do
    guard ((longMod w).getLsbD 1 = false)
    parseRed w .wred
  | 0x54 => parseRed w (fun x op t => .wscan x op t ((longMod w).getLsbD 1))
  | 0x55 => pLr0 w .voteAny
  | 0x56 => pLr0 w .voteAll
  | 0x57 => do
    guard (longFn w = 0 ∧ (longMod w).getLsbD 1 = false)
    some (.ballot (lrOf w) ((longMod w).getLsbD 0))
  | 0x58 => pLr0 w .laneFirst
  | 0x60 => pLb0 w .bra
  | 0x61 => pLr0 w .brx
  | 0x62 => pLb0 w .call
  | 0x63 => pLr0 w .callx
  | 0x64 => pLr0 w .ret
  | 0x65 => pLr0 w .exit
  | 0x66 => pLr0 w .yield
  | 0x67 => pLr0 w .nop
  | 0x70 => pLoad w false true (fun x sz sx => .ldG x sz sx ((longFn w).getLsbD 4))
  | 0x71 => pStore w false true (fun x sz => .stG x sz ((longFn w).getLsbD 4))
  | 0x72 => pLoad w true false (fun x sz sx => .ldS x sz sx ((longFn w).getLsbD 5))
  | 0x73 => pStore w true false (fun x sz => .stS x sz ((longFn w).getLsbD 5))
  | 0x74 => pLoad w false false .ldC
  | 0x75 => pLoad w false false .ldF
  | 0x76 => pLm w 0 .pfG
  | 0x90 => pAtom w false false .atomAdd
  | 0x91 => pAtom w false false .atomSub
  | 0x92 => pAtom w false true .atomMin
  | 0x93 => pAtom w false true .atomMax
  | 0x94 => pAtom w false false .atomAnd
  | 0x95 => pAtom w false false .atomOr
  | 0x96 => pAtom w false false .atomXor
  | 0x97 => pAtom w true false .atomExch
  | 0x98 => pAtom w false false .atomInc
  | 0x99 => pAtom w false false .atomDec
  | 0x9A => pAtom w true false .atomCas
  | 0x9B => pLoft w false .loftAdd
  | 0x9C => pLoft w true .loftMin
  | 0x9D => pLoft w true .loftMax
  | 0x9E => do
    guard ((longFn w).extractLsb' 1 2 = 1 ∧ (longFn w).extractLsb' 3 2 = 0)
    some (.loftCas (lmOf w) ((longFn w).getLsbD 0) ((longFn w).getLsbD 5))
  | 0x9F => do
    guard ((longFn w).extractLsb' 1 5 = 0b00101)
    some (.loftSax (lmOf w) ((longFn w).getLsbD 0))
  | 0xA0 => do
    guard (longFn w &&& 0b110111 = 0)
    some (if (longFn w).getLsbD 3 then .fenceCb (lmOf w) else .fence (lmOf w))
  | 0xA1 => pLm w 4 .barInit
  | 0xA2 => pLm w 4 .barArrive
  | 0xA3 => pLm w 4 .barWait
  | 0xA4 => pLm w 4 .barSync
  | 0xA5 => pLm w 4 .barExpect
  | 0xA6 => pLm w 4 .barFree
  | 0xA7 => pLr0 w .gbar
  | 0xA8 => pLm w 3 .semaTake
  | 0xA9 => pLm w 3 .semaWait
  | 0xAA => pLm w 3 .semaGive
  | 0xB0 | 0xB1 | 0xB2 | 0xB3 | 0xB4 | 0xB5 | 0xB6 => parseMma w
  | 0xC0 => do
    guard (longFn w = 0 ∧ scopeOk (leOf w).f10)
    some (.copy (leOf w))
  | 0xC1 => pLe0 w .cbufInit
  | 0xC2 => pLe0 w .cbufTake
  | 0xC3 => pLe0 w .cbufGive
  | 0xC8 => parseQbind w
  | 0xC9 => pLe0 w .qstat
  | 0xCA => pLe0 w .meterPost
  | 0xCB => pLe0 w .expose
  | 0xD0 => pLe0 w .spawn
  | 0xD1 => do
    guard (longFn w = 0 ∧ scopeOk (leOf w).f10)
    some (.post (leOf w))
  | 0xD2 => do
    guard (longFn w = 0 ∧ scopeOk (leOf w).f10)
    some (.join (leOf w))
  | 0xD3 => pLe0 w .taskEnd
  | 0xD4 => do
    guard (longFn w = 0 ∧ fragTargetOk (leOf w).f10)
    some (.fragRead (leOf w))
  | 0xD5 => do
    guard (longFn w = 0 ∧ fragTargetOk (leOf w).f10)
    some (.fragWrite (leOf w))
  | 0xD6 => pLe0 w .fragResume
  | 0xD7 => pLe0 w .fragKill
  | 0xD8 => pLe0 w .fragList
  | 0xE0 | 0xE1 | 0xE2 | 0xE3 | 0xE4 | 0xE5 | 0xE6 => parseSys w
  | _ => none

/-- Bits outside every field of the instruction's own layout: LM bit [79], and B[60:57] and C[69:66] of cvt
(R55, detail 0x03). -/
def longReservedOk (w : LongWord) (i : Instr) : Bool :=
  match i.parts with
  | .lm .. => w.getLsbD 79 = false
  | .cvt .. => w.extractLsb' 57 4 = 0 && w.extractLsb' 66 4 = 0
  | _ => true

/-- Decode a long word: the instruction, or the detail of R55. -/
def decodeLong (w : LongWord) : Except (BitVec 16) Instr :=
  if !opAssigned (longOp w) then .error 1
  else match parseLong w with
    | none => .error 2
    | some i =>
      if !longReservedOk w i then .error 3
      else match i.firstFailure with
        | some d => .error d
        | none => .ok i

/-! ### The short form (R37, R38) -/

def shOf (p : Parcel) : SH :=
  ⟨p.getLsbD 38, p.getLsbD 37, p.getLsbD 36, p.extractLsb' 33 3, p.getLsbD 32, p.extractLsb' 28 4,
   p.extractLsb' 25 3, p.extractLsb' 22 3, decodeSel (p.extractLsb' 13 9), p.extractLsb' 5 8⟩

/-- The instruction that OPS names; every one of the sixteen values is assigned (R38). -/
def parseShort (p : Parcel) : Instr :=
  let x := shOf p
  match (p.extractLsb' 1 4).toNat with
  | 0 => match x.b with
    | .q _ => .movQPop (.short x)
    | _ => .movShort x
  | 1 => .iaddShort x
  | 2 => .isubShort x
  | 3 => .andShort x
  | 4 => .orShort x
  | 5 => .xorShort x
  | 6 => .shlShort x
  | 7 => .shrShort x
  | 8 => .sraShort x
  | 9 => .iminShort x
  | 10 => .imaxShort x
  | 11 => .faddShort x
  | 12 => .fsubShort x
  | 13 => .fmulShort x
  | 14 => .fminShort x
  | _ => .fmaxShort x

def decodeShort (p : Parcel) : Except (BitVec 16) Instr :=
  let i := parseShort p
  if p.getLsbD 39 then .error 3
  else match i.firstFailure with
    | some d => .error d
    | none => .ok i

/-- Whether a first parcel starts a long instruction (R29). -/
def isLong (p : Parcel) : Bool := p.getLsbD 0

/-- Decode from a first parcel and the parcel that follows it (R29). -/
def decode (p0 p1 : Parcel) : Except (BitVec 16) Instr :=
  if isLong p0 then decodeLong (p1 ++ p0) else decodeShort p0

/-- Byte k of a word, least significant first (R4). -/
def byteOf {n : Nat} (w : BitVec n) (k : Nat) : Byte := w.extractLsb' (8 * k) 8

/-- A parcel from its five bytes in memory (R29). -/
def parcelOfBytes (b0 b1 b2 b3 b4 : Byte) : Parcel := b4 ++ b3 ++ b2 ++ b1 ++ b0

/-- Decode from the ten bytes in memory at a lane's PC. -/
def decodeBytes (bs : List Byte) : Except (BitVec 16) Instr :=
  let at_ (k : Nat) : Byte := bs.getD k 0
  decode (parcelOfBytes (at_ 0) (at_ 1) (at_ 2) (at_ 3) (at_ 4)) (parcelOfBytes (at_ 5) (at_ 6) (at_ 7) (at_ 8) (at_ 9))

/-- The ten bytes of an instruction whose bits are w (bit 0 the least significant bit of its first parcel), all
bits above nbits zero. -/
def tableBytes (nbits w : Nat) : List Byte :=
  let x : LongWord := BitVec.ofNat 80 (w % 2 ^ nbits)
  [byteOf x 0, byteOf x 1, byteOf x 2, byteOf x 3, byteOf x 4, byteOf x 5, byteOf x 6, byteOf x 7, byteOf x 8,
   byteOf x 9]

/-- What the decoder reads from an instruction of the opcode table. -/
def decodeTableWord (nbits w : Nat) : Option Instr :=
  match decodeBytes (tableBytes nbits w) with
  | .ok i => some i
  | .error _ => none

/-! ### The encoder -/

def encodeSel : Sel → BitVec 9
  | .v r => r.setWidth 9
  | .s r => BitVec.ofNat 9 (256 + r.toNat)
  | .b k => BitVec.ofNat 9 (320 + k.toNat)
  | .p k => BitVec.ofNat 9 (324 + k.val)
  | .q k => BitVec.ofNat 9 (336 + k.toNat)
  | .m k => BitVec.ofNat 9 (344 + k.toNat)
  | .bad k => BitVec.ofNat 9 (352 + k.toNat)
  | .inl i => BitVec.ofNat 9 (384 + i.toNat)

/-- Bits [33:0] of a long word (R33). -/
def encodeHdr (h : Hdr) (fn : BitVec 6) (op : BitVec 8) : BitVec 34 :=
  h.tc ++ bit1 h.tav ++ h.tat ++ bit1 h.ch ++ bit1 h.ws ++ bit1 h.gn ++ h.gp ++ fn ++ op ++ 1#1

/-- An instruction's word: a short parcel, a long word, or none for a row without a word. -/
inductive Encoded where
  | short (p : Parcel)
  | long (w : LongWord)
  | none
  deriving DecidableEq, Repr

def encode (i : Instr) : Encoded :=
  match i.parts with
  | .lr x op fn m _ => .long
      (m ++ x.rs ++ x.exc ++ x.exr ++ encodeSel x.c ++ encodeSel x.b ++ encodeSel x.a ++ encodeSel x.d ++ encodeHdr x.h fn op)
  | .cvt x fn dt st _ => .long
      (0#2 ++ x.rs ++ x.exc ++ x.exr ++ (0#4 ++ st) ++ (0#4 ++ dt) ++ encodeSel x.a ++ encodeSel x.d ++
        encodeHdr x.h fn 0x50)
  | .li x op fn _ => .long
      (x.imm ++ x.exc ++ x.exr ++ encodeSel x.a ++ encodeSel x.d ++ encodeHdr x.h fn op)
  | .lk x op fn _ => .long (x.exc ++ x.exr ++ x.imm ++ encodeSel x.d ++ encodeHdr x.h fn op)
  | .lm x op fn _ => .long
      (0#1 ++ x.scp ++ x.ord ++ x.sc ++ x.imm ++ encodeSel x.o ++ x.sb ++ encodeSel x.d ++ encodeHdr x.h fn op)
  | .lb x op fn _ => .long (x.kind ++ encodeSel x.lk ++ x.tgt ++ encodeHdr x.h fn op)
  | .le x op fn _ => .long
      (x.f10 ++ encodeSel x.c ++ encodeSel x.b ++ encodeSel x.a ++ encodeSel x.d ++ encodeHdr x.h fn op)
  | .sh x ops _ => .short
      (0#1 ++ bit1 x.ch ++ bit1 x.ws ++ bit1 x.twv ++ x.twt ++ bit1 x.gn ++ x.gp ++ x.exc ++ x.exr ++ encodeSel x.b ++
        x.da ++ ops ++ 0#1)
  | .step => .none

/-- Decode what `encode` gives. -/
def decodeEncoded : Encoded → Option Instr
  | .short p => (decodeShort p).toOption
  | .long w => (decodeLong w).toOption
  | .none => none

end Sys2Proof
end

