-- ==== Sys2Proof/Config.lean ====
section
/-!
DEFINITION. What is fixed for the machine: the counts of 01 R17-R26, the physical map of 12 R292, and the free
values: opaque constants that nothing can evaluate, applied to the counter `fresh` of State (or to operands).
A free value stands for what the spec leaves open; a statement holds for every value of it (log entry 7).
-/
namespace Sys2Proof.Config

/-- Cores of a site (R17). -/
def coresPerSite : Nat := 96
/-- Clusters of a site (R17). -/
def clustersPerSite : Nat := 12
/-- Cores of a cluster (R17). -/
def coresPerCluster : Nat := 8
/-- Resident waves of a core (R20). -/
def wavesPerCore : Nat := 128
/-- Bivouac entries of a core (R26). -/
def bivouacEntries : Nat := 64
/-- Side-log entries of a core (R26). -/
def sideLogEntries : Nat := 256
/-- Accumulator tiles of a cluster (R190). -/
def tilesPerCluster : Nat := 64
/-- Step-queue entries of a matrix engine (R310). -/
def stepEntries : Nat := 32
/-- Outstanding copies of a copy engine (R318). -/
def copyEntries : Nat := 16
/-- Queue slots of a site (R326). -/
def queueSlots : Nat := 64
/-- Records of a site's gang table (R334). -/
def gangTable : Nat := 32
/-- Line entries of a site's phase table (R340). -/
def phaseLines : Nat := 131072
/-- DS lines one crew may write in its phase (R343). -/
def dsQuota : Nat := 4096

/-! ### The physical map (R292) -/

/-- What the physical map gives an address. -/
inductive Region where
  | lpddr (site : Nat)
  | loft (site : Nat)
  | negative (site : Nat)
  | window (site : Nat)
  | hole
  deriving DecidableEq, Repr

def region (pa : Nat) : Region :=
  if pa < 0x006000000000 then .lpddr 0
  else if pa < 0x00C000000000 then .lpddr 1
  else if pa < 0x010000000000 then .hole
  else if pa < 0x010040000000 then .loft 0
  else if pa < 0x010060000000 then .negative 0
  else if pa < 0x010080000000 then .hole
  else if pa < 0x0100C0000000 then .loft 1
  else if pa < 0x0100E0000000 then .negative 1
  else if pa < 0x020000000000 then .hole
  else if pa < 0x020080000000 then .window 0
  else if pa < 0x020100000000 then .window 1
  else .hole

/-- The site that an address is homed on; addresses without contents have no home (R292). -/
def homeSite (pa : Nat) : Option Nat :=
  match region pa with
  | .lpddr x | .loft x | .negative x | .window x => some x
  | .hole => none

/-! ### Free values -/

/-- Nanoseconds that pass at a step of the model (00 R5; log entry 63). -/
opaque elapse : Nat → Nat
/-- Cycles that a cluster's clock counts at a step (R243). -/
opaque cycleStep : Nat → Nat → Nat
/-- Whether a plain load takes the copy that the core (0), the L2 slice (1) or the remote-line cache (2) holds, and a
snapshot the copy of its engine (3) (R171, R276). -/
opaque takesCopy : Nat → Nat → Bool
/-- Whether an access to a UO page overlooks the wave's own unordered stores (R283). -/
opaque overlooks : Nat → Bool
/-- An unpredictable byte (R8). -/
opaque freeByte : Nat → BitVec 8
/-- An unpredictable or unstated 64-bit value (R8). -/
opaque freeWord : Nat → BitVec 64
/-- A latched word of a snapshot, by its draw and SNAP_SEL: no rule lays the words out (R415). -/
opaque snapWord : Nat → BitVec 32 → BitVec 32
/-- A choice that no rule makes, among two. -/
opaque choice : Nat → Bool

/-! ### What is fused into a module, and how an image is laid out (R411, R412): no rule gives the values -/

/-- The MAC address fused for an Ethernet port (R391), its first byte highest. -/
opaque mac : Nat → BitVec 48
/-- The identity key pair that a site's PUF gives at every boot (R413): the modulus and the private exponent. -/
opaque idKey : Nat → Nat × Nat
/-- The module's serial. -/
opaque serial : BitVec 64
/-- The digest of the image key that is fused in a site. -/
opaque keyDigest : Nat → List Byte
/-- The modulus of the public key in an image's header. -/
opaque imageKey : List Byte → List Byte
/-- The signature in an image's header. -/
opaque imageSig : List Byte → List Byte
/-- The body of an image. -/
opaque imageBody : List Byte → List Byte
/-- The version of an image. -/
opaque imageVersion : List Byte → BitVec 32

end Sys2Proof.Config
end

