-- ==== Sys2Proof/Machine/SMap.lean ====
section
/-!
DEFINITION. Sparse maps in one canonical form: keys strictly rising, no entry equal to zero, which is what an
unlisted key reads as (log entry 1).  Memory is such a map of bytes by physical address (Host.Cell); register files,
scratchpads and tiles are such maps too.
-/
namespace Sys2Proof.Machine

/-- A sparse map from numbers to words of w bits. -/
abbrev SMap (w : Nat) := List (Nat × BitVec w)

/-- What a key reads as. -/
def SMap.get {w : Nat} : SMap w → Nat → BitVec w
  | [], _ => 0
  | (a, x) :: t, k => if a = k then x else SMap.get t k

/-- Write one key; writing zero removes its entry. -/
def SMap.set {w : Nat} : SMap w → Nat → BitVec w → SMap w
  | [], k, v => if v = 0 then [] else [(k, v)]
  | (a, x) :: t, k, v =>
    if k < a then (if v = 0 then (a, x) :: t else (k, v) :: (a, x) :: t)
    else if k = a then (if v = 0 then t else (k, v) :: t)
    else (a, x) :: SMap.set t k v

/-- Write a list of keys, the first first. -/
def SMap.setAll {w : Nat} (m : SMap w) (kvs : List (Nat × BitVec w)) : SMap w :=
  kvs.foldl (fun m p => SMap.set m p.1 p.2) m

/-- Write consecutive keys. -/
def SMap.setRun {w : Nat} : SMap w → Nat → List (BitVec w) → SMap w
  | m, _, [] => m
  | m, k, v :: vs => SMap.setRun (SMap.set m k v) (k + 1) vs

/-- Read n consecutive keys. -/
def SMap.getRun {w : Nat} (m : SMap w) (k n : Nat) : List (BitVec w) :=
  (List.range n).map fun i => SMap.get m (k + i)

/-- The canonical form. -/
def SMap.wf {w : Nat} : SMap w → Bool
  | [] => true
  | [(_, x)] => x != 0
  | (a, x) :: (b, y) :: t => x != 0 && a < b && SMap.wf ((b, y) :: t)

/-- The memory of the module: bytes by physical address (R292). -/
abbrev Memory := List Host.Cell

/-- Memory is in its canonical form. -/
def Memory.wf (m : Memory) : Bool := SMap.wf (w := 8) m

end Sys2Proof.Machine
end

