-- ==== Sys2Proof/Machine/State.lean ====
section
/-!
DEFINITION. The state of the machine as plain data: every piece of state the spec names, under the unit that holds
it (lanes, waves, crews, cores, clusters, sites, the module), the reasons a step can stop, and the state after
reset.  A field's default is its value at reset or at creation, with the rule that gives it; where no rule does, the
log entry that names it.

Numbers: a core is numbered 0-191 over both sites (site x 96 + core.id), a cluster 0-23.  A wave is named by its
core x 128 + resident slot, a crew by its core x 128 + crew slot.
-/
namespace Sys2Proof.Machine

/-- Ordering kinds of a page (R273). -/
inductive PKind where
  | rc | so | uo | ds
  deriving DecidableEq, Repr

/-- Liveness of a lane (R22). -/
inductive Life where
  | live | exited | parked
  deriving DecidableEq, Repr

/-- A bypass latch (R50): elements of n < count for lane l at key 32 n + l. -/
structure Latch where
  empty : Bool := true
  lost  : Bool := false
  wide  : Bool := false
  count : Nat := 0
  elems : SMap 64 := []
  deriving DecidableEq, Repr

/-- What blocks a lane (R22, R251).  `link`: its access needs a packet that the paused link does not take (R385).
`released`: the barrier has opened, and the core has not yet let the lane go (R179); it still owes the acquire, and `slope`
is CL_SLOPE as it stood at the opening (R402).  `qpop`: the pair, the destination register, whether its elements have 64 bits, and
write-suppress.  `sema`: the
object's address, the awaited turn, for a trap on waking the instruction word, the latches as it found them, and the issue
that the lane shares with others (R262), and the turn that it was tested against last with the place where that stood: a change
of it wakes the lane (R184); none before its first test. -/
inductive Block where
  | none
  | barrier (off : Nat) (acq : Option Scope)
  | gbar
  | link
  | released (acq : Option Scope) (slope : Nat)
  | sema (va : DWord) (k : Word) (acq : Option Scope) (insn : LongWord) (latches : List Latch) (order : Nat)
      (seen : Option (Nat × Word))
  | qpop (pair : Nat) (reg : BitVec 8) (wide ws : Bool)
  | qpush (pair : Nat)
  | cbuf (off : Nat) (d : Option Sel) (order : Nat)
  | mmaWait (batch : Nat) (d : Option Sel)
  deriving DecidableEq, Repr

/-- A trap that a landed result holds for its lane: a poisoned load (R309), or a load that waited on the side log and
could not be made (log entry 69). -/
structure LateTrap where
  code   : BitVec 8 := 0x08
  detail : BitVec 16 := 1
  va     : DWord
  deriving DecidableEq, Repr

/-- One lane of a wave: its PC, predicates, liveness, defer bit, block, fpsr, draw counters and retired count
(R22, R23, R26, R77, R92, R243), and the trap that a landed result holds for it (R309). -/
structure Lane where
  pc      : Word := 0
  preds   : BitVec 12 := 0
  life    : Life := .live
  defer   : Bool := false
  block   : Block := .none
  fpsr    : Word := 0
  draws0  : Word := 0
  draws1  : Word := 0
  retired : DWord := 0
  poison  : Option LateTrap := none
  deriving DecidableEq, Repr

/-- Where one access of a load reads; `logged`: its bytes wait in the side log, and it is translated once they have been
replayed (R303). -/
inductive Place where
  | logged
  | global (pa : Nat) (kind : PKind)
  | scratch (crew : Nat) (off : Nat)
  | bank (off : Nat)
  deriving DecidableEq, Repr

/-- Operations of atomics (R162). -/
inductive AtomOp where
  | add | sub | min | max | and | or | xor | exch | inc | dec | cas
  deriving DecidableEq, Repr

/-- Operations of loft commands (R166). -/
inductive LoftOp where
  | add | min | max | cas | sax
  deriving DecidableEq, Repr

/-- What a write does at its location. -/
inductive WriteOp where
  | store
  | atom (op : AtomOp) (sgn : Bool)
  | loft (op : LoftOp) (flt : Bool) (sgn : Bool)
  deriving DecidableEq, Repr

/-- What a pending returning atomic or loft command does at its location, and its PC (R163, R167, R303). -/
structure LaneAtom where
  op   : WriteOp
  data : List Byte
  pc   : Word
  deriving DecidableEq, Repr

/-- A lane's read with a tag that is not yet performed (R156, R303): its address, the address that the lane names (R152),
place, bytes, extension and destination register, and `toS` for an s destination; the scope of its acquire, what it does
there besides reading, and the instruction that made it, by its order of issue. -/
structure LaneLoad where
  lane  : Nat
  va    : DWord
  named : DWord
  place : Place
  bytes : Nat
  sx    : Bool
  reg   : Nat
  toS   : Option (BitVec 6)
  acq   : Option Scope := none
  atom  : Option LaneAtom := none
  order : Nat := 0
  deriving DecidableEq, Repr

/-- A pending result of a T instruction (R45-R48): loads still to be performed, register words (key 32 r + lane), an
s register, the traps that it holds for lanes, the flags that its lanes raise (R123), and the engine operation whose status it waits for (with the v register and
lanes, or the s register, that take it). -/
structure Pending where
  loads  : List LaneLoad := []
  vw     : List (Nat × Word) := []
  sw     : Option (Nat × DWord) := none
  poison : List (Nat × LateTrap) := []
  flags  : List (Nat × BitVec 5) := []
  engine : Option Nat := none
  lanes  : List Nat := []
  d      : Sel := .v 0
  deriving DecidableEq, Repr

/-- Lanes of a resumed fragment until their first issue (R236, R269): live once the wave has passed a latch-loss
point; their saved latches and the element at which they begin. -/
structure Rejoin where
  lanes   : List Nat
  latches : List Latch
  elem    : Nat
  live    : Bool
  deriving DecidableEq, Repr

/-- A group of lanes that trapped together (R262), and the instruction word (R232). -/
structure TrapGroup where
  lanes   : List Nat
  code    : BitVec 8
  detail  : BitVec 16
  elem    : Nat
  pc      : Word
  insn    : LongWord
  addrs   : List (Nat × DWord)
  latches : List Latch
  order   : Nat
  deriving DecidableEq, Repr

/-- Whom a launch failure names for an access: the launch, the task, the address, the lane and its PC (R305, R323). -/
structure Culprit where
  launch : Nat := 0
  tindex : DWord := 0
  va     : DWord := 0
  lane   : Nat := 0
  pc     : Word := 0
  deriving DecidableEq, Repr

/-- A write that has issued and is not yet performed at device scope (R276, R278): its agent, bytes, kind, the widest
scope at which it is performed, and the packet that carries it to the other site.  Among the writes held at one point the
later in the list is the later in coherence order. -/
structure Inflight where
  id    : Nat
  core  : Nat
  wave  : Nat
  crew  : Nat
  pa    : Nat
  data  : List Byte
  kind  : PKind
  scope : Scope
  pkt   : Option (BitVec 16) := none
  /-- The engine that makes it, or the core (R287). -/
  unit  : FlowUnit := .core
  /-- The store instruction that made it, whose overlapping lanes stay together (R157); 0 for none. -/
  group : Nat := 0
  /-- When it took its place at the point that holds it. -/
  stamp : Nat := 0
  /-- The wave has fenced since: on a UO page the write keeps its order with what follows (R283). -/
  fenced : Bool := false
  /-- Whom a failure names when its line is poisoned (R309). -/
  by_   : Culprit := {}
  deriving DecidableEq, Repr

/-- One line of a DS phase in a site's phase table (R340, R341): the line's physical number, the phase, the contents
before the phase, and the owner's mark while it is owned; `none` when it is shared. -/
structure DsLine where
  line  : Nat
  phase : Nat
  old   : List Byte
  owner : Option (DWord × BitVec 64)
  deriving DecidableEq, Repr

/-- One buffered write of a crew of a phase (R341), in the order in which the home received it, and whom a failure names when
its line is poisoned (R309). -/
structure DsWrite where
  phase  : Nat
  tindex : DWord
  crew   : Nat
  pa     : Nat
  op     : WriteOp
  bytes  : Nat
  data   : List Byte
  by_    : Culprit := {}
  deriving DecidableEq, Repr

/-- A push taken or held by a port (R213): its order, lane and words, the binding at issue, and what memory and the DS phases
held at the push (R372, R341); `wait` names the address whose page the system controller is asked for, `refused` that it has refused. -/
structure Push where
  order : Nat
  lane  : Nat
  words : List Word
  code  : Nat
  desc  : BitVec 512
  mem   : Memory
  fly   : List Inflight
  dsLines  : List DsLine := []
  dsWrites : List DsWrite := []
  wait  : Option (DWord × BitVec 16) := none
  refused : Bool := false
  deriving DecidableEq, Repr

/-- An out record that is ready for a lane (R215). -/
structure OutRec where
  lane  : Nat
  words : List Word
  deriving DecidableEq, Repr

/-- A pair of queue registers (R212, R213). -/
structure Port where
  code   : Nat := 0
  desc   : BitVec 512 := 0
  flight : List Push := []
  held   : List Push := []
  outs   : List OutRec := []
  deriving DecidableEq, Repr

/-- A wave: 32 lanes in one quarter of one core (R19, R26, R223). -/
structure Wave where
  core     : Nat
  slot     : Nat
  quarter  : Nat
  crew     : Nat
  num      : Nat
  lanes    : List Lane
  v        : SMap 32 := []
  s        : SMap 64 := []
  fpcr     : Word := 0
  tags     : List (Option Pending) := List.replicate 8 none
  /-- The result of the last T instruction without a tag, which lands before the next issue (R48). -/
  direct   : Option Pending := none
  latches  : List Latch := List.replicate 4 {}
  /-- CH of the instruction issued last: no latch-loss point since (R51). -/
  chain    : Bool := false
  ports    : List Port := List.replicate 4 {}
  handles  : List (Option Nat) := List.replicate 8 none
  /-- The first aborted step of each batch, in issue order (R196): order, code and detail. -/
  aborts   : List (Option (Nat × BitVec 32)) := List.replicate 4 none
  rejoins  : List Rejoin := []
  /-- Groups parked at wave level for want of a bivouac entry (R266). -/
  parked   : List TrapGroup := []
  progress : Nat := 0
  urgent   : Bool := false
  /-- When the wave issued last, in issues of the module counted from 1; 0 before its first (R247). -/
  lastIssue : Nat := 0
  deriving DecidableEq, Repr

/-- A barrier slot of a crew (R173, R209): the object's offset, its kind, and the masks over crew lanes
(32 x wave number + lane). -/
structure BarSlot where
  off     : Nat
  cbuf    : Bool
  members : BitVec 1024 := 0
  arrived : BitVec 1024 := 0
  deriving DecidableEq, Repr

/-- A crew: a running task (R19, R221, R223). -/
structure Crew where
  core     : Nat
  slot     : Nat
  record   : BitVec 512
  cc       : BitVec 8 := 0
  scratch  : SMap 8 := []
  /-- Poisoned 64-byte lines of the scratchpad (R207). -/
  badLines : List Nat := []
  bars     : List BarSlot := []
  /-- Lanes (32 x wave number + lane) that have arrived at the gang's gbar (R181). -/
  gbar     : BitVec 1024 := 0
  /-- The counter that names the crew's DS phase (R340), by physical address. -/
  phase    : Option Nat := none
  /-- The descriptor of the queue it was popped from, its pop order, and the scope it was posted with (R223, R337). -/
  queue    : Option Nat := none
  popped   : Nat := 0
  scope    : Scope := .device
  /-- When its waves last retired an instruction, the interval in ns that the watchdog began with then, and whether it has
  reported since (R338, R339). -/
  since    : Nat := 0
  hangNs   : Nat := 0
  hung     : Bool := false
  /-- The address of a line for which one of its waves waits for room in a phase table (R343). -/
  dsWait   : Option DWord := none
  /-- Since when it waits for such room, and the interval in ns that the watchdog began with then (R343). -/
  roomSince : Option (Nat × Nat) := none
  /-- The internal number of its launch, once the host has closed it (log entry 14). -/
  closedAs : Option Nat := none
  deriving DecidableEq, Repr

/-- States of a bivouac entry (R265). -/
inductive BivState where
  | free | controller | waiting | delivered
  deriving DecidableEq, Repr

/-- A bivouac entry (R264).  `order` is the order in which the fragments of the core began to wait (R267);
`ring` is the ring slot of its record (R233). -/
structure Bivouac where
  state   : BivState := .free
  gen     : BitVec 8 := 0
  wave    : Nat := 0
  crewNum : Nat := 0
  launch  : Nat := 0
  tindex  : DWord := 0
  lanes   : List Nat := []
  pc      : Word := 0
  code    : BitVec 8 := 0
  detail  : BitVec 16 := 0
  elem    : Nat := 0
  insn    : LongWord := 0
  addrs   : List (Nat × DWord) := []
  latches : List Latch := []
  order   : Nat := 0
  ring    : Option Nat := none
  deriving DecidableEq, Repr

/-- A side-log entry (R302): one lane's access, with what a failure report names (R305). -/
structure LogEntry where
  wave   : Nat
  crew   : Nat
  launch : Nat
  priv   : Bool
  tindex : DWord
  op     : WriteOp
  bytes  : Nat
  ord    : BitVec 2
  scp    : BitVec 3
  va     : DWord
  data   : List Byte
  pc     : Word
  lane   : Nat
  detail : BitVec 16
  /-- The instruction that made it, by its order of issue: its overlapping lanes stay together (R157, R163). -/
  group  : Nat := 0
  /-- It is a sema.give (R184, R303), which takes no room of its own (log entry 85). -/
  give   : Bool := false
  deriving DecidableEq, Repr

/-- A byte that a core may still read although a later value stands (R276). -/
abbrev Copies := List (Nat × Byte)

/-- A core: what its waves share (R26, R264, R302). -/
structure Core where
  bivouac : List Bivouac := List.replicate 64 {}
  sideLog : List LogEntry := []
  copies  : Copies := []
  /-- Repair has retired the core (R406). -/
  retired : Bool := false
  /-- Register-pole ratios, two bits per pole: the core's ST_POLEREG (R409). -/
  poles   : Word := 0
  /-- The wave that must issue next in each quarter: its last issue had CH set (R247). -/
  chained : List (Option Nat) := List.replicate 4 none
  /-- The column above the core runs at half command rate until the window ends (R16). -/
  halfRate : Bool := false
  /-- Windows of 256 cycles since the urgent waves were last named (R255). -/
  windows : Nat := 0
  /-- CL_ISSUE as it acts in the current window (R256). -/
  issueNow : Word := 0x0403
  deriving DecidableEq, Repr

/-- An accumulator tile (R190, R191): element (i, j) at key 128 i + j. -/
structure Tile where
  owner   : Option Nat := none
  wide    : Bool := false
  m       : Nat := 0
  n       : Nat := 0
  elems   : SMap 64 := []
  summary : BitVec 5 := 0
  poison  : Bool := false
  aborted : Bool := false
  deriving DecidableEq, Repr

/-- Where a step of the matrix engine stands (R195, R198). -/
inductive StepState where
  | queued
  | suspended (va : DWord) (detail : BitVec 16)
  | done
  | aborted (code : BitVec 8)
  deriving DecidableEq, Repr

/-- A step of the matrix engine (R192-R198): the wave, the handle and tile, the descriptors as read at issue, and
what is done.  It stays listed, completed or not, until an mma.wait covers it (R197). -/
structure MStep where
  wave    : Nat
  crew    : Nat
  handle  : Nat
  tile    : Nat
  fmt     : MFmt
  aSp     : Bool
  bSp     : Bool
  sparse  : Nat
  k       : Nat
  m       : Nat
  n       : Nat
  a       : List DWord
  b       : List DWord
  chunk   : Nat := 0
  /-- Its operand ranges in the crew's scratchpad: offset and bytes (R197). -/
  spans   : List (Nat × Nat) := []
  /-- Whether the global pages it has reached are DS pages (R274). -/
  ds      : Option Bool := none
  state   : StepState := .queued
  batch   : Option Nat := none
  order   : Nat := 0
  deriving DecidableEq, Repr

/-- A wave's request for a tile, and the tile granted to it (R190). -/
structure TileReq where
  wave : Nat
  tile : Option Nat := none
  deriving DecidableEq, Repr

/-- A page list: virtual page, physical page base, kind (R306). -/
abbrev Pages := List (Nat × Nat × PKind)

/-- A copy template (R203). -/
abbrev Tmpl := BitVec 512

/-- An mma.ld or mma.st that has issued and not yet moved its tile (R201): the pages its probe found, and for a store its
type and whether its tile was open (R197). -/
structure MMove where
  id      : Nat
  wave    : Nat
  crew    : Nat
  tile    : Nat
  store   : Bool
  sty     : StFmt
  sp      : Bool
  base    : Nat
  stride  : Int
  pages   : Pages
  opened  : Bool
  deriving DecidableEq, Repr

/-- A copy that the engine holds (R206, R318).  `src` and `dst` are its operands; `index` its index array, without the
entries of a poisoned line; `pages` the translations of its probe (R306); `old` its source rows as they stood at acceptance
(R207); `cbuf` the circular buffer that its template names, and `slot` the base of the slot it has claimed (R211); `gather`
the insertion count, the count at the last clear and the time at acceptance of a band gather (R379). -/
structure Copy where
  id      : Nat
  wave    : Nat
  crew    : Nat
  tmpl    : Tmpl
  src     : Nat
  dst     : Nat
  scope   : Scope
  rm      : Rm
  index   : List (Option Word) := []
  pages   : Pages := []
  old     : List (List (Byte × Bool)) := []
  slot    : Option Nat := none
  cbuf    : Option Nat := none
  gather  : Option (Nat × Nat × Word) := none
  deriving DecidableEq, Repr

structure Cluster where
  tiles   : List Tile := List.replicate 64 {}
  tileReqs : List TileReq := []
  steps   : List MStep := []
  moves   : List MMove := []
  copies  : List Copy := []
  /-- Control blocks that the cluster's engines may still hold, by physical address (R171). -/
  blocks  : List (Nat × BitVec 512) := []
  /-- CL_ISSUE 0x2010 (R256). -/
  issue   : Word := 0x0403
  /-- CL_SLOPE 0x2011 (R402). -/
  slope   : Word := 8
  /-- The copies that the L2 slice may still hold (R272, R276). -/
  l2      : Copies := []
  /-- Arithmetic cycles since the clock first started (R243). -/
  cycles  : DWord := 0
  /-- The operating class that acts (R333). -/
  cls     : BitVec 2 := 0
  /-- The clock of its class as it took it, in MHz (R333, R401); the current clock and the throttle mark: PWR_THR 0x5010
  (R403). -/
  nominal : Nat := 1200
  mhz     : Nat := 1200
  thr     : Bool := false
  /-- The gang for which the cluster is reserved (R335): launch and gang number. -/
  reserved : Option (Nat × Nat) := none
  deriving DecidableEq, Repr

/-- A TLB entry (R300): the launch, the first virtual page, the pages it maps, the leaf and its companion's
address, and whether the D bit was seen set (R298).  The tiers of a site act as one map. -/
structure TlbEntry where
  launch : Nat
  vpage  : Nat
  pages  : Nat
  leaf   : DWord
  comp   : Nat
  dirty  : Bool
  deriving DecidableEq, Repr

/-- States of a queue that holds a slot; any other is inactive (R325, R326). -/
inductive QState where
  | opened | closed | faulted
  deriving DecidableEq, Repr

/-- A record in a queue's ring (R327): as it was pushed, the scope it was posted with, for a join's continuation the
launch, CONT and the joining task's TINDEX (R329), and whether the close of its launch has dropped it (R322). -/
structure QEntry where
  record  : BitVec 512
  scope   : Scope
  cont    : Option (Nat × DWord × DWord) := none
  dropped : Bool := false
  deriving DecidableEq, Repr

/-- A popped record (R334, R337): its queue by the descriptor's physical address, its pop order and its scope. -/
structure Popped where
  record : BitVec 512
  queue  : Nat
  order  : Nat
  scope  : Scope
  deriving DecidableEq, Repr

/-- A queue slot of a scheduler (R325-R328): the descriptor by its physical address, its fields, what stands between HEAD
and TAIL, and the requeued records that stand before the ring's (R337). -/
structure Queue where
  desc    : Nat
  state   : QState
  owner   : Nat
  prio    : Nat
  log2cap : Nat
  base    : DWord
  head    : Word := 0
  tail    : Word := 0
  entries : List QEntry := []
  front   : List Popped := []
  /-- Since when its head record has stood unplaced and the PREWAIT it began with, in ns (R336), and whether it has
  triggered. -/
  wait      : Option (Nat × Nat) := none
  triggered : Bool := false
  deriving DecidableEq, Repr

/-- A gang member that waits in the gang table (R334): since when, the PREWAIT it began with, and whether it has
triggered. -/
structure GangWaiter where
  item      : Popped
  since     : Nat
  prewait   : Nat
  triggered : Bool := false
  deriving DecidableEq, Repr

/-- A gang whose cluster is fixed (R334, R335): the ranks started, the time of the last start, the timers it began with in
ns, whether GANG_WAIT has passed, and whether the gang has failed. -/
structure Gang where
  launch  : Nat
  gid     : Nat
  size    : Nat
  cluster : Nat
  started : List Nat := []
  since   : Nat := 0
  waitNs  : Nat := 0
  limitNs : Nat := 0
  waited  : Bool := false
  failed  : Bool := false
  deriving DecidableEq, Repr

/-- A placement that waits for the other site's scheduler (R332): the core, and the record with the phase it joins. -/
structure Placing where
  item  : Popped
  core  : Nat
  phase : Option Nat
  deriving DecidableEq, Repr

/-- The policy header the Light meter holds (R217, R347), with the launch and privilege that it reads under. -/
structure MeterHdr where
  hdr    : BitVec 512
  launch : Nat
  priv   : Bool
  deriving DecidableEq, Repr

/-- The Light meter of a site (R347-R355). -/
structure Meter where
  /-- EN and REJ of ST_METER 0x3040 (R348); STALL follows from the rest (R353). -/
  en      : Bool := false
  rej     : Bool := false
  /-- ST_METERSEED 0x3041. -/
  seed    : DWord := 0
  /-- ST_EPOCH 0x3042. -/
  epoch   : DWord := 0
  latest  : Option MeterHdr := none
  adopted : Option MeterHdr := none
  /-- Credits of the tiles, by tile number. -/
  credit  : SMap 32 := []
  tile    : Nat := 0
  sweep   : Word := 0
  /-- Since when the rate is counted, in ns since reset, and the samples emitted since (R350). -/
  paced   : Nat := 0
  emitted : Nat := 0
  /-- Sample entries of the block being filled (R351), and the number of that block in the ring. -/
  part    : List (BitVec 128) := []
  block   : Nat := 0
  /-- Blocks in use by address, each with the record that names it (R352, R353). -/
  busy    : List (Nat × BitVec 512) := []
  /-- A record that waits for its queue, and the block it names (R352). -/
  held    : Option (BitVec 512 × Nat) := none
  /-- The queue was closed or faulted: the held record waits until the header is replaced (R353). -/
  parked  : Bool := false
  /-- RAS event QUEUE_OPEN has been reported for the adopted header (R353). -/
  noQueue : Bool := false
  /-- Blocks that the scheduler has reported free (R353). -/
  freed   : List Nat := []
  issued  : DWord := 0
  /-- The largest |VX| or |VY| of each tile's records since the sweep began, and in the sweep before, as f16 (R349). -/
  motion  : SMap 16 := []
  motion0 : SMap 16 := []
  deriving DecidableEq, Repr

/-- Scanout of a site (R356-R359). -/
structure Scan where
  /-- ST_SCAN 0x3050. -/
  reg     : DWord := 0
  /-- The launch whose sysw wrote ST_SCAN last (R417). -/
  launch  : Nat := 0
  /-- The descriptor as read last. -/
  desc    : BitVec 512 := 0
  /-- ST_SCANSTAT 0x3051; the number n of the scan in 64 bits, of which the register shows the low 32 (R358, R359). -/
  scan    : DWord := 0
  late    : BitVec 16 := 0
  skip    : BitVec 16 := 0
  /-- Scanning: set from the write of EN to the end of the last scan. -/
  on      : Bool := false
  /-- The band that starts next in scan `scan`; 240 when the next event is a scan's start.  `first`: scan 0 has not
  started. -/
  band    : Nat := 240
  first   : Bool := false
  /-- The start and PERIOD of scan `scan`. -/
  start   : DWord := 0
  period  : Nat := 8333333
  /-- Developer tasks that have not completed: band and record. -/
  developers : List (Nat × BitVec 512) := []
  /-- The bytes that differ from black in the 16 rows sent to the display last. -/
  out     : SMap 8 := []
  deriving DecidableEq, Repr

/-- A record in a ring of the Negative store (R377, R378): its insertion order, its words, the wave whose release is still to
show it (R219), and whether it is visible. -/
structure NegRec where
  order   : Nat
  words   : BitVec 256
  wave    : Option Nat
  visible : Bool
  deriving DecidableEq, Repr

/-- The Negative store of a site (R377-R381). -/
structure NegStore where
  rings  : List (Nat × NegRec) := []
  counts : SMap 64 := []
  clears : SMap 64 := []
  /-- ST_NEGSTAT 0x3060. -/
  stat   : DWord := 0
  deriving DecidableEq, Repr

/-- One received direction of one UCIe module at one end (R384): LNK_WMOD, LNK_WBAD, LNK_WMAP. -/
structure LinkMod where
  retry  : Word := 0
  wreq   : BitVec 2 := 3
  width  : BitVec 2 := 3
  spused : BitVec 3 := 0
  wbad   : DWord := 0
  wmap   : DWord := 0
  /-- WREQ and WMAP as the training in progress took them (R386). -/
  treq    : BitVec 2 := 3
  tmap    : DWord := 0
  deriving DecidableEq, Repr

/-- One 802.1Qbv gate control list of an Ethernet port (R388, R393). -/
structure GateList where
  base    : DWord := 0
  cycle   : Word := 0
  entries : List DWord := []
  deriving DecidableEq, Repr

/-- Boot progress of a site's controller (R411, R412): off; the ROM collects a replacement image (its bytes so far, its
length); site B waits for the flash; the firmware waits for the configuration record; stopped; booted. -/
inductive BootState where
  | off
  | recovering (got : List Byte) (len : Option Nat)
  | rereading
  | waitingConfig
  | stopped
  | booted
  deriving DecidableEq, Repr

/-- One site and its controllers. -/
structure Site where
  /-- ST_TLBLAUNCH 0x3020 (R301). -/
  tlbLaunch : Word := 0
  tlb       : List TlbEntry := []
  /-- The copies that the remote-line cache may still hold (R272, R276). -/
  rlc       : Copies := []
  /-- ST_SCHED 0x3030 (R338). -/
  sched     : DWord := 0x03E807D001F40014
  /-- ST_POOL 0x3032 (R333). -/
  pool      : Word := 0
  queues    : List Queue := []
  /-- Control blocks that the site's Light meter and scanout may still hold (R171). -/
  blocks    : List (Nat × BitVec 512) := []
  /-- The queue served last at each level (R329). -/
  served    : List Nat := List.replicate 4 0
  gangWait  : List GangWaiter := []
  placing   : List Placing := []
  /-- What the other site's scheduler was told last of the site's crews: core, live waves, blocks and scratchpad (R332). -/
  told      : List (Nat × Nat × Nat × Nat) := []
  dsLines   : List DsLine := []
  meter     : Meter := {}
  scan      : Scan := {}
  neg       : NegStore := {}
  /-- The accepted gaze record with the greatest T for the site's eye (R399). -/
  gaze      : Option (BitVec 256) := none
  /-- ST_POLELOFT 0x3081 (R409): the counts RET, Q4, Q2 and Q1, and the ratio of each loft pole that is not at 1:1. -/
  poleLoft  : DWord := 512
  loftPoles : SMap 2 := []
  /-- LNK_SEL 0x4002 (R384). -/
  lnkSel    : Word := 0
  link      : List LinkMod := List.replicate 4 {}
  /-- LNK_TX, LNK_RX, LNK_RS (R384). -/
  lnkTx     : DWord := 0
  lnkRx     : DWord := 0
  lnkRs     : DWord := 0
  /-- TMR_STAT, TMR_OFFSET, TMR_RATE, TMR_GMID, TMR_SKEW (R390); log entry 3. -/
  tmrStat   : Word := 0
  tmrOffset : DWord := 0
  tmrRate   : Word := 0
  tmrGmid   : DWord := 0
  tmrSkew   : Word := 0
  /-- RAS_CNT0-RAS_CNT15 (R410). -/
  rasCnt    : List Word := List.replicate 16 0
  boot      : BootState := .booted
  /-- The running image's bytes, the configuration record's, and the fused minimum version (R411, R412). -/
  image     : List Byte := []
  config    : List Byte := []
  fusedMin  : BitVec 16 := 0
  /-- The key store holds the identity key (R413, R414). -/
  keys      : Bool := true
  /-- TAG of the last BOOTREQ or RECOVER (R397). -/
  bootTag   : DWord := 0
  gates     : GateList := {}
  ip        : BitVec 128 := 0
  ipPrefix  : BitVec 8 := 0
  /-- DisplayPort link trainings since reset, and whether a display is present (R400). -/
  dpTrains  : Nat := 0
  dpPresent : Bool := false
  deriving DecidableEq, Repr

/-- What a packet of a flow carries to the other site (R287). -/
inductive Payload where
  | access (id : Nat)
  | record (wave : Nat) (words : BitVec 256)
  deriving DecidableEq, Repr

/-- A flow (R287-R289): the sender's next number and unacknowledged packets; the copies of packets on their way; the
receiver's next expected number, the numbers it has applied beyond it, and the ordered-class arrivals that its reorder
buffer holds. -/
structure Flow where
  id       : FlowId
  next     : BitVec 16 := 0
  unacked  : List (BitVec 16 × Payload) := []
  transit  : List (BitVec 16) := []
  expected : BitVec 16 := 0
  early    : List (BitVec 16) := []
  held     : List (BitVec 16) := []
  deriving DecidableEq, Repr

/-- An open launch (R321-R324). -/
structure Launch where
  num     : Nat
  record  : BitVec 512
  bank    : SMap 8 := []
  failed  : Bool := false
  session : Nat := 0
  /-- The host has closed it; it stays while its last tasks run (log entry 14). -/
  closed  : Bool := false
  /-- Fault ring slots in use (R233). -/
  slots   : List Nat := []
  /-- The code window was modified while the launch ran from it: what its lanes fetch is unpredictable (R31). -/
  codeFree : Bool := false
  deriving DecidableEq, Repr

/-- Where a delayed offer comes from (R228, R233): a join by its CONT and TINDEX, or a fragment by its core, entry and
generation, with its ring slot. -/
inductive OfferFrom where
  | join (cont : DWord) (tindex : DWord)
  | handler (core entry : Nat) (gen : BitVec 8) (slot : Nat)
  deriving DecidableEq, Repr

/-- An offer that a full queue delays (R228, R233): the launch it is made for, the queue and its address. -/
structure Offer where
  launch : Nat
  core   : Nat
  queue  : Nat
  va     : DWord
  record : BitVec 512
  src    : OfferFrom
  deriving DecidableEq, Repr

/-- A join that has fired (R228): the joining task, its core, the addresses, and the phase that must commit first. -/
structure Fire where
  launch : Nat
  priv   : Bool
  tindex : DWord
  core   : Nat
  cont   : DWord
  queue  : DWord
  phase  : Option Nat
  deriving DecidableEq, Repr

/-- A join that the device makes for a task (R229, R335): a completion's, or a failed gang member's. -/
structure PendingJoin where
  launch : Nat
  priv   : Bool
  tindex : DWord
  core   : Nat
  va     : DWord
  code   : BitVec 8
  deriving DecidableEq, Repr

/-- What waits for the system controller's service of a page besides fragments, logs, steps and ports (R416): a join of
the device (R230), a continuation's reads (R228), a fault record's slot, the handler queue it is then posted to (R233), the start of the task at
the head of a queue (R340). -/
inductive WaitKind where
  | join (j : PendingJoin)
  | fire (f : Fire)
  | record (core entry : Nat) (gen : BitVec 8)
  | post (core entry : Nat) (gen : BitVec 8) (slot : Nat)
  | start (queue : Nat)
  deriving DecidableEq, Repr

structure Waiter where
  launch : Nat
  va     : DWord
  detail : BitVec 16
  tindex : DWord
  kind   : WaitKind
  deriving DecidableEq, Repr

/-- A message of the module to the host: its TYPE and payload (R396). -/
abbrev Message := BitVec 8 × List Byte

/-- A Rosoinu session (R394-R396): its number, privilege and challenge, the next request expected, those held, the
responses stored, the module's next number, its messages unacknowledged and waiting, where the host is, and when it last
sent a request. -/
structure Session where
  num       : Nat
  priv      : Bool := false
  challenge : BitVec 256 := 0
  expected  : Word := 1
  held      : List (Word × Datagram) := []
  answered  : List (Word × List Byte) := []
  sendSeq   : Word := 1
  unacked   : List (Word × Message) := []
  waiting   : List Message := []
  port      : Nat := 0
  addr      : BitVec 128 := 0
  sport     : BitVec 16 := 0
  lastAt    : Nat := 0
  deriving DecidableEq, Repr

/-- A datagram that the module sends (R391). -/
structure OutGram where
  port  : Nat
  addr  : BitVec 128
  dport : BitVec 16
  bytes : List Byte
  deriving DecidableEq, Repr

/-- The state of the UCIe link as LNK_STAT shows it (R384, R386). -/
inductive LinkState where
  | reset | training | active | failed
  deriving DecidableEq, Repr

/-- The whole machine. -/
structure State where
  mem      : Memory := []
  /-- Poisoned 64-byte lines, by physical line number (R309). -/
  badLines : List Nat := []
  inflight : List Inflight := []
  nextId   : Nat := 0
  waves    : List Wave := []
  crews    : List Crew := []
  cores    : List Core := List.replicate 192 {}
  clusters : List Cluster := List.replicate 24 {}
  siteA    : Site := {}
  siteB    : Site := {}
  launches : List Launch := []
  gangs    : List Gang := []
  /-- Members of gangs that have completed, by launch, gang and rank, until the last of the gang does (R335). -/
  gangDone : List (Nat × Nat × Nat) := []
  offers   : List Offer := []
  joins    : List PendingJoin := []
  fires    : List Fire := []
  waiters  : List Waiter := []
  dsWrites : List DsWrite := []
  flows    : List Flow := []
  /-- LNK_CTL.PAUSE, LNK_STAT.PAUSED and STATE, and the modules that train (R384-R386). -/
  pause    : Bool := false
  paused   : Bool := false
  linkState : LinkState := .active
  training : BitVec 4 := 0
  /-- The sideband is up (R384); log entry 44. -/
  sideband : Bool := true
  sessions : List Session := []
  lastSession : Nat := 0
  /-- Reports that wait for a privileged session to open (R396). -/
  messages : List Message := []
  outbox   : List OutGram := []
  /-- The global timer in ns (R5, R243); log entry 3. -/
  timer    : DWord := 0
  /-- Nanoseconds since reset: the intervals of the watchdogs (R335, R339). -/
  elapsed  : Nat := 0
  /-- The MODEL's own: what a corrected timer has counted beyond its last whole nanosecond, in 10^-9 ns (R389). -/
  timerFrac : Nat := 0
  issues   : Nat := 0
  /-- PWR_OPP0-PWR_OPP3 (R401). -/
  opp      : List Word := [1200, 1000, 800, 600]
  /-- SNAP_CTL, SNAP_TIME, SNAP_AT, SNAP_SEL (R415); log entry 3. -/
  snapCtl  : Word := 0
  snapTime : DWord := 0
  snapAt   : DWord := 0
  snapSel  : Word := 0
  /-- The MODEL's own: the count from which a time trigger may come: the last write that set it, or a forward step of the
  timer (R389, R415). -/
  snapFrom : DWord := 0
  /-- The latched words of the last snapshot: a draw of the free values that stand for them (log entry 7). -/
  snapDraw : Nat := 0
  /-- ST_HSCOUNT 0x3070 (R399), and the headset ring: its base and its number of records. -/
  hsCount  : Word := 0
  hsRing   : Option (Nat × Nat) := none
  /-- A launch has been opened since boot (R389). -/
  launched : Bool := false
  /-- The security alarm stands (R414). -/
  alarm    : Bool := false
  /-- The module's flash (R411). -/
  flash    : List Byte := []
  /-- Frames of memory retired, and their spares (R405). -/
  retired  : List (Nat × Nat) := []
  /-- The MODEL's own: the moves of other agents that come next (log entry 5). -/
  agenda   : List Instr := []
  /-- The MODEL's own: free values drawn (log entry 7). -/
  fresh    : Nat := 0
  /-- The MODEL's own: steps taken (log entry 5). -/
  moves    : Nat := 0
  /-- The MODEL's own: the wave that issues (log entry 5). -/
  cur      : Nat := 0
  /-- The MODEL's own: core x 4 + quarter whose turn it is (log entry 5). -/
  turn     : Nat := 0
  /-- The MODEL's own: waves that waited at issue since anything last changed (log entry 5). -/
  held     : List Nat := []
  deriving DecidableEq, Repr

/-- Why the machine stops. -/
inductive Fault where
  /-- Raised by the meaning of an encoded instruction when no wave issues in the state it is given; `step` never
  raises it, since it runs an instruction only in the wave that issues.  Safe: no state follows. -/
  | noIssuingWave
  deriving DecidableEq, Repr

/-- Why the model gives no next state. -/
inductive Refusal where
  /-- Raised by a dispatch arm of an instruction that has no meaning yet.  Safe: no state follows. -/
  | notModelled (mnemonic : String)
  /-- Raised when an access reaches a device window, whose devices the spec does not describe (R292).  Safe: no state
  follows. -/
  | deviceWindow
  deriving DecidableEq, Repr

/-- The machine right after reset: a booted module with no launch and no wave (log entry 4). -/
def State.reset : State := {}

end Sys2Proof.Machine
end

