-- ==== Sys2Proof/Machine/Ops.lean ====
section
/-!
DEFINITION. The named operations over the state that every meaning shares: access to waves, crews, cores and sites;
the issue of an instruction (01 R22, 02 R46-R51, 09 R247); taking an exception, which in this machine parks the
trapping lanes as fragments (10 R259-R268); and the return from one (R236, R269).
-/
namespace Sys2Proof.Machine

/-- What a step answers. -/
abbrev Result := Host.Outcome State Fault Refusal

/-! ### Access to the parts of the state -/

/-- The number that names a wave: its core and resident slot. -/
def Wave.key (w : Wave) : Nat := w.core * 128 + w.slot
/-- The number that names a crew: its core and crew slot. -/
def Crew.key (c : Crew) : Nat := c.core * 128 + c.slot
def Wave.site (w : Wave) : Nat := w.core / 96
def Wave.cluster (w : Wave) : Nat := w.core / 8
def Crew.site (c : Crew) : Nat := c.core / 96
def Crew.cluster (c : Crew) : Nat := c.core / 8

def State.wave? (s : State) (k : Nat) : Option Wave := s.waves.find? fun w => w.key = k
def State.crew? (s : State) (k : Nat) : Option Crew := s.crews.find? fun c => c.key = k

def State.setWave (s : State) (w : Wave) : State :=
  { s with waves := s.waves.map fun x => if x.key = w.key then w else x }
def State.setCrew (s : State) (c : Crew) : State :=
  { s with crews := s.crews.map fun x => if x.key = c.key then c else x }

def State.updWave (s : State) (k : Nat) (f : Wave → Wave) : State :=
  match s.wave? k with
  | some w => s.setWave (f w)
  | none => s
def State.updCrew (s : State) (k : Nat) (f : Crew → Crew) : State :=
  match s.crew? k with
  | some c => s.setCrew (f c)
  | none => s

def State.core (s : State) (k : Nat) : Core := s.cores.getD k {}
def State.setCore (s : State) (k : Nat) (c : Core) : State := { s with cores := s.cores.set k c }
def State.updCore (s : State) (k : Nat) (f : Core → Core) : State := s.setCore k (f (s.core k))

def State.cluster (s : State) (k : Nat) : Cluster := s.clusters.getD k {}
def State.setCluster (s : State) (k : Nat) (c : Cluster) : State := { s with clusters := s.clusters.set k c }
def State.updCluster (s : State) (k : Nat) (f : Cluster → Cluster) : State := s.setCluster k (f (s.cluster k))

def State.site (s : State) (x : Nat) : Site := if x = 0 then s.siteA else s.siteB
def State.setSite (s : State) (x : Nat) (v : Site) : State :=
  if x = 0 then { s with siteA := v } else { s with siteB := v }
def State.updSite (s : State) (x : Nat) (f : Site → Site) : State := s.setSite x (f (s.site x))

def State.launch? (s : State) (n : Nat) : Option Launch := s.launches.find? fun l => l.num = n
def State.updLaunch (s : State) (n : Nat) (f : Launch → Launch) : State :=
  { s with launches := s.launches.map fun l => if l.num = n then f l else l }

/-- The waves of a crew, in ascending crew number. -/
def State.crewWaves (s : State) (c : Nat) : List Wave :=
  (List.range 32).filterMap fun k => s.waves.find? fun w => w.crew = c && w.num = k

/-! ### Fields of the record of a task (R221) -/

def recArgs (r : BitVec 512) : BitVec 192 := r.extractLsb' 320 192
def recTindex (r : BitVec 512) : DWord := r.extractLsb' 256 64
def recJoin (r : BitVec 512) : DWord := r.extractLsb' 192 64
def recFrame (r : BitVec 512) : DWord := r.extractLsb' 128 64
def recGangId (r : BitVec 512) : BitVec 24 := r.extractLsb' 104 24
def recGsize (r : BitVec 512) : BitVec 3 := r.extractLsb' 101 3
def recGrank (r : BitVec 512) : BitVec 3 := r.extractLsb' 98 3
def recScratch (r : BitVec 512) : BitVec 12 := r.extractLsb' 84 12
def recRblk (r : BitVec 512) : BitVec 4 := r.extractLsb' 80 4
def recWaves (r : BitVec 512) : BitVec 5 := r.extractLsb' 72 5
def recPriv (r : BitVec 512) : Bool := r.getLsbD 71
def recGang (r : BitVec 512) : Bool := r.getLsbD 70
def recClass (r : BitVec 512) : BitVec 2 := r.extractLsb' 68 2
def recPrio (r : BitVec 512) : BitVec 2 := r.extractLsb' 66 2
def recDet (r : BitVec 512) : Bool := r.getLsbD 65
def recIdem (r : BitVec 512) : Bool := r.getLsbD 64
def recLaunch (r : BitVec 512) : BitVec 16 := r.extractLsb' 48 16
def recEntry (r : BitVec 512) : Word := r.extractLsb' 0 32
/-- The record with another launch number (R226). -/
def recSetLaunch (r : BitVec 512) (n : BitVec 16) : BitVec 512 :=
  (r.extractLsb' 64 448) ++ n ++ (r.extractLsb' 0 48)

/-- The crew's scratchpad allocation in bytes. -/
def Crew.scratchBytes (c : Crew) : Nat := (recScratch c.record).toNat * 1024
def Crew.launch (c : Crew) : Nat := c.closedAs.getD (recLaunch c.record).toNat
def Crew.priv (c : Crew) : Bool := recPriv c.record

/-! ### Fields of a launch record (R321) -/

def Launch.seed (l : Launch) : DWord := l.record.extractLsb' 448 64
def Launch.ring (l : Launch) : Nat := (l.record.extractLsb' 402 46).toNat * 64
def Launch.rslots (l : Launch) : Nat := (l.record.extractLsb' 394 8).toNat
def Launch.hq (l : Launch) : Nat := (l.record.extractLsb' 348 46).toNat * 64
def Launch.bankBytes (l : Launch) : Nat := (l.record.extractLsb' 332 16).toNat * 64
def Launch.bankBase (l : Launch) : Nat := (l.record.extractLsb' 292 40).toNat * 4096
/-- The window's parcels W (R29). -/
def Launch.window (l : Launch) : Nat := (l.record.extractLsb' 260 32).toNat + 1
def Launch.codeBase (l : Launch) : Nat := (l.record.extractLsb' 220 40).toNat * 4096
def Launch.root (l : Launch) : Nat := (l.record.extractLsb' 189 31).toNat * 131072
def Launch.hentry (l : Launch) : Word := l.record.extractLsb' 57 32
def Launch.hscr (l : Launch) : BitVec 12 := l.record.extractLsb' 45 12
def Launch.hrblk (l : Launch) : BitVec 4 := l.record.extractLsb' 41 4
def Launch.hand (l : Launch) : Bool := l.record.getLsbD 40
def Launch.gmax (l : Launch) : Nat := (l.record.extractLsb' 20 4).toNat
def Launch.priv (l : Launch) : Bool := l.record.getLsbD 19
def Launch.onSite (l : Launch) (x : Nat) : Bool := l.record.getLsbD (17 + x)

/-! ### Registers -/

/-- Register r of lane l (R26). -/
def Wave.vreg (w : Wave) (r l : Nat) : Word := SMap.get w.v (32 * r + l)
/-- The even-odd pair at r of lane l (R43). -/
def Wave.vpair (w : Wave) (r l : Nat) : DWord := w.vreg (r + 1) l ++ w.vreg r l
def Wave.sreg (w : Wave) (r : Nat) : DWord := SMap.get w.s r
def Wave.setV (w : Wave) (kvs : List (Nat × Word)) : Wave := { w with v := SMap.setAll w.v kvs }
def Wave.setS (w : Wave) (r : Nat) (x : DWord) : Wave := { w with s := SMap.set w.s r x }
def Wave.lane (w : Wave) (l : Nat) : Lane := w.lanes.getD l {}
/-- Change the listed lanes. -/
def Wave.updLanes (w : Wave) (ls : List Nat) (f : Nat → Lane → Lane) : Wave :=
  { w with lanes := w.lanes.mapIdx fun i x => if ls.contains i then f i x else x }
def Lane.pred (x : Lane) (k : Nat) : Bool := x.preds.getLsbD k
def Lane.setPred (x : Lane) (k : Nat) (b : Bool) : Lane :=
  { x with preds := if b then x.preds ||| ((1 : BitVec 12) <<< k) else x.preds &&& ~~~ ((1 : BitVec 12) <<< k) }

/-- The register words of a value of n registers written at register r of lane l, lowest first (R68). -/
def regWords (r l : Nat) (n : Nat) (x : BitVec 512) : List (Nat × Word) :=
  (List.range n).map fun k => (32 * (r + k) + l, x.extractLsb' (32 * k) 32)

/-! ### Which lanes issue (R22, R23, R252, R269) -/

/-- A live lane that is not deferred and not blocked (R22). -/
def Lane.eligible (x : Lane) : Bool := x.life = .live && !x.defer && x.block = .none

/-- Clear the defer bits when no live lane is eligible and one is deferred (R23, R252). -/
def Wave.settled (w : Wave) : Wave :=
  if w.lanes.any (fun x => x.life = .live && x.defer) && !w.lanes.any Lane.eligible then
    { w with lanes := w.lanes.map fun x => { x with defer := false } }
  else w

/-- The lanes of a wave, 0 to 31. -/
def laneIds : List Nat := List.range 32

def Wave.eligibleLanes (w : Wave) : List Nat :=
  if w.parked.isEmpty then laneIds.filter fun l => l < w.lanes.length && (w.lane l).eligible else []

/-- The least PC of the listed lanes. -/
def Wave.minPc (w : Wave) : List Nat → Option Word
  | [] => none
  | l :: ls =>
    match w.minPc ls with
    | none => some (w.lane l).pc
    | some p => some (if (w.lane l).pc.toNat ≤ p.toNat then (w.lane l).pc else p)

/-- The lanes that issue: the eligible lanes at the least PC; the lanes of a resumed fragment issue alone first
(R22, R269). -/
def Wave.issueSet (w : Wave) : List Nat :=
  match w.minPc w.eligibleLanes with
  | none => []
  | some p =>
    let xs := w.eligibleLanes.filter fun l => (w.lane l).pc = p
    match w.rejoins.find? fun g => g.live && xs.any g.lanes.contains with
    | some g => xs.filter g.lanes.contains
    | none => xs

/-- The resumed fragment whose lanes issue now, if any. -/
def Wave.rejoinNow (w : Wave) : Option Rejoin :=
  match w.issueSet with
  | [] => none
  | l :: _ => w.rejoins.find? fun g => g.live && g.lanes.contains l

/-! ### The header of an instruction as it issues -/

/-- The header fields that issue reads (R33, R37), T, K and the length in parcels. -/
structure Head where
  tc   : List Nat
  ta   : Option Nat
  ch   : Bool
  ws   : Bool
  gn   : Bool
  gp   : BitVec 4
  blk  : Bool
  len  : Nat
  deriving DecidableEq, Repr

def tagList (tc : BitVec 8) : List Nat := (List.range 8).filter fun k => tc.getLsbD k

def headOf (h : Hdr) (k : Desc) : Head :=
  ⟨tagList h.tc, if h.tav then some h.tat.toNat else none, h.ch, h.ws, h.gn, h.gp, k.blk, 2⟩

def instrHead (i : Instr) : Head :=
  match i.parts with
  | .lr x _ _ _ k | .cvt x _ _ _ k => headOf x.h k
  | .li x _ _ k => headOf x.h k
  | .lk x _ _ k => headOf x.h k
  | .lm x _ _ k => headOf x.h k
  | .lb x _ _ k => headOf x.h k
  | .le x _ _ k => headOf x.h k
  | .sh x _ k => ⟨if x.twv then [x.twt.toNat] else [], none, x.ch, x.ws, x.gn, x.gp, k.blk, 1⟩
  | .step => ⟨[], none, false, false, false, 15, false, 0⟩

/-- The instruction word that a fault record carries (R232). -/
def instrWord (i : Instr) : LongWord :=
  match encode i with
  | .short p => p.setWidth 80
  | .long w => w
  | .none => 0

/-- The guard of a lane (R34). -/
def guardOf (h : Head) (x : Lane) : Bool := h.gp = 15 || (x.pred h.gp.toNat != h.gn)

/-! ### Tags (R45-R49) -/

def Pending.complete (p : Pending) : Bool := p.loads.isEmpty && p.engine.isNone

/-- Land a complete result (R47): its words, its s register, its flags (R123), and the lanes it poisons (R309). -/
def Wave.land (w : Wave) (p : Pending) : Wave :=
  let w := w.setV p.vw
  let w := match p.sw with
    | some (r, x) => w.setS r x
    | none => w
  let w := if p.flags.isEmpty then w else w.updLanes (p.flags.map (·.1)) fun i x =>
    p.flags.foldl (fun x q => if q.1 = i then { x with fpsr := x.fpsr ||| q.2.setWidth 32 } else x) x
  w.updLanes (p.poison.map (·.1)) fun i x =>
    { x with poison := if x.poison.isSome then x.poison else (p.poison.find? fun q => q.1 = i).map (·.2) }

def Wave.tag (w : Wave) (t : Nat) : Option Pending := w.tags.getD t none

/-- Land the result a tag holds, if any. -/
def Wave.landTag (w : Wave) (t : Nat) : Wave :=
  match w.tag t with
  | some p => { w.land p with tags := w.tags.set t none }
  | none => w

def Wave.landDirect (w : Wave) : Wave :=
  match w.direct with
  | some p => { w.land p with direct := none }
  | none => w

/-- The tags that must be complete before an instruction issues (R46, steps 1 and 2). -/
def Head.tags (h : Head) : List Nat := h.tc ++ h.ta.toList

/-- The last T instruction without a tag is complete (R48). -/
def Wave.directReady (w : Wave) : Bool :=
  match w.direct with
  | some p => p.complete
  | none => true

def Wave.tagsReady (w : Wave) (h : Head) : Bool :=
  (h.tags.all fun t => match w.tag t with
    | some p => p.complete
    | none => true) && w.directReady

/-- Steps 1 and 2 of R46, and the wait of R48. -/
def Wave.landFor (w : Wave) (h : Head) : Wave := h.tags.foldl Wave.landTag w.landDirect

/-! ### What an instruction does when it issues -/

/-- A trap of one lane (R259, R260). -/
structure LaneTrap where
  lane   : Nat
  code   : BitVec 8
  detail : BitVec 16 := 0
  elem   : Nat := 0
  addr   : Option DWord := none
  deriving DecidableEq, Repr

/-- The latch entry of an instruction (R50). -/
structure Entry where
  wide  : Bool
  count : Nat
  elems : List (Nat × DWord)
  deriving DecidableEq, Repr

/-- The instruction as it issues, with tags landed: the state, the issuing wave in it, the lanes that execute, those
with a true guard (R115), those of them that act, since they hold no deferred POISON, and the element at which they begin (R236). -/
structure Issue where
  s    : State
  w    : Wave
  xs   : List Nat
  grd  : List Nat
  act  : List Nat
  h    : Head
  pc   : Word
  first : Nat
  deriving DecidableEq, Repr

/-- The effect of an instruction: the state with its memory and engine effects, the lanes that trap, and what is
still to be written to the issuing wave.  `held`: lanes that the link holds, which do nothing (R385); `hold`: it waits at issue; `full`: for room in a phase table (R343);
`want`: for a tile (R190); `unheld`: it discards the held pushes of a pair first (R212).  `stop`: the model gives no next state. -/
structure Eff where
  s     : State
  traps : List LaneTrap := []
  vw    : List (Nat × Word) := []
  sw    : Option (Nat × DWord) := none
  pw    : List (Nat × Nat × Bool) := []
  entry : Option Entry := none
  pend  : Option Pending := none
  pcs   : List (Nat × Word) := []
  held  : List Nat := []
  hold  : Bool := false
  full  : Option DWord := none
  want  : Bool := false
  unheld : Option Nat := none
  stop  : Option Refusal := none
  deriving DecidableEq, Repr

/-- A wave waits at issue: nothing of the instruction is done (R190, R225, R152, R248). -/
def State.waits (s : State) : State := { s with held := s.cur :: s.held }

def Wave.port (w : Wave) (k : Nat) : Port := w.ports.getD k {}
def Wave.setPort (w : Wave) (k : Nat) (p : Port) : Wave := { w with ports := w.ports.set k p }

/-- Discard the held pushes of a pair; their lanes wake (R212). -/
def Wave.dropHeld (w : Wave) (k : Nat) : Wave :=
  let p := w.port k
  let ls := p.held.map (·.lane)
  (w.setPort k { p with held := [] }).updLanes ls fun _ x => { x with block := .none }

/-- What a wave that waits at issue asks for: room in a phase table, or a tile of its cluster; and the held pushes that
its qbind discards. -/
def State.waitsFor (s : State) (w : Wave) (e : Eff) : State :=
  let s := match e.unheld with
    | some k => s.updWave w.key fun w => w.dropHeld k
    | none => s
  let s := match e.full with
    | some a => s.updCrew w.crew fun c => { c with dsWait := some a }
    | none => s
  let s := if e.want then s.updCluster w.cluster fun c =>
      if c.tileReqs.any fun r => r.wave = w.key then c else { c with tileReqs := c.tileReqs ++ [{ wave := w.key }] }
    else s
  s.waits

/-- The crew lane number of a lane (R173). -/
def crewLane (w : Wave) (l : Nat) : Nat := 32 * w.num + l

/-! ### Reports (R323, R396, R398) -/

/-- Little-endian bytes of a word of 8 n bits (R4). -/
def toBytes {m : Nat} (x : BitVec m) (n : Nat) : List Byte := (List.range n).map fun k => x.extractLsb' (8 * k) 8

/-- The word of little-endian bytes (R4). -/
def ofBytes (bs : List Byte) : Nat := bs.foldr (fun b n => b.toNat + 256 * n) 0

/-- A launch report (R323). -/
def reportWord (launch : Nat) (tindex addr : DWord) (lane : Nat) (pc : Word) (detail : BitVec 16) (code kind : BitVec 8) :
    BitVec 512 :=
  (0#176) ++ BitVec.ofNat 16 launch ++ tindex ++ addr ++ (0#56) ++ BitVec.ofNat 8 lane ++ pc ++ (0#32) ++ detail ++
    (0#8) ++ code ++ (0#24) ++ kind

/-- A Rosoinu message: its header and payload (R392). -/
def rosoinu (type : BitVec 8) (session : Nat) (seq : Word) (status : BitVec 16) (tag : DWord) (payload : List Byte) :
    List Byte :=
  toBytes (0x5352 : BitVec 16) 2 ++ [0x01, type] ++ toBytes (BitVec.ofNat 32 session) 4 ++ toBytes seq 4 ++
    toBytes (BitVec.ofNat 16 payload.length) 2 ++ toBytes status 2 ++ toBytes tag 8 ++ List.replicate 8 0 ++ payload

/-- The datagram that carries a message of a session. -/
def Session.gram (x : Session) (seq : Word) (m : Message) : OutGram :=
  ⟨x.port, x.addr, x.sport, rosoinu m.1 x.num seq 0 0 m.2⟩

def State.setSession (s : State) (x : Session) : State :=
  { s with sessions := s.sessions.map fun y => if y.num = x.num then x else y }

/-- Send a message in a session, or let it wait behind 1,024 unacknowledged ones (R396). -/
def State.sendTo (s : State) (x : Session) (m : Message) : State :=
  if x.unacked.length < 1024 && x.waiting.isEmpty then
    { s.setSession { x with sendSeq := x.sendSeq + 1, unacked := x.unacked ++ [(x.sendSeq, m)] } with
      outbox := s.outbox ++ [x.gram x.sendSeq m] }
  else s.setSession { x with waiting := x.waiting ++ [m] }

/-- Send a launch report to the session that opened the launch, else to every privileged session, else keep it (R396). -/
def State.report (s : State) (launch : Nat) (r : BitVec 512) : State :=
  let m : Message := (0x20, toBytes r 64)
  match (s.launch? launch).bind fun l => s.sessions.find? fun x => x.num = l.session with
  | some x => s.sendTo x m
  | none =>
    match s.sessions.filter (·.priv) with
    | [] => { s with messages := s.messages ++ [m] }
    | xs => xs.foldl (fun s x => s.sendTo x m) s

/-- A RAS message (R398).  `core` is numbered over both sites. -/
def rasWord (code : BitVec 8) (site : Nat) (core cluster : Option Nat) (launch : Nat) (tindex addr time : DWord)
    (data : BitVec 192) : BitVec 512 :=
  let f (x : Option Nat) (n : Nat) : BitVec 8 := match x with
    | some k => BitVec.ofNat 8 (k % n)
    | none => 0xFF
  data ++ addr ++ time ++ tindex ++ BitVec.ofNat 16 launch ++ 0#72 ++ f core 96 ++ f cluster 12 ++ BitVec.ofNat 8 site ++
    0#8 ++ code

/-- A counter of a site's RAS events, saturating (R410). -/
def State.rasCount (s : State) (site k : Nat) : State :=
  s.updSite site fun t =>
    let n := t.rasCnt.getD k 0
    { t with rasCnt := t.rasCnt.set k (if n = 0xFFFFFFFF then n else n + 1) }

/-- A RAS event: counted, and sent to every privileged session; dropped where none is open or 4,096 wait (R396, R410). -/
def State.ras (s : State) (code : BitVec 8) (site : Nat) (core cluster : Option Nat := none) (launch : Nat := 0)
    (tindex addr : DWord := 0) (data : BitVec 192 := 0) : State :=
  let m : Message := (0x21, toBytes (rasWord code site core cluster launch tindex addr s.timer data) 64)
  let s := s.rasCount site code.toNat
  match s.sessions.filter (·.priv) with
  | [] => s.rasCount site 0
  | xs => xs.foldl (fun s x => if 4096 ≤ x.waiting.length then s.rasCount site 0 else s.sendTo x m) s

/-- A KIND 0x03 report. -/
def State.event (s : State) (launch : Nat) (tindex addr : DWord) (lane : Nat) (pc : Word) (detail : BitVec 16)
    (code : BitVec 8) : State :=
  s.report launch (reportWord launch tindex addr lane pc detail code 3)

/-! ### Taking an exception: fragments (R259-R268) -/

/-- Free the bivouac entry of a core; its generation advances (R231, R265). -/
def Bivouac.freed (b : Bivouac) : Bivouac := { gen := b.gen + 1 }

/-- The lowest free entry of a core's bivouac table (R262). -/
def Core.freeEntry (c : Core) : Option Nat := (List.range 64).find? fun k => (c.bivouac.getD k {}).state = .free

/-- The entry that holds a group of trapped lanes (R264): a PAGE group goes to the system controller first. -/
def TrapGroup.entry (g : TrapGroup) (w : Wave) (cr : Crew) (old : Bivouac) (order : Nat) : Bivouac :=
  { state := if g.code = 0x05 then .controller else .waiting
    gen := old.gen, wave := w.key, crewNum := w.num, launch := cr.launch, tindex := recTindex cr.record
    lanes := g.lanes, pc := g.pc, code := g.code, detail := g.detail, elem := g.elem, insn := g.insn
    addrs := g.addrs, latches := g.latches, order := order }

/-- The latches saved for a fragment: each entry's elements for its lanes (R268). -/
def saveLatches (ls : List Latch) (lanes : List Nat) : List Latch :=
  ls.map fun x => { x with elems := x.elems.filter fun p => lanes.contains (p.1 % 32) }

/-- Park one group of lanes: in the lowest free entry, or at wave level when the table is full (R262, R266). -/
def State.park (s : State) (key : Nat) (g : TrapGroup) : State :=
  match s.wave? key with
  | none => s
  | some w =>
    let s := s.setWave (w.updLanes g.lanes fun _ x => { x with life := .parked })
    match s.crew? w.crew, (s.core w.core).freeEntry with
    | some cr, some e =>
      { s.updCore w.core (fun c =>
          { c with bivouac := c.bivouac.set e (g.entry w cr (c.bivouac.getD e {}) s.nextId) }) with
        nextId := s.nextId + 1 }
    | _, _ =>
      { s.updWave key (fun w => { w with parked := w.parked ++ [{ g with order := s.nextId }] }) with
        nextId := s.nextId + 1 }

/-- FRAG_FULL, as a report of the launch and as a RAS event, when groups of this issue found no entry (R266, R323,
R410); neither message has a field for the wave's slot (log entry 93). -/
def State.fragFull (s : State) (key : Nat) : State :=
  match s.wave? key with
  | none => s
  | some w =>
    match w.parked.head?, s.crew? w.crew with
    | some g, some cr =>
      (s.event cr.launch (recTindex cr.record) 0 0 g.pc (BitVec.ofNat 16 w.parked.length) 0x30).ras 0x07 w.site
        (some w.core) (some w.cluster) cr.launch (recTindex cr.record) 0
        (BitVec.ofNat 192 w.parked.length)
    | _, _ => s

/-- The groups of R262: the traps of one issue by (CODE, DETAIL, ELEM), in ascending order of their lowest lane. -/
def groupTraps : List LaneTrap → List (List LaneTrap)
  | [] => []
  | t :: ts =>
    let same (u : LaneTrap) : Bool := u.code = t.code && u.detail = t.detail && u.elem = t.elem
    go same t (groupTraps ts)
where
  go (same : LaneTrap → Bool) (t : LaneTrap) : List (List LaneTrap) → List (List LaneTrap)
    | gs => (t :: (gs.filter fun g => g.any same).flatten) :: gs.filter fun g => !g.any same

/-- The trapped group as it parks: the lanes, and the latches as the instruction found them (R268). -/
def trapGroup (w : Wave) (insn : LongWord) (pc : Word) (g : List LaneTrap) : Option TrapGroup :=
  g.head?.map fun t =>
    { lanes := g.map (·.lane), code := t.code, detail := t.detail, elem := t.elem, pc := pc, insn := insn
      addrs := g.filterMap fun u => u.addr.map fun a => (u.lane, a)
      latches := saveLatches w.latches (g.map (·.lane)), order := 0 }

/-- Take the traps of one issue: each group parks as one fragment, in ascending order of its lowest lane (R262).
The latches saved are those of `w`, the wave before the instruction's own shift. -/
def State.takeTraps (s : State) (w : Wave) (insn : LongWord) (pc : Word) (ts : List LaneTrap) : State :=
  let ts := laneIds.filterMap fun l => ts.find? fun t => t.lane = l
  let gs := (groupTraps ts).filterMap (trapGroup w insn pc)
  let s := gs.foldl (fun s g => s.park w.key g) s
  if gs.isEmpty then s else s.fragFull w.key

/-- Entries freed on a core go first to its wave-level groups, in the order in which they parked (R266). -/
def State.refillOne (s : State) (core : Nat) : State :=
  match (s.core core).freeEntry with
  | none => s
  | some e =>
    let cands := s.waves.filterMap fun w => if w.core = core then w.parked.head?.map fun g => (g.order, w.key) else none
    match cands.foldl (fun m c => match m with
        | none => some c
        | some b => if c.1 < b.1 then some c else m) none with
    | none => s
    | some (_, key) =>
      match s.wave? key with
      | none => s
      | some w =>
        match w.parked, s.crew? w.crew with
        | g :: gs, some cr =>
          { (s.setWave { w with parked := gs }).updCore core (fun c =>
              { c with bivouac := c.bivouac.set e (g.entry w cr (c.bivouac.getD e {}) s.nextId) }) with
            nextId := s.nextId + 1 }
        | _, _ => s

/-- Free an entry of a bivouac table (R231, R265, R266). -/
def State.freeEntry (s : State) (core e : Nat) : State :=
  (s.updCore core fun c => { c with bivouac := c.bivouac.set e (c.bivouac.getD e {}).freed }).refillOne core

/-! ### The end of an issue -/

/-- All four latches become lost (R51). -/
def Wave.loseLatches (w : Wave) : Wave := { w with latches := w.latches.map fun x => { x with lost := true } }

/-- The latch of an entry; none is an empty entry (R50). -/
def Entry.latch : Option Entry → Latch
  | none => {}
  | some e => { empty := false, lost := false, wide := e.wide, count := e.count, elems := SMap.setAll [] e.elems }

/-- Shift the latches (R50). -/
def Wave.shift (w : Wave) (e : Option Entry) : Wave := { w with latches := Entry.latch e :: w.latches.take 3 }

/-- The lanes issue: PCs advance or go to the branch's target, retired counts rise (R30, R243, R261). -/
def advanceLane (h : Head) (pcs : List (Nat × Word)) (i : Nat) (x : Lane) : Lane :=
  { x with
    pc := match pcs.find? fun q => q.1 = i with
      | some q => q.2
      | none => x.pc + BitVec.ofNat 32 h.len
    retired := x.retired + 1 }

/-- The register writes of an issue: v (unless write-suppressed, the scale of mxq among them: log entry
74), s and predicates (R50, R41). -/
def Wave.writeBack (w : Wave) (h : Head) (e : Eff) : Wave :=
  let w := if h.ws then w else w.setV e.vw
  let w := match e.sw with
    | some (r, x) => if h.ws then w else w.setS r x
    | none => w
  w.updLanes (e.pw.map (·.1)) fun i x =>
    e.pw.foldl (fun x q => if q.1 = i then x.setPred q.2.1 q.2.2 else x) x

/-- Bind or land the pending result (R46 step 5, R48). -/
def Wave.bind (w : Wave) (h : Head) (p : Option Pending) : Wave :=
  match h.ta, p with
  | some t, p => { w with tags := w.tags.set t (some (p.getD {})) }
  | none, some p => if p.complete then w.land p else { w with direct := some p }
  | none, none => w

/-- The lanes of a resumed fragment have issued (R269 step 5). -/
def Wave.leaveRejoin (w : Wave) (xs : List Nat) : Wave :=
  { w with rejoins := (w.rejoins.map fun g =>
      if g.live then { g with lanes := g.lanes.filter fun l => !xs.contains l } else g).filter fun g => !g.lanes.isEmpty }

/-- HANG of ST_SCHED, in ns (R338). -/
def Site.hangNs (t : Site) : Nat := (t.sched.extractLsb' 48 16).toNat * 1000000

/-- The state after a wave has issued: the quarter's chain, the watchdog's interval, and no wave held.  The banks above the
core run at half rate to the end of the window when they demanded full rate too, which no rule settles (R16). -/
def State.issued (s : State) (w : Wave) (chain moved : Bool) : State :=
  let s := s.updCore w.core fun c =>
    { c with chained := c.chained.set w.quarter (if chain then some w.key else none)
             halfRate := c.halfRate || Config.choice s.issues }
  let s := if moved then s.updCrew w.crew (fun c =>
      { c with since := s.elapsed, hangNs := (s.site w.site).hangNs, hung := false, dsWait := none })
    else s
  { s with issues := s.issues + 1, held := [] }

/-- Lanes become ineligible until the link gives numbers again (R385). -/
def Wave.holdLanes (w : Wave) (ls : List Nat) : Wave :=
  if ls.isEmpty then w else w.updLanes ls fun _ x => { x with block := .link }

/-- The issuing wave after its instruction: registers, PCs, the latch shift, the chain (R46-R51).  A chain whose
executing lanes all trap stays unbroken only where another lane is eligible before defer bits are cleared (log entry 70). -/
def Wave.finish (w : Wave) (i : Issue) (e : Eff) (issues : Nat) : Wave :=
  let trapped := e.traps.map (·.lane)
  let ok := i.xs.filter fun l => !trapped.contains l && !e.held.contains l
  let w := (w.writeBack i.h e).bind i.h e.pend
  let w := (w.updLanes ok (advanceLane i.h e.pcs)).holdLanes e.held
  let w := (w.shift e.entry).leaveRejoin i.xs
  let w := { w with lastIssue := issues + 1 }
  let broken := ok.isEmpty && (w.updLanes trapped fun _ x => { x with life := .parked }).eligibleLanes.isEmpty
  let chain := i.h.ch && !i.h.blk && !broken
  if chain then { w with chain := true } else { w.loseLatches with chain := false }

/-- Complete an issue: write the wave, then take the traps (R261, R262). -/
def finishIssue (i : Issue) (insn : LongWord) (e : Eff) : Result :=
  match e.stop, e.hold with
  | some r, _ => .refused r
  | none, true => .next i.s.waits
  | none, false =>
    match e.s.wave? i.w.key with
    | none => .next e.s
    | some w =>
      let w' := w.finish i e e.s.issues
      let s := (e.s.setWave w').takeTraps i.w insn i.pc e.traps
      .next (s.issued w' w'.chain (e.traps.length < i.xs.length))

/-- The lanes whose poisoned result has landed take POISON at this execution (R309). -/
def poisonTraps (w : Wave) (ls : List Nat) : List LaneTrap :=
  ls.filterMap fun l => (w.lane l).poison.map fun t => { lane := l, code := t.code, detail := t.detail, addr := some t.va }

/-- The wave as the instruction finds it: settled, its tags landed, and the latches of a resumed fragment restored
(R46, R269 step 4). -/
def Wave.atIssue (w : Wave) (h : Head) : Wave :=
  let w' := w.landFor h
  match w.rejoinNow with
  | some g => { w' with latches := g.latches }
  | none => w'

/-- The instruction's issue in the wave `w` of `s`.  It counts before anything it opens resets the counts (R255). -/
def Issue.of (s : State) (w : Wave) (h : Head) : Issue :=
  let xs := w.issueSet
  let w' := w.atIssue h
  let g := xs.filter fun l => guardOf h (w'.lane l)
  let bad := g.filter fun l => (w'.lane l).poison.isSome
  let w'' := { w'.updLanes bad fun _ x => { x with poison := none } with progress := w'.progress + 1 }
  { s := s.setWave w'', w := w'', xs := xs, grd := g, act := g.filter fun l => !bad.contains l, h := h
    pc := match xs with
      | [] => 0
      | l :: _ => (w.lane l).pc
    first := match w.rejoinNow with
      | some r => r.elem
      | none => 0 }

/-- Issue an encoded instruction in the current wave (R22, R46): wait for its tags, land them, take a deferred
POISON, perform `body` for the lanes whose guard is true, and complete.  Where the link holds every lane, none issues. -/
def issue (i : Instr) (body : Issue → Eff) (s : State) : Result :=
  match s.wave? s.cur with
  | none => .fault .noIssuingWave
  | some w0 =>
    let w := w0.settled
    let h := instrHead i
    if w.issueSet.isEmpty then .fault .noIssuingWave
    else if !w.tagsReady h then .next s.waits
    else
      let iss := Issue.of s w h
      let e := body iss
      let e := { e with traps := poisonTraps (w.atIssue h) (iss.xs.filter fun l => guardOf h (iss.w.lane l)) ++ e.traps }
      match e.stop, e.hold with
      | none, true => .next (s.waitsFor w e)
      | _, _ =>
        if e.stop.isNone && iss.xs.all e.held.contains then .next { s.setWave (w.holdLanes e.held) with held := [] }
        else finishIssue iss (instrWord i) e

/-- Every lane at the issue address takes one trap before any step of R46: a decode or fetch failure (R51, R55, R30,
R260).  The latches are saved as they stand, then lost.  A T instruction without a tag completes and lands before it (R48). -/
def failIssue (insn : LongWord) (code : BitVec 8) (detail : BitVec 16) (addr : Option DWord) (s : State) : Result :=
  match s.wave? s.cur with
  | none => .fault .noIssuingWave
  | some w0 =>
    let w := w0.settled
    let xs := w.issueSet
    match xs with
    | [] => .fault .noIssuingWave
    | l :: _ =>
      if !w.directReady then .next s.waits
      else
        let w := w.landDirect
        let saved := match w0.settled.rejoinNow with
          | some g => { w with latches := g.latches }
          | none => w
        let w' := { (w.leaveRejoin xs).loseLatches with chain := false, progress := w.progress + 1, lastIssue := s.issues + 1 }
        let s := (s.setWave w').takeTraps saved insn (w.lane l).pc
          (xs.map fun l => { lane := l, code := code, detail := detail, addr := addr })
        .next (s.issued w' false false)

/-! ### The return from an exception (R236, R269) -/

/-- The lanes of a fragment leave the bivouac and rejoin at the wave's next latch-loss point.  With skip, the saved
latches shift once with an empty entry, and no element is passed over.  fpcr is the wave's (log entry 73). -/
def State.resume (s : State) (core e : Nat) (skip : Option (Nat → Word)) : State :=
  let b := (s.core core).bivouac.getD e {}
  let s := s.updWave b.wave fun w =>
    let w := w.updLanes b.lanes fun i x =>
      { x with
        defer := false
        pc := match skip with
          | some f => f i
          | none => x.pc
        retired := if skip.isSome then x.retired + 1 else x.retired }
    { w with rejoins := w.rejoins ++
        [{ lanes := b.lanes
           latches := if skip.isSome then ({} : Latch) :: b.latches.take 3 else b.latches
           elem := if skip.isSome then 0 else b.elem
           live := false }] }
  s.freeEntry core e

/-- Resumed lanes become live at a latch-loss point of their wave (R269 step 1). -/
def Wave.rejoin (w : Wave) : Wave :=
  if w.chain then w
  else
    let back := (w.rejoins.filter fun g => !g.live).flatMap (·.lanes)
    { w.updLanes back (fun _ x => { x with life := .live }) with
      rejoins := w.rejoins.map fun g => { g with live := true } }

end Sys2Proof.Machine
end

