-- ==== Sys2Proof/Machine/Flags.lean ====
section
/-!
DEFINITION. Exceptions and flags (03 R76-R81): what an element's flags do to fpsr and when they trap; the writes of
fpcr and fpsr; carries, borrows and overflow of integer sums (04 R94-R110).
-/
namespace Sys2Proof.Machine

/-- A lane's fpsr after flags are raised: sticky, never cleared (R77). -/
def Lane.raise (x : Lane) (fl : Flags) : Lane := { x with fpsr := x.fpsr ||| fl.setWidth 32 }

/-- A write of fpcr: a reserved rounding code leaves RM as it was; reserved bits stay 0 (R76). -/
def writeFpcr (old v : Word) : Word :=
  let rm := if (v.extractLsb' 0 3).toNat ≤ 4 then v.extractLsb' 0 3 else old.extractLsb' 0 3
  0#23 ++ v.extractLsb' 3 6 ++ rm

/-- A write of fpsr: bits [31:5] are ignored (R77, R246). -/
def writeFpsr (v : Word) : Word := (v.extractLsb' 0 5).setWidth 32

/-- The largest and the least value of a type of n bits, as its bit pattern. -/
def maxOf (sgn : Bool) (n : Nat) : Nat := if sgn then 2 ^ (n - 1) - 1 else 2 ^ n - 1
def minOf (sgn : Bool) (n : Nat) : Nat := if sgn then 2 ^ (n - 1) else 0

/-- The value of a pattern of n bits. -/
def valueOf (sgn : Bool) (n x : Nat) : Int := if sgn && 2 ^ (n - 1) ≤ x then (x : Int) - 2 ^ n else x

/-- The pattern of n bits of a value, wrapped (R68). -/
def wrapOf (n : Nat) (v : Int) : Nat := (v % (2 ^ n : Int)).toNat

/-- The pattern of n bits of a value, saturated to its type. -/
def satOf (sgn : Bool) (n : Nat) (v : Int) : Nat :=
  if v < valueOf sgn n (minOf sgn n) then minOf sgn n
  else if valueOf sgn n (maxOf sgn n) < v then maxOf sgn n
  else wrapOf n v

/-- The carry out of a + b + c over n bits. -/
def carryOf (n a b c : Nat) : Bool := 2 ^ n ≤ a + b + c
/-- The borrow out of a - b - c. -/
def borrowOf (a b c : Nat) : Bool := a < b + c

end Sys2Proof.Machine
end

