-- ==== Sys2Proof/Machine/Operands.lean ====
section
/-!
DEFINITION. Operands: what each selector supplies to an element of a lane (02 R39-R44, R50-R52), the element loop of
an instruction over its blocks with the precision of its traps (R44, R79, R259), its latch entry, and its s
destination (R41, R261).
-/
namespace Sys2Proof.Machine

/-- How an operand is read: an integer of n registers, a floating-point type, or a source type of cvt (R40). -/
inductive OpTy where
  | int (n : Nat)
  | fp (t : FTy)
  | cv (t : CvtTy)
  deriving DecidableEq, Repr

def OpTy.regs : OpTy → Nat
  | .int n => n
  | .fp t => t.regs
  | .cv t => t.regs

/-- A small integer for a source of cvt (R40). -/
def smallCvt (t : CvtTy) (v : Int) : DWord :=
  match t with
  | .f64 => smallFp .f64 v
  | .f32 => smallFp .f32 v
  | .f16 => smallFp .f16 v
  | .bf16 => smallFp .bf16 v
  | .f16x2 => smallFp .f16x2 v
  | .bf16x2 => smallFp .bf16x2 v
  | .e4m3 => BitVec.ofNat 64 (fE4m3.ofSmall v)
  | .e5m2 => BitVec.ofNat 64 (fE5m2.ofSmall v)
  | .e2m1 => BitVec.ofNat 64 (fE2m1.ofSmall v)
  | .e8m0 => BitVec.ofNat 64 (e8m0OfSmall v)
  | .i64 | .n64 => BitVec.ofInt 64 v
  | .i8 | .i16 | .i32 | .n8 | .n16 | .n32 => (BitVec.ofInt 32 v).setWidth 64

/-- Element (i, j) of a block is register v + n (i S + j) (R42, R43). -/
def elemReg (e : Ext) (n r k : Nat) : Nat := r + n * (k / e.cols * e.stride + k % e.cols)

/-- A small integer as an operand (R40): sign-extended for integers, converted for floating-point types. -/
def OpTy.small (t : OpTy) (v : Int) : DWord :=
  match t with
  | .int n => if n = 1 then (BitVec.ofInt 32 v).setWidth 64 else BitVec.ofInt 64 v
  | .fp f => smallFp f v
  | .cv c => smallCvt c v

/-- The value of an inline selector (R39). -/
def inlValue (i : BitVec 7) : Int := (i.toNat : Int) - 64

/-- The element a latch supplies, or the detail of LATCH_LOST, the lowest that holds (R52). -/
def latchElem (x : Latch) (n : Nat) (wide : Bool) (l : Nat) : Except (BitVec 16) DWord :=
  if x.lost then .error 1
  else if x.empty then .error 2
  else if x.count ≤ n then .error 3
  else if x.wide != wide then .error 4
  else .ok (if wide then SMap.get x.elems (32 * n + l) else ((SMap.get x.elems (32 * n + l)).setWidth 32).setWidth 64)

/-- What a source supplies to element k of lane l: the value in the low bits, or the detail of LATCH_LOST (R40, R42,
R50). -/
def readSrc (w : Wave) (e : Ext) (l k : Nat) (t : OpTy) (x : Sel) : Except (BitVec 16) DWord :=
  match x with
  | .v r =>
    let reg := elemReg e t.regs r.toNat k
    .ok (if t.regs = 1 then (w.vreg reg l).setWidth 64 else w.vpair reg l)
  | .s r => .ok (if t.regs = 1 then ((w.sreg r.toNat).setWidth 32).setWidth 64 else w.sreg r.toNat)
  | .b b => latchElem (w.latches.getD b.toNat {}) k (t.regs = 2) l
  | .p p => .ok (t.small (if (w.lane l).pred p.val then 1 else 0))
  | .inl i => .ok (t.small (inlValue i))
  | .q _ | .m _ | .bad _ => .ok 0

/-- A 64-bit immediate of LI, sign-extended to the operation's width (R35). -/
def immOf (imm : BitVec 22) : DWord := imm.signExtend 64

/-- What one element of one lane gives: its value, the flags it raises, or a trap code and detail. -/
abbrev ElemRes := Except (BitVec 8 × BitVec 16) (DWord × Flags)

/-- A LATCH_LOST trap for an operand that cannot be read (R52). -/
def lostTrap {α : Type} : Except (BitVec 16) α → Except (BitVec 8 × BitVec 16) α
  | .ok x => .ok x
  | .error d => .error (0x02, d)

/-- An element's result under fpcr: an enabled exception traps (R79, R80). -/
def fpElem (fpcr : Word) (v : DWord) (fl : Flags) : ElemRes :=
  match fpTrapCode fpcr fl with
  | some c => .error (c, 0)
  | none => .ok (v, fl)

/-- What the elements of one lane give: the values from the first element on, the flags of those written, and the trap
with the element that fails (R79, R259). -/
structure LaneOut where
  vals  : List (Nat × DWord) := []
  flags : Flags := 0
  trap  : Option (Nat × BitVec 8 × BitVec 16) := none
  deriving DecidableEq, Repr

/-- Elements k, k + 1, ... (n of them) of one lane, up to the first that fails. -/
def runElems (f : Nat → ElemRes) (k : Nat) : Nat → LaneOut
  | 0 => {}
  | n + 1 =>
    match f k with
    | .error (c, d) => { trap := some (k, c, d) }
    | .ok (v, fl) =>
      let r := runElems f (k + 1) n
      { vals := (k, v) :: r.vals, flags := fl ||| r.flags, trap := r.trap }

/-- The words of an element of n registers at element k of a block. -/
def elemWords (e : Ext) (n r k l : Nat) (x : DWord) : List (Nat × Word) :=
  regWords (elemReg e n r k) l n (x.setWidth 512)

/-- A value for an s register (R41): a 64-bit result whole, a 32-bit result sign-extended for .i32, else zero-extended. -/
def sValue (n : Nat) (sx : Bool) (x : DWord) : DWord :=
  if n = 1 then (if sx then (x.setWidth 32).signExtend 64 else (x.setWidth 32).setWidth 64) else x

/-- The latch entry of a block (R50): elements below 8 of the lanes that did not trap; the elements that a resumed
lane passes over hold free values (log entry 7). -/
def blockEntry (i : Issue) (n count : Nat) (outs : List (Nat × LaneOut)) : Entry :=
  { wide := n = 2, count := min count 8
    elems := outs.flatMap fun p =>
      if p.2.trap.isSome then []
      else ((List.range (min i.first (min count 8))).map fun k =>
          (32 * k + p.1, if n = 2 then Config.freeWord (i.s.fresh + 32 * k + p.1)
            else ((Config.freeWord (i.s.fresh + 32 * k + p.1)).setWidth 32).setWidth 64)) ++
        p.2.vals.filterMap fun q => if q.1 < 8 then some (32 * q.1 + p.1, q.2) else none }

/-- Traps of the lanes whose elements failed. -/
def outTraps (outs : List (Nat × LaneOut)) : List LaneTrap :=
  outs.filterMap fun p => p.2.trap.map fun t => { lane := p.1, code := t.2.1, detail := t.2.2, elem := t.1 }

/-- The lowest lane that did not trap, with its element 0 (R41, R261). -/
def lowestOk (outs : List (Nat × LaneOut)) : Option DWord :=
  match outs.find? fun p => p.2.trap.isNone with
  | some (_, o) => (o.vals.head?).map (·.2)
  | none => none

/-- Raise the flags of the written elements in the lanes of the issuing wave (R77, R79). -/
def raiseFlags (i : Issue) (outs : List (Nat × LaneOut)) : State :=
  if outs.all fun p => p.2.flags = 0 then i.s
  else i.s.setWave (i.w.updLanes (outs.map (·.1)) fun l x =>
    match outs.find? fun p => p.1 = l with
    | some p => x.raise p.2.flags
    | none => x)

/-- A draw of free values is spent when a resumed lane passes elements over. -/
def spendFresh (i : Issue) (s : State) : State := if i.first = 0 then s else { s with fresh := s.fresh + 512 }

/-- The effect of an element-wise instruction: each acting lane runs its elements from the issue's first; the results
go to a block of n-register elements at D, or to an s register (R41, R44, R79); every acting lane that does not trap raises its
flags, with an s destination too (log entry 16).  `sx`: a 32-bit result extends its
sign into an s register.  `land`: a T instruction, whose result lands later and whose latch entry is empty (R45, R50). -/
def elemEff (i : Issue) (e : Ext) (n : Nat) (sx land : Bool) (d : Sel) (f : Nat → Nat → ElemRes) : Eff :=
  let outs := i.act.map fun l => (l, runElems (f l) i.first (e.count - i.first))
  let s := spendFresh i (if land then i.s else raiseFlags i outs)
  let ts := outTraps outs
  let fl := outs.filterMap fun p => if p.2.flags = 0 then none else some (p.1, p.2.flags)
  match d with
  | .v r =>
    let vw := outs.flatMap fun p => p.2.vals.flatMap fun q => elemWords e n r.toNat q.1 p.1 q.2
    if land then { s := s, traps := ts, pend := some { vw := vw, flags := fl } }
    else { s := s, traps := ts, vw := vw, entry := some (blockEntry i n e.count outs) }
  | .s r =>
    let sw := (lowestOk outs).map fun x => (r.toNat, sValue n sx x)
    if land then { s := s, traps := ts, pend := some { sw := sw, flags := fl } } else { s := s, traps := ts, sw := sw }
  | _ => { s := s, traps := ts }

/-- The effect of an element-wise instruction with a predicate block at p (R41). -/
def predEff (i : Issue) (e : Ext) (p : Nat) (f : Nat → Nat → ElemRes) : Eff :=
  let outs := i.act.map fun l => (l, runElems (f l) i.first (e.count - i.first))
  { s := raiseFlags i outs, traps := outTraps outs
    pw := outs.flatMap fun o => o.2.vals.map fun q => (o.1, p + q.1, q.2.getLsbD 0) }

/-- The lowest LATCH_LOST detail among the operands of an element (R52). -/
def lowestLost (xs : List (Except (BitVec 16) DWord)) : Option (BitVec 16) :=
  xs.foldl (fun m x => match x, m with
    | .error d, some e => some (if d.toNat < e.toNat then d else e)
    | .error d, none => some d
    | .ok _, m => m) none

/-- Two operands of one element. -/
def read2 (w : Wave) (e : Ext) (l k : Nat) (ta tb : OpTy) (a b : Sel) : Except (BitVec 8 × BitVec 16) (DWord × DWord) :=
  match readSrc w e l k ta a, readSrc w e l k tb b with
  | .ok x, .ok y => .ok (x, y)
  | x, y => .error (0x02, (lowestLost [x, y]).getD 0)

/-- Three operands of one element. -/
def read3 (w : Wave) (e : Ext) (l k : Nat) (ta tb tc : OpTy) (a b c : Sel) :
    Except (BitVec 8 × BitVec 16) (DWord × DWord × DWord) :=
  match readSrc w e l k ta a, readSrc w e l k tb b, readSrc w e l k tc c with
  | .ok x, .ok y, .ok z => .ok (x, y, z)
  | x, y, z => .error (0x02, (lowestLost [x, y, z]).getD 0)

/-- A plain 32-bit or 64-bit source of an LE instruction for one lane: s, v, inline, latch or predicate. -/
def readOne (w : Wave) (l : Nat) (wide : Bool) (x : Sel) : Except (BitVec 16) DWord :=
  readSrc w (.dense 1 1) l 0 (.int (if wide then 2 else 1)) x

/-- The lowest lane of a list supplies a v source of an instruction that acts once (R186). -/
def onceLane (ls : List Nat) : Nat := ls.headD 0

/-- A value written to D by an instruction that acts once: every acting lane of a v destination, or the s register
(R186).  n is 1 or 2 registers. -/
def onceWrite (i : Issue) (n : Nat) (d : Sel) (x : DWord) : List (Nat × Word) × Option (Nat × DWord) :=
  match d with
  | .v r => (i.act.flatMap fun l => regWords r.toNat l n (x.setWidth 512), none)
  | .s r => ([], some (r.toNat, sValue n false x))
  | _ => ([], none)

/-- The latch entry of an instruction that writes n registers of each acting lane at a v destination. -/
def laneEntry (n : Nat) (d : Sel) (vals : List (Nat × DWord)) : Option Entry :=
  match d with
  | .v _ => some { wide := n = 2, count := 1, elems := vals }
  | _ => none

/-- An engine instruction's trap parks all of its acting lanes (R186). -/
def trapAll (i : Issue) (code : BitVec 8) (detail : BitVec 16) (addr : Option DWord := none) : Eff :=
  { s := i.s, traps := i.act.map fun l => { lane := l, code := code, detail := detail, addr := addr } }

end Sys2Proof.Machine
end

