-- ==== Sys2Proof/Machine/Integer.lean ====
section
/-!
DEFINITION. Moves, integer arithmetic, logic and bits (04 R94-R110), compare, select and predicates (R111, R113, R114).
Each operation is a function of bit patterns of W bits; the bodies apply it to every element of every acting lane.
-/
namespace Sys2Proof.Machine

/-! ### Operations on patterns of W bits -/

/-- Width of an integer type in bits. -/
def wOf (t : ITy) : Nat := 32 * t.regs
def intTy (t : ITy) : OpTy := .int t.regs

def intAdd (t : ITy) (sat : Bool) (a b : Nat) : Nat :=
  if sat then satOf t.signed (wOf t) (valueOf t.signed (wOf t) a + valueOf t.signed (wOf t) b) else (a + b) % 2 ^ wOf t
def intSub (t : ITy) (sat : Bool) (a b : Nat) : Nat :=
  if sat then satOf t.signed (wOf t) (valueOf t.signed (wOf t) a - valueOf t.signed (wOf t) b)
  else (a + 2 ^ wOf t - b) % 2 ^ wOf t
def intMul (t : ITy) (a b : Nat) : Nat := (a * b) % 2 ^ wOf t
/-- The upper half of the exact product (R99). -/
def intMulh (t : ITy) (a b : Nat) : Nat :=
  wrapOf (wOf t) (valueOf t.signed (wOf t) a * valueOf t.signed (wOf t) b / 2 ^ wOf t)
def intMad (t : ITy) (a b c : Nat) : Nat := (a * b + c) % 2 ^ wOf t
def intMadWide (t : ITy) (a b c : Nat) : Nat :=
  wrapOf 64 (valueOf t.signed 32 a * valueOf t.signed 32 b + c)
/-- Quotient and remainder, the quotient truncated toward zero (R101); b is not 0. -/
def intDivRem (t : ITy) (a b : Nat) : Nat × Nat :=
  let x := valueOf t.signed (wOf t) a
  let y := valueOf t.signed (wOf t) b
  (wrapOf (wOf t) (Int.tdiv x y), wrapOf (wOf t) (Int.tmod x y))
/-- Quotient and remainder of a division by zero that does not trap (R101). -/
def divByZero (t : ITy) (a : Nat) : Nat × Nat := (2 ^ wOf t - 1, a)
def intAbs (t : ITy) (sat : Bool) (a : Nat) : Nat :=
  let v : Int := (valueOf true (wOf t) a).natAbs
  if sat then satOf true (wOf t) v else wrapOf (wOf t) v
def intNeg (t : ITy) (sat : Bool) (a : Nat) : Nat :=
  let v : Int := -valueOf true (wOf t) a
  if sat then satOf true (wOf t) v else wrapOf (wOf t) v
def intLt (t : ITy) (a b : Nat) : Bool := valueOf t.signed (wOf t) a < valueOf t.signed (wOf t) b
def intMin (t : ITy) (a b : Nat) : Nat := if intLt t b a then b else a
def intMax (t : ITy) (a b : Nat) : Nat := if intLt t a b then b else a
def intAddc (t : ITy) (co : Bool) (a b c : Nat) : Nat :=
  if co then (if carryOf (wOf t) a b (c % 2) then 1 else 0) else (a + b + c % 2) % 2 ^ wOf t
def intSubc (t : ITy) (co : Bool) (a b c : Nat) : Nat :=
  if co then (if borrowOf a b (c % 2) then 1 else 0) else (a + 2 * 2 ^ wOf t - b - c % 2) % 2 ^ wOf t
/-- A + ext(B) x 2^s modulo 2^64 (R103). -/
def leaSum (a : Nat) (b : Int) (sc : BitVec 2) : Nat := wrapOf 64 (a + b * 2 ^ sc.toNat)
def intShl (t : ITy) (a k : Nat) : Nat := if wOf t ≤ k then 0 else a * 2 ^ k % 2 ^ wOf t
def intShr (t : ITy) (a k : Nat) : Nat := if wOf t ≤ k then 0 else a / 2 ^ k
def intSra (t : ITy) (a k : Nat) : Nat := wrapOf (wOf t) (valueOf true (wOf t) a / 2 ^ min k (wOf t))
/-- The funnel shift (R106). -/
def intShf (t : ITy) (right : Bool) (a b c : Nat) : Nat :=
  let k := c % (2 * wOf t)
  let cat := a * 2 ^ wOf t + b
  if right then cat / 2 ^ k % 2 ^ wOf t else cat * 2 ^ k % 2 ^ (2 * wOf t) / 2 ^ wOf t
/-- Position and length of a control word, held to the width (R107). -/
def fieldOf (t : ITy) (c : Nat) : Nat × Nat :=
  let pos := min (c % 256) (wOf t)
  (pos, min (c / 256 % 256) (wOf t - pos))
def intBfe (t : ITy) (a c : Nat) : Nat :=
  let (pos, len) := fieldOf t c
  let f := a / 2 ^ pos % 2 ^ len
  if len = 0 then 0 else wrapOf (wOf t) (valueOf t.signed len f)
def intBfi (t : ITy) (a b c : Nat) : Nat :=
  let (pos, len) := fieldOf t c
  let mask := (2 ^ len - 1) * 2 ^ pos
  (b &&& (2 ^ wOf t - 1 - mask)) ||| (a * 2 ^ pos &&& mask)
def bitsUp (n : Nat) : List Nat := List.range n
def intPopc (t : ITy) (a : Nat) : Nat := (bitsUp (wOf t)).countP fun i => a.testBit i
def intClz (t : ITy) (a : Nat) : Nat := if a = 0 then wOf t else wOf t - 1 - Nat.log2 a
def intCtz (t : ITy) (a : Nat) : Nat := ((bitsUp (wOf t)).find? fun i => a.testBit i).getD (wOf t)
def intBrev (t : ITy) (a : Nat) : Nat :=
  (bitsUp (wOf t)).foldl (fun r i => 2 * r + (if a.testBit i then 1 else 0)) 0
/-- The truth table applied to each bit position (R109). -/
def lut3Of (tb : BitVec 8) (a b c : Nat) : Nat :=
  (List.range 32).foldr (fun i r => 2 * r +
    (if tb.getLsbD ((if a.testBit i then 4 else 0) + (if b.testBit i then 2 else 0) + (if c.testBit i then 1 else 0))
     then 1 else 0)) 0
def ccHolds (t : ITy) (cc : Cc) (a b : Nat) : Bool :=
  match cc with
  | .eq => a = b
  | .ne => a != b
  | .lt => intLt t a b
  | .le => !intLt t b a
  | .gt => intLt t b a
  | .ge => !intLt t a b

/-! ### Bodies -/

/-- A 32-bit result extends its sign into an s register for .i32 only (R41). -/
def sxOf (t : ITy) : Bool := t = .i32

def ok1 (x : Nat) : ElemRes := .ok (BitVec.ofNat 64 x, 0)

/-- D := f(A). -/
def unBody (t : ITy) (x : LR) (f : Nat → Nat) (i : Issue) : Eff :=
  elemEff i x.extent t.regs (sxOf t) false x.d fun l k =>
    match readSrc i.w x.extent l k (intTy t) x.a with
    | .ok a => ok1 (f a.toNat)
    | .error d => .error (0x02, d)

/-- D := f(A, B), B of its own type. -/
def binBody (t : ITy) (tb : OpTy) (x : LR) (f : Nat → Nat → Nat) (i : Issue) : Eff :=
  elemEff i x.extent t.regs (sxOf t) false x.d fun l k =>
    match read2 i.w x.extent l k (intTy t) tb x.a x.b with
    | .ok (a, b) => ok1 (f a.toNat b.toNat)
    | .error e => .error e

/-- D := f(A, imm), the immediate sign-extended to the operation's width (R35). -/
def liBody (t : ITy) (x : LI) (f : Nat → Nat → Nat) (i : Issue) : Eff :=
  elemEff i x.extent t.regs (sxOf t) false x.d fun l k =>
    match readSrc i.w x.extent l k (intTy t) x.a with
    | .ok a => ok1 (f a.toNat ((immOf x.imm).toNat % 2 ^ wOf t))
    | .error d => .error (0x02, d)

/-- D := f(A, B, C), C of its own type. -/
def terBody (t : ITy) (tc : OpTy) (x : LR) (f : Nat → Nat → Nat → Nat) (i : Issue) : Eff :=
  elemEff i x.extent t.regs (sxOf t) false x.d fun l k =>
    match read3 i.w x.extent l k (intTy t) (intTy t) tc x.a x.b x.c with
    | .ok (a, b, c) => ok1 (f a.toNat b.toNat c.toNat)
    | .error e => .error e

/-- The short form of a 32-bit two-operand instruction: D = A = DA (R38). -/
def shBody (x : SH) (f : Nat → Nat → Nat) (i : Issue) : Eff :=
  elemEff i x.extent 1 true false (.v x.da) fun l k =>
    match read2 i.w x.extent l k (.int 1) (.int 1) (.v x.da) x.b with
    | .ok (a, b) => ok1 (f a.toNat b.toNat)
    | .error e => .error e

/-! ### Moves (R98) -/

def execMov (x : LR) (t : ITy) (s : State) : Result := issue (.mov x t) (unBody t x id) s
def execMovShort (x : SH) (s : State) : Result := issue (.movShort x) (shBody x fun _ b => b) s

/-! ### Integer arithmetic (R99-R103) -/

def execIadd (x : LR) (t : ITy) (sat : Bool) (s : State) : Result :=
  issue (.iadd x t sat) (binBody t (intTy t) x (intAdd t sat)) s
def execIaddLi (x : LI) (t : ITy) (sat : Bool) (s : State) : Result :=
  issue (.iaddLi x t sat) (liBody t x (intAdd t sat)) s
def execIaddShort (x : SH) (s : State) : Result := issue (.iaddShort x) (shBody x (intAdd .i32 false)) s
def execIsub (x : LR) (t : ITy) (sat : Bool) (s : State) : Result :=
  issue (.isub x t sat) (binBody t (intTy t) x (intSub t sat)) s
def execIsubLi (x : LI) (t : ITy) (sat : Bool) (s : State) : Result :=
  issue (.isubLi x t sat) (liBody t x (intSub t sat)) s
def execIsubShort (x : SH) (s : State) : Result := issue (.isubShort x) (shBody x (intSub .i32 false)) s
def execImul (x : LR) (t : ITy) (s : State) : Result := issue (.imul x t) (binBody t (intTy t) x (intMul t)) s
def execImulLi (x : LI) (t : ITy) (s : State) : Result := issue (.imulLi x t) (liBody t x (intMul t)) s
def execImulh (x : LR) (t : ITy) (s : State) : Result := issue (.imulh x t) (binBody t (intTy t) x (intMulh t)) s
def execImad (x : LR) (t : ITy) (s : State) : Result := issue (.imad x t) (terBody t (intTy t) x (intMad t)) s
/-- imad.wide: A and B of 32 bits, C and D of 64 (R99). -/
def execImadWide (x : LR) (t : ITy) (s : State) : Result :=
  issue (.imadWide x t) (fun i => elemEff i x.extent 2 false false x.d fun l k =>
    match read3 i.w x.extent l k (.int 1) (.int 1) (.int 2) x.a x.b x.c with
    | .ok (a, b, c) => ok1 (intMadWide t a.toNat b.toNat c.toNat)
    | .error e => .error e) s

/-- idiv and irem: a zero divisor traps under fpcr.IDZE, at its element (R101). -/
def divBody (t : ITy) (x : LR) (pick : Nat × Nat → Nat) (i : Issue) : Eff :=
  elemEff i x.extent t.regs (sxOf t) true x.d fun l k =>
    match read2 i.w x.extent l k (intTy t) (intTy t) x.a x.b with
    | .ok (a, b) =>
      if b = 0 then
        if i.w.fpcr.getLsbD 8 then .error (0x18, 0) else ok1 (pick (divByZero t a.toNat))
      else ok1 (pick (intDivRem t a.toNat b.toNat))
    | .error e => .error e
def execIdiv (x : LR) (t : ITy) (s : State) : Result := issue (.idiv x t) (divBody t x (·.1)) s
def execIrem (x : LR) (t : ITy) (s : State) : Result := issue (.irem x t) (divBody t x (·.2)) s
def execIabs (x : LR) (t : ITy) (sat : Bool) (s : State) : Result := issue (.iabs x t sat) (unBody t x (intAbs t sat)) s
def execIneg (x : LR) (t : ITy) (sat : Bool) (s : State) : Result := issue (.ineg x t sat) (unBody t x (intNeg t sat)) s
def execImin (x : LR) (t : ITy) (s : State) : Result := issue (.imin x t) (binBody t (intTy t) x (intMin t)) s
def execIminLi (x : LI) (t : ITy) (s : State) : Result := issue (.iminLi x t) (liBody t x (intMin t)) s
def execIminShort (x : SH) (s : State) : Result := issue (.iminShort x) (shBody x (intMin .i32)) s
def execImax (x : LR) (t : ITy) (s : State) : Result := issue (.imax x t) (binBody t (intTy t) x (intMax t)) s
def execImaxLi (x : LI) (t : ITy) (s : State) : Result := issue (.imaxLi x t) (liBody t x (intMax t)) s
def execImaxShort (x : SH) (s : State) : Result := issue (.imaxShort x) (shBody x (intMax .i32)) s
def execAddc (x : LR) (t : ITy) (co : Bool) (s : State) : Result :=
  issue (.addc x t co) (terBody t (.int 1) x (intAddc t co)) s
def execSubc (x : LR) (t : ITy) (co : Bool) (s : State) : Result :=
  issue (.subc x t co) (terBody t (.int 1) x (intSubc t co)) s
/-- lea: A and D of 64 bits, B of the type (R103). -/
def execLea (x : LR) (t : ITy) (sc : BitVec 2) (s : State) : Result :=
  issue (.lea x t sc) (fun i => elemEff i x.extent 2 false false x.d fun l k =>
    match read2 i.w x.extent l k (.int 2) (intTy t) x.a x.b with
    | .ok (a, b) => ok1 (leaSum a.toNat (valueOf t.signed (wOf t) b.toNat) sc)
    | .error e => .error e) s
def execLeaLi (x : LI) (t : ITy) (sc : BitVec 2) (s : State) : Result :=
  issue (.leaLi x t sc) (fun i => elemEff i x.extent 2 false false x.d fun l k =>
    match readSrc i.w x.extent l k (.int 2) x.a with
    | .ok a => ok1 (leaSum a.toNat x.imm.toInt sc)
    | .error d => .error (0x02, d)) s

/-! ### Logic and bits (R104-R109) -/

def execAnd (x : LR) (t : ITy) (s : State) : Result := issue (.and x t) (binBody t (intTy t) x (· &&& ·)) s
def execAndLi (x : LI) (t : ITy) (s : State) : Result := issue (.andLi x t) (liBody t x (· &&& ·)) s
def execAndShort (x : SH) (s : State) : Result := issue (.andShort x) (shBody x (· &&& ·)) s
def execOr (x : LR) (t : ITy) (s : State) : Result := issue (.or x t) (binBody t (intTy t) x (· ||| ·)) s
def execOrLi (x : LI) (t : ITy) (s : State) : Result := issue (.orLi x t) (liBody t x (· ||| ·)) s
def execOrShort (x : SH) (s : State) : Result := issue (.orShort x) (shBody x (· ||| ·)) s
def execXor (x : LR) (t : ITy) (s : State) : Result := issue (.xor x t) (binBody t (intTy t) x (· ^^^ ·)) s
def execXorLi (x : LI) (t : ITy) (s : State) : Result := issue (.xorLi x t) (liBody t x (· ^^^ ·)) s
def execXorShort (x : SH) (s : State) : Result := issue (.xorShort x) (shBody x (· ^^^ ·)) s
def intNot (t : ITy) (a : Nat) : Nat := 2 ^ wOf t - 1 - a
def execNot (x : LR) (t : ITy) (s : State) : Result := issue (.not x t) (unBody t x (intNot t)) s
def intAndn (t : ITy) (a b : Nat) : Nat := a &&& intNot t b
def execAndn (x : LR) (t : ITy) (s : State) : Result := issue (.andn x t) (binBody t (intTy t) x (intAndn t)) s
def execAndnLi (x : LI) (t : ITy) (s : State) : Result := issue (.andnLi x t) (liBody t x (intAndn t)) s
/-- The count of a shift is 32 bits, also in LI (R105). -/
def liCountBody (t : ITy) (x : LI) (f : Nat → Nat → Nat) : Issue → Eff := liBody t x fun a b => f a (b % 2 ^ 32)
def execShl (x : LR) (t : ITy) (s : State) : Result := issue (.shl x t) (binBody t (.int 1) x (intShl t)) s
def execShlLi (x : LI) (t : ITy) (s : State) : Result := issue (.shlLi x t) (liCountBody t x (intShl t)) s
def execShlShort (x : SH) (s : State) : Result := issue (.shlShort x) (shBody x (intShl .i32)) s
def execShr (x : LR) (t : ITy) (s : State) : Result := issue (.shr x t) (binBody t (.int 1) x (intShr t)) s
def execShrLi (x : LI) (t : ITy) (s : State) : Result := issue (.shrLi x t) (liCountBody t x (intShr t)) s
def execShrShort (x : SH) (s : State) : Result := issue (.shrShort x) (shBody x (intShr .i32)) s
def execSra (x : LR) (t : ITy) (s : State) : Result := issue (.sra x t) (binBody t (.int 1) x (intSra t)) s
def execSraLi (x : LI) (t : ITy) (s : State) : Result := issue (.sraLi x t) (liCountBody t x (intSra t)) s
def execSraShort (x : SH) (s : State) : Result := issue (.sraShort x) (shBody x (intSra .i32)) s
def execShf (x : LR) (t : ITy) (right : Bool) (s : State) : Result :=
  issue (.shf x t right) (terBody t (.int 1) x (intShf t right)) s
def execBfe (x : LR) (t : ITy) (s : State) : Result := issue (.bfe x t) (binBody t (.int 1) x (intBfe t)) s
def execBfi (x : LR) (t : ITy) (s : State) : Result := issue (.bfi x t) (terBody t (.int 1) x (intBfi t)) s
def execPopc (x : LR) (t : ITy) (s : State) : Result := issue (.popc x t) (unBody t x (intPopc t)) s
def execClz (x : LR) (t : ITy) (s : State) : Result := issue (.clz x t) (unBody t x (intClz t)) s
def execCtz (x : LR) (t : ITy) (s : State) : Result := issue (.ctz x t) (unBody t x (intCtz t)) s
def execBrev (x : LR) (t : ITy) (s : State) : Result := issue (.brev x t) (unBody t x (intBrev t)) s
/-- lut3 names no type: a result in an s register is zero-extended (R41). -/
def execLut3 (x : LR) (table : BitVec 8) (s : State) : Result :=
  issue (.lut3 x table) (terBody .n32 (.int 1) x (lut3Of table)) s

/-! ### Compare, select and predicates (R111, R113, R114) -/

/-- The first predicate of a predicate destination. -/
def predOf : Sel → Nat
  | .p k => k.val
  | _ => 0

def boolElem (b : Bool) : ElemRes := .ok (if b then 1 else 0, 0)

def execIcmp (x : LR) (t : ITy) (cc : Cc) (s : State) : Result :=
  issue (.icmp x t cc) (fun i => predEff i x.extent (predOf x.d) fun l k =>
    match read2 i.w x.extent l k (intTy t) (intTy t) x.a x.b with
    | .ok (a, b) => boolElem (ccHolds t cc a.toNat b.toNat)
    | .error e => .error e) s

/-- sel names a width only: a 32-bit result in an s register is zero-extended (R96, R41). -/
def execSel (x : LR) (w64 : Bool) (s : State) : Result :=
  issue (.sel x w64) (fun i =>
    let n := if w64 then 2 else 1
    elemEff i x.extent n false false x.d fun l k =>
      match read3 i.w x.extent l k (.int n) (.int n) (.int 1) x.a x.b x.c with
      | .ok (a, b, c) => .ok (if c != 0 then a else b, 0)
      | .error e => .error e) s

/-- One predicate from the truth of two sources, or of one (R114). -/
def predBody (x : LR) (f : Bool → Bool → Bool) (i : Issue) : Eff :=
  predEff i (.dense 1 1) (predOf x.d) fun l k =>
    match read2 i.w (.dense 1 1) l k (.int 1) (.int 1) x.a x.b with
    | .ok (a, b) => boolElem (f (a != 0) (b != 0))
    | .error e => .error e
def execPand (x : LR) (s : State) : Result := issue (.pand x) (predBody x (· && ·)) s
def execPor (x : LR) (s : State) : Result := issue (.por x) (predBody x (· || ·)) s
def execPxor (x : LR) (s : State) : Result := issue (.pxor x) (predBody x (· != ·)) s
def execPnot (x : LR) (s : State) : Result := issue (.pnot x) (predBody x fun a _ => !a) s
def execPmov (x : LR) (s : State) : Result := issue (.pmov x) (predBody x fun a _ => a) s

end Sys2Proof.Machine
end

