-- ==== Sys2Proof/Machine/Lane.lean ====
section
/-!
DEFINITION. Lane crossing: the fixed trees and scans of 03 R81-R84, shuffles, votes and lane.first (04 R115-R119).
The executing set X of R115 is the set of lanes that act.
-/
namespace Sys2Proof.Machine

/-! ### Combining and identities (R82, R83) -/

/-- One combination of two values of a type (R82): A the lower lane, B the upper. -/
def combineInt (t : ITy) (op : RedOp) (a b : Nat) : Nat :=
  match op with
  | .add => (a + b) % 2 ^ wOf t
  | .min => intMin t a b
  | .max => intMax t a b
  | .and => a &&& b
  | .or => a ||| b
  | .xor => a ^^^ b

def combineFp (f : Fmt) (rm : Mode) (op : RedOp) (a b : Nat) : Res :=
  match op with
  | .min => f.minmaxNum false a b
  | .max => f.minmaxNum true a b
  | _ => f.add rm a b

/-- A floating-point combination, of both halves for packed types (R67, R117). -/
def combineTy (t : RedTy) (rm : Mode) (op : RedOp) (a b : Nat) : Res :=
  match t with
  | .int t => ⟨combineInt t op a b, 0⟩
  | .fp t =>
    if t.packed then
      let lo := combineFp t.fmt rm op (a % 65536) (b % 65536)
      let hi := combineFp t.fmt rm op (a / 65536 % 65536) (b / 65536 % 65536)
      ⟨hi.bits * 65536 + lo.bits, lo.flags ||| hi.flags⟩
    else combineFp t.fmt rm op a b

/-- What a lane that does not execute contributes (R83). -/
def identityOf (t : RedTy) (op : RedOp) : Nat :=
  match t with
  | .int t =>
    match op with
    | .add | .or | .xor => 0
    | .and => 2 ^ wOf t - 1
    | .min => maxOf t.signed (wOf t)
    | .max => minOf t.signed (wOf t)
  | .fp t =>
    let x := match op with
      | .min | .max => t.fmt.defaultNan
      | _ => t.fmt.signBit true
    if t.packed then x * 65536 + x else x

/-! ### The tree and the scan (R82, R84) -/

/-- One level of the tree: neighbours combined, flags collected. -/
def treeLevel (c : Nat → Nat → Res) : List Nat → List Nat × Flags
  | a :: b :: t =>
    let r := c a b
    let (xs, fl) := treeLevel c t
    (r.bits :: xs, r.flags ||| fl)
  | xs => (xs, 0)

/-- The pairwise tree over lane index, in n levels (R82). -/
def treeOf (c : Nat → Nat → Res) : Nat → List Nat → Res
  | 0, xs => ⟨xs.headD 0, 0⟩
  | n + 1, xs =>
    let (ys, fl) := treeLevel c xs
    let r := treeOf c n ys
    ⟨r.bits, r.flags ||| fl⟩

/-- One level of the scan: lane L takes combine(lane L - d, lane L) (R84). -/
def scanLevel (c : Nat → Nat → Res) (d : Nat) (xs : List Nat) : List Nat × Flags :=
  let rs := (List.range xs.length).map fun l =>
    if d ≤ l then c (xs.getD (l - d) 0) (xs.getD l 0) else ⟨xs.getD l 0, 0⟩
  (rs.map (·.bits), rs.foldl (fun fl r => fl ||| r.flags) 0)

/-- The inclusive scan in the Hillis-Steele order (R84). -/
def scanOf (c : Nat → Nat → Res) (xs : List Nat) : List Nat × Flags :=
  [1, 2, 4, 8, 16].foldl (fun acc d =>
    let (ys, fl) := scanLevel c d acc.1
    (ys, acc.2 ||| fl)) (xs, 0)

/-! ### Bodies -/

def redOpTy : RedTy → OpTy
  | .int t => .int t.regs
  | .fp t => .fp t

/-- The bits of a register that an operand's value occupies; those above are ignored (R64, R120). -/
def OpTy.cut (t : OpTy) (x : Nat) : Nat :=
  match t with
  | .fp f => if f.packed then x % 2 ^ 32 else x % 2 ^ f.fmt.width
  | _ => x

/-- Element k of every lane, the identity for a lane outside X (R82, R115); or the trap when an operand cannot be read. -/
def gather (i : Issue) (e : Ext) (k : Nat) (t : OpTy) (a : Sel) (idle : Nat) : Except (BitVec 16) (List Nat) :=
  laneIds.foldr (fun l acc => match acc with
    | .error d => .error d
    | .ok xs =>
      if i.grd.contains l then
        match readSrc i.w e l k t a with
        | .ok x => .ok (t.cut x.toNat :: xs)
        | .error d => .error d
      else .ok (idle :: xs)) (.ok [])

/-- A 32-bit sum in an s register extends its sign for .i32 only (R41). -/
def redSx : RedTy → Bool
  | .int t => sxOf t
  | .fp _ => false

def execWred (x : LR) (op : RedOp) (t : RedTy) (s : State) : Result :=
  issue (.wred x op t) (fun i =>
    elemEff i x.extent t.regs (redSx t) false x.d fun _ k =>
      match gather i x.extent k (redOpTy t) x.a (identityOf t op) with
      | .error d => .error (0x02, d)
      | .ok xs =>
        let r := treeOf (combineTy t (modeOfFpcr i.w.fpcr) op) 5 xs
        fpElem i.w.fpcr (BitVec.ofNat 64 r.bits) r.flags) s

/-- wscan (R117); an s destination takes the value of the lowest acting lane (log entry 16). -/
def execWscan (x : LR) (op : RedOp) (t : RedTy) (excl : Bool) (s : State) : Result :=
  issue (.wscan x op t excl) (fun i =>
    elemEff i x.extent t.regs (redSx t) false x.d fun l k =>
      match gather i x.extent k (redOpTy t) x.a (identityOf t op) with
      | .error d => .error (0x02, d)
      | .ok xs =>
        let (ys, fl) := scanOf (combineTy t (modeOfFpcr i.w.fpcr) op) xs
        let v := if excl then (if l = 0 then identityOf t op else ys.getD (l - 1) 0) else ys.getD l 0
        fpElem i.w.fpcr (BitVec.ofNat 64 v) fl) s

/-- The segment size of shfl (R116). -/
def segOf (seg : BitVec 2) : Nat := match seg.toNat with
  | 0 => 32 | 1 => 16 | 2 => 8 | _ => 4

/-- The lane that shfl reads for a lane, when it lies in its segment (R116). -/
def shflFrom (mode : ShMode) (g l k : Nat) : Option Nat :=
  let base := l - l % g
  let r := l % g
  match mode with
  | .idx => some (base + k % g)
  | .up => if k ≤ r then some (base + (r - k)) else none
  | .down => if r + k < g then some (base + (r + k)) else none
  | .xor => some (base + (r ^^^ (k % g)))

def execShfl (x : LR) (mode : ShMode) (w64 : Bool) (seg : BitVec 2) (s : State) : Result :=
  issue (.shfl x mode w64 seg) (fun i =>
    let n := if w64 then 2 else 1
    elemEff i x.extent n false false x.d fun l k =>
      match read3 i.w x.extent l k (.int n) (.int 1) (.int n) x.a x.b x.c with
      | .error e => .error e
      | .ok (_, b, c) =>
        match shflFrom mode (segOf seg) l b.toNat with
        | some m =>
          if i.grd.contains m then
            match readSrc i.w x.extent m k (.int n) x.a with
            | .ok a => .ok (a, 0)
            | .error d => .error (0x02, d)
          else .ok (c, 0)
        | none => .ok (c, 0)) s

/-- The lanes of X whose element k is not zero (R118). -/
def voters (i : Issue) (e : Ext) (k : Nat) (a : Sel) : Except (BitVec 16) (List Nat) :=
  i.grd.foldr (fun l acc => match acc, readSrc i.w e l k (.int 1) a with
    | .ok xs, .ok x => .ok (if x != 0 then l :: xs else xs)
    | .error d, _ => .error d
    | _, .error d => .error d) (.ok [])

def voteBody (x : LR) (f : Issue → List Nat → Bool) (i : Issue) : Eff :=
  predEff i x.extent (predOf x.d) fun _ k =>
    match voters i x.extent k x.a with
    | .ok xs => boolElem (f i xs)
    | .error d => .error (0x02, d)
def execVoteAny (x : LR) (s : State) : Result := issue (.voteAny x) (voteBody x fun _ xs => !xs.isEmpty) s
def execVoteAll (x : LR) (s : State) : Result :=
  issue (.voteAll x) (voteBody x fun i xs => xs.length = i.grd.length) s
def execBallot (x : LR) (cnt : Bool) (s : State) : Result :=
  issue (.ballot x cnt) (fun i => elemEff i x.extent 1 false false x.d fun _ k =>
    match voters i x.extent k x.a with
    | .ok xs => ok1 (if cnt then xs.length else xs.foldl (fun m l => m + 2 ^ l) 0)
    | .error d => .error (0x02, d)) s
def execLaneFirst (x : LR) (s : State) : Result :=
  issue (.laneFirst x) (fun i => elemEff i x.extent 1 false false x.d fun _ k =>
    match readSrc i.w x.extent (onceLane i.grd) k (.int 1) x.a with
    | .ok a => .ok (a, 0)
    | .error d => .error (0x02, d)) s

end Sys2Proof.Machine
end

