-- ==== Sys2Proof/Machine/Float.lean ====
section
/-!
DEFINITION. Floating-point instructions of chapter 05 (R124, R125, R128-R134) and fcmp (04 R112).  A packed type runs
each half as a value of its own (R67); a NaN result, the flags and the rounding come from `Num` (03).
-/
namespace Sys2Proof.Machine

/-! ### Operations on one value -/

/-- The integer square root of n, from bit k - 1 down, above the root so far. -/
def isqrtFrom (n : Nat) : Nat → Nat → Nat
  | 0, r => r
  | k + 1, r => if (r + 2 ^ k) * (r + 2 ^ k) ≤ n then isqrtFrom n k (r + 2 ^ k) else isqrtFrom n k r
/-- The integer square root. -/
def isqrt (n : Nat) : Nat := isqrtFrom n (Nat.log2 n / 2 + 1) 0

/-- round(exact(a / b)) (R125). -/
def Fmt.div (f : Fmt) (rm : Mode) (a b : Nat) : Res :=
  match f.nanOf [a, b] with
  | some r => r
  | none =>
    let va := f.unpack a
    let vb := f.unpack b
    let neg := va.neg != vb.neg
    match va, vb with
    | .inf _, .inf _ => f.invalid
    | .inf _, _ => ⟨f.signBit neg + f.infBits, 0⟩
    | _, .inf _ => ⟨f.signBit neg, 0⟩
    | _, _ =>
      if vb.isZero then (if va.isZero then f.invalid else ⟨f.signBit neg + f.infBits, flDZ⟩)
      else if va.isZero then ⟨f.signBit neg, 0⟩
      else
        let x := va.dyad
        let y := vb.dyad
        let e := x.e - y.e
        f.roundTo rm neg (if 0 ≤ e then x.m.natAbs * 2 ^ e.toNat else x.m.natAbs)
          (if 0 ≤ e then y.m.natAbs else y.m.natAbs * 2 ^ (-e).toNat)

/-- √(m x 2^e) of a nonzero m as a value with at least p bits and a last bit that marks an inexact root. -/
def rootDyad (m : Nat) (e : Int) (p : Nat) : Dyad :=
  let k := 2 * p + (if e % 2 = 0 then 0 else 1)
  let n := m * 2 ^ k
  let r := isqrt n
  ⟨2 * r + (if r * r = n then 0 else 1), (e - k) / 2 - 1⟩

/-- round(exact(√a)) (R125). -/
def Fmt.sqrt (f : Fmt) (rm : Mode) (a : Nat) : Res :=
  match f.nanOf [a] with
  | some r => r
  | none =>
    match f.unpack a with
    | .fin neg m e =>
      if m = 0 then ⟨f.signBit neg, 0⟩ else if neg then f.invalid else f.roundDyad rm (rootDyad m e (f.fbits + 3)) false
    | .inf true => f.invalid
    | _ => ⟨f.infBits, 0⟩

/-- minimum and maximum (R128): a NaN wins. -/
def Fmt.minmaxNan (f : Fmt) (max : Bool) (a b : Nat) : Res :=
  match f.nanOf [a, b] with
  | some r => r
  | none => f.minmaxNum max a b

/-- Only the sign bit changes (R129). -/
def Fmt.withSign (f : Fmt) (a : Nat) (neg : Bool) : Nat := f.signBit neg + a % 2 ^ (f.width - 1)
def Fmt.signOf (f : Fmt) (a : Nat) : Bool := a / 2 ^ (f.width - 1) % 2 = 1

/-- frint (R130): the integral value in the mode, IX on request. -/
def Fmt.rint (f : Fmt) (rm : Mode) (ix : Bool) (a : Nat) : Res :=
  match f.nanOf [a] with
  | some r => r
  | none =>
    match f.unpack a with
    | .fin neg m e =>
      if m = 0 then ⟨a % 2 ^ f.width, 0⟩
      else if 0 ≤ e then ⟨a % 2 ^ f.width, 0⟩
      else
        let (v, inexact) := roundUnits m (2 ^ (-e).toNat) 0 rm neg
        let r := f.roundDyad .rne (.ofFin neg v 0) neg
        ⟨r.bits, if ix && inexact then flIX else 0⟩
    | _ => ⟨a % 2 ^ f.width, 0⟩

/-- floor(log2 |x|) of a nonzero finite value. -/
def expOf (m : Nat) (e : Int) : Int := (Nat.log2 m : Int) + e

/-- fgetexp (R131); the exponent 0 is +0 (log entry 71). -/
def Fmt.getexp (f : Fmt) (a : Nat) : Res :=
  match f.nanOf [a] with
  | some r => r
  | none =>
    match f.unpack a with
    | .fin _ m e => if m = 0 then ⟨f.signBit true + f.infBits, flDZ⟩ else ⟨(f.roundDyad .rne ⟨expOf m e, 0⟩ false).bits, 0⟩
    | _ => ⟨f.infBits, 0⟩

/-- fgetman (R131). -/
def Fmt.getman (f : Fmt) (a : Nat) : Res :=
  match f.nanOf [a] with
  | some r => r
  | none =>
    match f.unpack a with
    | .fin neg m _ =>
      if m = 0 then ⟨a % 2 ^ f.width, 0⟩ else ⟨(f.roundDyad .rne (.ofFin neg m (-(Nat.log2 m : Int))) neg).bits, 0⟩
    | _ => ⟨a % 2 ^ f.width, 0⟩

/-- fscale (R131).  A count beyond 8192 in magnitude gives what 8192 gives. -/
def Fmt.scale (f : Fmt) (rm : Mode) (a : Nat) (n : Int) : Res :=
  match f.nanOf [a] with
  | some r => r
  | none =>
    match f.unpack a with
    | .fin neg m e =>
      if m = 0 then ⟨a % 2 ^ f.width, 0⟩
      else f.roundDyad rm (.ofFin neg m (e + max (-8192) (min 8192 n))) neg
    | _ => ⟨a % 2 ^ f.width, 0⟩

/-- The class bit of a value (R132). -/
def Fmt.classBit (f : Fmt) (a : Nat) : Nat :=
  match f.unpack a with
  | .nan _ quiet _ => if quiet then 1 else 0
  | .inf neg => if neg then 2 else 9
  | .fin neg m _ =>
    if m = 0 then (if neg then 5 else 6)
    else if m < 2 ^ f.fbits then (if neg then 4 else 7)
    else if neg then 3 else 8

/-- A NaN of one format in another (R136): the fraction's most significant bits, made quiet; IV for a signalling one,
and for any NaN into a format without NaNs. -/
def widenNan (src dst : Fmt) (x : Nat) : Res :=
  match src.unpack x with
  | .nan neg quiet frac =>
    if !dst.nan then ⟨0, flIV⟩
    else if !dst.inf then ⟨dst.signBit neg + (2 ^ (dst.width - 1) - 1), if quiet then 0 else flIV⟩
    else
      let fr := if src.fbits ≤ dst.fbits then frac * 2 ^ (dst.fbits - src.fbits) else frac / 2 ^ (src.fbits - dst.fbits)
      ⟨dst.signBit neg + dst.infBits + (fr ||| 2 ^ (dst.fbits - 1)), if quiet then 0 else flIV⟩
  | _ => ⟨0, 0⟩

/-- The first NaN of a list of values of formats, quieted and widened to dst; IV if any is signalling. -/
def nanAmong (dst : Fmt) (xs : List (Fmt × Nat)) : Option Res :=
  match xs.find? fun p => (p.1.unpack p.2).isNan with
  | none => none
  | some p => some ⟨(widenNan p.1 dst p.2).bits, if xs.any fun q => (q.1.unpack q.2).isSnan then flIV else 0⟩

/-- ffma.mix (R133). -/
def fmaMix (src dst : Fmt) (rm : Mode) (a b c : Nat) : Res :=
  dst.fmaVal rm (src.unpack a) (src.unpack b) (dst.unpack c) (nanAmong dst [(src, a), (src, b), (dst, c)])

/-- The sign of a sum of products and an addend that is exactly zero (R134). -/
def zeroDotSign (rm : Mode) (zs : List (Bool × Bool)) : Bool :=
  if zs.all fun z => z.1 && z.2 then true else if zs.all fun z => z.1 && !z.2 then false else rm = .rdn

/-- fdot2 (R134). -/
def dot2 (src : Fmt) (rm : Mode) (a b c : Nat) : Res :=
  let a0 := a % 65536
  let a1 := a / 65536 % 65536
  let b0 := b % 65536
  let b1 := b / 65536 % 65536
  let va0 := src.unpack a0
  let va1 := src.unpack a1
  let vb0 := src.unpack b0
  let vb1 := src.unpack b1
  let vc := fF32.unpack c
  let zi (x y : Val) : Bool := (x.isInf && y.isZero) || (x.isZero && y.isInf)
  let pinf (x y : Val) : Bool := (x.isInf || y.isInf) && !x.isNan && !y.isNan && !zi x y
  let s0 := va0.neg != vb0.neg
  let s1 := va1.neg != vb1.neg
  let p0 := pinf va0 vb0
  let p1 := pinf va1 vb1
  let bad := zi va0 vb0 || zi va1 vb1 || (p0 && p1 && s0 != s1)
  match nanAmong fF32 [(src, a0), (src, a1), (src, b0), (src, b1), (fF32, c)] with
  | some r => if bad then { r with flags := r.flags ||| flIV } else r
  | none =>
    let signs := (if p0 then [s0] else []) ++ (if p1 then [s1] else []) ++ (if vc.isInf then [vc.neg] else [])
    if bad || (signs.contains true && signs.contains false) then fF32.invalid
    else match signs with
      | n :: _ => ⟨fF32.signBit n + fF32.infBits, 0⟩
      | [] =>
        let x0 := va0.dyad.mul vb0.dyad
        let x1 := va1.dyad.mul vb1.dyad
        fF32.roundDyad rm ((x0.add x1).add vc.dyad)
          (zeroDotSign rm [(x0.m = 0, s0), (x1.m = 0, s1), (vc.isZero, vc.neg)])

/-- fcmp (R112). -/
def fccHolds (f : Fmt) (cc : FCc) (u sig : Bool) (a b : Nat) : Bool × Flags :=
  let va := f.unpack a
  let vb := f.unpack b
  let un := va.isNan || vb.isNan
  let fl : Flags := if va.isSnan || vb.isSnan || (sig && un) then flIV else 0
  let lt := va.lt vb
  let gt := vb.lt va
  (match cc with
    | .ord => !un
    | .uno => un
    | .eq => if un then u else !lt && !gt
    | .ne => if un then u else lt || gt
    | .lt => if un then u else lt
    | .le => if un then u else !gt
    | .gt => if un then u else gt
    | .ge => if un then u else !lt, fl)

/-! ### Bodies -/

/-- Run an operation on the value, or on each half of a packed value (R67). -/
def halves (t : FTy) (f : List Nat → Res) (xs : List Nat) : Res :=
  if t.packed then
    let lo := f (xs.map (· % 65536))
    let hi := f (xs.map (· / 65536 % 65536))
    ⟨hi.bits * 65536 + lo.bits, lo.flags ||| hi.flags⟩
  else f (xs.map (· % 2 ^ t.fmt.width))

def resElem (fpcr : Word) (r : Res) : ElemRes := fpElem fpcr (BitVec.ofNat 64 r.bits) r.flags

/-- D := f(A). -/
def fUnBody (t : FTy) (land : Bool) (x : LR) (f : Word → List Nat → Res) (i : Issue) : Eff :=
  elemEff i x.extent t.regs false land x.d fun l k =>
    match readSrc i.w x.extent l k (.fp t) x.a with
    | .ok a => resElem i.w.fpcr (halves t (f i.w.fpcr) [a.toNat])
    | .error d => .error (0x02, d)

/-- D := f(A, B). -/
def fBinBody (t : FTy) (land : Bool) (x : LR) (f : Word → List Nat → Res) (i : Issue) : Eff :=
  elemEff i x.extent t.regs false land x.d fun l k =>
    match read2 i.w x.extent l k (.fp t) (.fp t) x.a x.b with
    | .ok (a, b) => resElem i.w.fpcr (halves t (f i.w.fpcr) [a.toNat, b.toNat])
    | .error e => .error e

/-- D := f(A, B, C). -/
def fTerBody (t : FTy) (x : LR) (f : Word → List Nat → Res) (i : Issue) : Eff :=
  elemEff i x.extent t.regs false false x.d fun l k =>
    match read3 i.w x.extent l k (.fp t) (.fp t) (.fp t) x.a x.b x.c with
    | .ok (a, b, c) => resElem i.w.fpcr (halves t (f i.w.fpcr) [a.toNat, b.toNat, c.toNat])
    | .error e => .error e

/-- The f32 short form, which rounds by fpcr.RM: D = A = DA (R38). -/
def fShBody (x : SH) (f : Word → List Nat → Res) (i : Issue) : Eff :=
  elemEff i x.extent 1 false false (.v x.da) fun l k =>
    match read2 i.w x.extent l k (.fp .f32) (.fp .f32) (.v x.da) x.b with
    | .ok (a, b) => resElem i.w.fpcr (halves .f32 (f i.w.fpcr) [a.toNat, b.toNat])
    | .error e => .error e

/-- Operations of one, two and three operands as functions of a list. -/
def on1 (g : Nat → Res) (xs : List Nat) : Res := g (xs.getD 0 0)
def on2 (g : Nat → Nat → Res) (xs : List Nat) : Res := g (xs.getD 0 0) (xs.getD 1 0)
def on3 (g : Nat → Nat → Nat → Res) (xs : List Nat) : Res := g (xs.getD 0 0) (xs.getD 1 0) (xs.getD 2 0)

/-! ### Arithmetic (R124, R125) -/

def execFadd (x : LR) (t : FTy) (rm : Rm) (s : State) : Result :=
  issue (.fadd x t rm) (fBinBody t false x fun c => on2 (t.fmt.add (rm.mode c))) s
def execFaddShort (x : SH) (s : State) : Result :=
  issue (.faddShort x) (fShBody x fun c => on2 (fF32.add (modeOfFpcr c))) s
def execFsub (x : LR) (t : FTy) (rm : Rm) (s : State) : Result :=
  issue (.fsub x t rm) (fBinBody t false x fun c => on2 (t.fmt.sub (rm.mode c))) s
def execFsubShort (x : SH) (s : State) : Result :=
  issue (.fsubShort x) (fShBody x fun c => on2 (fF32.sub (modeOfFpcr c))) s
def execFmul (x : LR) (t : FTy) (rm : Rm) (s : State) : Result :=
  issue (.fmul x t rm) (fBinBody t false x fun c => on2 (t.fmt.mul (rm.mode c))) s
def execFmulShort (x : SH) (s : State) : Result :=
  issue (.fmulShort x) (fShBody x fun c => on2 (fF32.mul (modeOfFpcr c))) s
def execFfma (x : LR) (t : FTy) (rm : Rm) (s : State) : Result :=
  issue (.ffma x t rm) (fTerBody t x fun c => on3 (t.fmt.fma (rm.mode c))) s
def execFdiv (x : LR) (t : FTy) (rm : Rm) (s : State) : Result :=
  issue (.fdiv x t rm) (fBinBody t true x fun c => on2 (t.fmt.div (rm.mode c))) s
def execFsqrt (x : LR) (t : FTy) (rm : Rm) (s : State) : Result :=
  issue (.fsqrt x t rm) (fUnBody t true x fun c => on1 (t.fmt.sqrt (rm.mode c))) s

/-! ### Minimum, maximum and sign (R128, R129) -/

def execFmin (x : LR) (t : FTy) (s : State) : Result :=
  issue (.fmin x t) (fBinBody t false x fun _ => on2 (t.fmt.minmaxNum false)) s
def execFminShort (x : SH) (s : State) : Result :=
  issue (.fminShort x) (fShBody x fun _ => on2 (fF32.minmaxNum false)) s
def execFmax (x : LR) (t : FTy) (s : State) : Result :=
  issue (.fmax x t) (fBinBody t false x fun _ => on2 (t.fmt.minmaxNum true)) s
def execFmaxShort (x : SH) (s : State) : Result :=
  issue (.fmaxShort x) (fShBody x fun _ => on2 (fF32.minmaxNum true)) s
def execFminx (x : LR) (t : FTy) (s : State) : Result :=
  issue (.fminx x t) (fBinBody t false x fun _ => on2 (t.fmt.minmaxNan false)) s
def execFmaxx (x : LR) (t : FTy) (s : State) : Result :=
  issue (.fmaxx x t) (fBinBody t false x fun _ => on2 (t.fmt.minmaxNan true)) s
def execFabs (x : LR) (t : FTy) (s : State) : Result :=
  issue (.fabs x t) (fUnBody t false x fun _ => on1 fun a => ⟨t.fmt.withSign a false, 0⟩) s
def execFneg (x : LR) (t : FTy) (s : State) : Result :=
  issue (.fneg x t) (fUnBody t false x fun _ => on1 fun a => ⟨t.fmt.withSign a (!t.fmt.signOf a), 0⟩) s
def execFcopysign (x : LR) (t : FTy) (s : State) : Result :=
  issue (.fcopysign x t) (fBinBody t false x fun _ => on2 fun a b => ⟨t.fmt.withSign a (t.fmt.signOf b), 0⟩) s

/-! ### Integral parts, exponents and classes (R130-R132) -/

def execFrint (x : LR) (t : FTy) (rm : Rm) (ix : Bool) (s : State) : Result :=
  issue (.frint x t rm ix) (fUnBody t false x fun c => on1 (t.fmt.rint (rm.mode c) ix)) s
def execFgetexp (x : LR) (t : FTy) (s : State) : Result :=
  issue (.fgetexp x t) (fUnBody t false x fun _ => on1 t.fmt.getexp) s
def execFgetman (x : LR) (t : FTy) (s : State) : Result :=
  issue (.fgetman x t) (fUnBody t false x fun _ => on1 t.fmt.getman) s
/-- B is one 32-bit signed integer for both halves (R131). -/
def execFscale (x : LR) (t : FTy) (rm : Rm) (s : State) : Result :=
  issue (.fscale x t rm) (fun i => elemEff i x.extent t.regs false false x.d fun l k =>
    match read2 i.w x.extent l k (.fp t) (.int 1) x.a x.b with
    | .ok (a, b) =>
      resElem i.w.fpcr (halves t (on1 fun v => t.fmt.scale (rm.mode i.w.fpcr) v (b.setWidth 32).toInt) [a.toNat])
    | .error e => .error e) s
/-- The mask is one 32-bit register; packed types place half 1 from bit 16 on (R132). -/
def execFclass (x : LR) (t : FTy) (s : State) : Result :=
  issue (.fclass x t) (fun i => elemEff i x.extent 1 false false x.d fun l k =>
    match readSrc i.w x.extent l k (.fp t) x.a with
    | .ok a => resElem 0 (halves t (on1 fun v => ⟨2 ^ t.fmt.classBit v, 0⟩) [a.toNat])
    | .error d => .error (0x02, d)) s

/-! ### Mixed precision (R133, R134) -/

/-- The type of C and D of ffma.mix (R133). -/
def mixDst : FTy → FTy
  | .f32 => .f64
  | _ => .f32

def execFfmaMix (x : LR) (t : FTy) (rm : Rm) (s : State) : Result :=
  issue (.ffmaMix x t rm) (fun i => elemEff i x.extent (mixDst t).regs false false x.d fun l k =>
    match read3 i.w x.extent l k (.fp t) (.fp t) (.fp (mixDst t)) x.a x.b x.c with
    | .ok (a, b, c) => resElem i.w.fpcr (fmaMix t.fmt (mixDst t).fmt (rm.mode i.w.fpcr)
        (a.toNat % 2 ^ t.fmt.width) (b.toNat % 2 ^ t.fmt.width) c.toNat)
    | .error e => .error e) s

def execFdot2 (x : LR) (t : FTy) (rm : Rm) (s : State) : Result :=
  issue (.fdot2 x t rm) (fun i => elemEff i x.extent 1 false false x.d fun l k =>
    match read3 i.w x.extent l k (.fp t) (.fp t) (.fp .f32) x.a x.b x.c with
    | .ok (a, b, c) => resElem i.w.fpcr (dot2 t.fmt (rm.mode i.w.fpcr) a.toNat b.toNat c.toNat)
    | .error e => .error e) s

/-! ### fcmp (R112) -/

def execFcmp (x : LR) (t : FTy) (cc : FCc) (u sig : Bool) (s : State) : Result :=
  issue (.fcmp x t cc u sig) (fun i => predEff i x.extent (predOf x.d) fun l k =>
    match read2 i.w x.extent l k (.fp t) (.fp t) x.a x.b with
    | .ok (a, b) =>
      let (v, fl) := fccHolds t.fmt cc u sig (a.toNat % 2 ^ t.fmt.width) (b.toNat % 2 ^ t.fmt.width)
      fpElem i.w.fpcr (if v then 1 else 0) fl
    | .error e => .error e) s

end Sys2Proof.Machine
end

