-- ==== Sys2Proof/Machine/Approx.lean ====
section
/-!
DEFINITION. The approximate functions (05 R126, R127).  Each result is the exact value of f(x) rounded as R126 says.
The reciprocals are rounded from the exact quotient or root; the transcendental functions are computed in fixed point of
704 fraction bits with an error below 2^-480 of the value, and rounded from there (log entry 12).
-/
namespace Sys2Proof.Machine

/-! ### Fixed-point values of 704 fraction bits -/

def fxBits : Nat := 704
def fxOne : Nat := 2 ^ fxBits
def fxMul (a b : Int) : Int := a * b / 2 ^ fxBits

/-- z + z^3/3 + z^5/5 + ..., n terms, or with alternating signs: the inverse hyperbolic or circular tangent; `p` is the
power reached and `k` its exponent. -/
def atanSum (alt : Bool) (z2 : Int) : Nat → Int → Int → Int
  | 0, _, _ => 0
  | n + 1, p, k => p / k + atanSum alt z2 n (if alt then -fxMul p z2 else fxMul p z2) (k + 2)

/-- The natural logarithm of 2: twice the inverse hyperbolic tangent of 1/3. -/
def fxLn2 : Int := 2 * atanSum false (fxOne / 9) 230 (fxOne / 3) 1

/-- π by Machin's formula. -/
def fxPi : Int :=
  16 * atanSum true (fxOne / 25) 160 (fxOne / 5) 1 - 4 * atanSum true (fxOne / 57121) 60 (fxOne / 239) 1

/-- 1 + z/(k) (1 + z/(k+1) (...)): n terms of the exponential series. -/
def expSum (z : Int) : Nat → Int → Int
  | 0, _ => fxOne
  | n + 1, k => fxOne + fxMul z (expSum z n (k + 1)) / k

/-- 1 - w/(k (k+1)) (1 - w/((k+2)(k+3)) (...)): the sine series from k = 2, the cosine series from k = 1. -/
def trigSum (w : Int) : Nat → Int → Int
  | 0, _ => fxOne
  | n + 1, k => fxOne - fxMul w (trigSum w n (k + 2)) / (k * (k + 1))

/-- m x 2^e in fixed point; exact for e at least -704. -/
def fxOf (m : Nat) (e : Int) : Nat :=
  let q := e + fxBits
  if 0 ≤ q then m * 2 ^ q.toNat else m / 2 ^ (-q).toNat

/-! ### f(x) for a finite operand outside R127, as a sign and a value n / d -/

structure Exact where
  neg : Bool
  n   : Nat
  d   : Nat
  deriving DecidableEq, Repr

def ofFx (x : Int) : Exact := ⟨x < 0, x.natAbs, fxOne⟩

def exactRcp (neg : Bool) (m : Nat) (e : Int) : Exact :=
  if 0 ≤ e then ⟨neg, 1, m * 2 ^ e.toNat⟩ else ⟨neg, 2 ^ (-e).toNat, m⟩

/-- 1/√x: the root of the quotient to 256 bits, with a last bit that marks an inexact root. -/
def exactRsq (m : Nat) (e : Int) : Exact :=
  let k : Int := 1024 - (if e % 2 = 0 then 0 else 1)
  let n := 2 ^ k.toNat
  let r := isqrt (n / m)
  let x : Dyad := ⟨2 * r + (if r * r * m = n then 0 else 1), (-k - e) / 2 - 1⟩
  if 0 ≤ x.e then ⟨false, x.m.natAbs * 2 ^ x.e.toNat, 1⟩ else ⟨false, x.m.natAbs, 2 ^ (-x.e).toNat⟩

/-- 2^x: the integer part is a power of two; beyond 2000 in magnitude the result is what 2000 gives. -/
def exactExp2 (neg : Bool) (m : Nat) (e : Int) : Exact :=
  let a : Int := fxOf m e
  let x := if neg then -a else a
  let k := max (-2000) (min 2000 (x / fxOne))
  let f := x % fxOne
  let y := (expSum (fxMul f fxLn2) 160 1).natAbs
  if 0 ≤ k then ⟨false, y * 2 ^ k.toNat, fxOne⟩ else ⟨false, y, fxOne * 2 ^ (-k).toNat⟩

/-- log2 x = e + ln(m)/ln 2 with m in (2/3, 4/3]. -/
def exactLog2 (m : Nat) (e : Int) : Exact :=
  let k := Nat.log2 m
  let up := 4 * 2 ^ k < 3 * m
  let n : Int := k + e + (if up then 1 else 0)
  let d := if up then 2 * 2 ^ k else 2 ^ k
  let z : Int := ((m : Int) - d) * fxOne / (m + d)
  ofFx (n * fxOne + 2 * atanSum false (fxMul z z) 260 z 1 * fxOne / fxLn2)

/-- The quadrant of |x| and the angle left, in [-π/4, π/4]. -/
def quadrant (m : Nat) (e : Int) : Int × Int :=
  let a : Int := fxOf m e
  let k := (4 * a + fxPi) / (2 * fxPi)
  (k % 4, a - k * fxPi / 2)

def fxSin (z : Int) : Int := fxMul z (trigSum (fxMul z z) 90 2)
def fxCos (z : Int) : Int := trigSum (fxMul z z) 90 1

def exactSin (neg : Bool) (m : Nat) (e : Int) : Exact :=
  let (q, z) := quadrant m e
  let y := if q = 0 then fxSin z else if q = 1 then fxCos z else if q = 2 then -fxSin z else -fxCos z
  ofFx (if neg then -y else y)
def exactCos (m : Nat) (e : Int) : Exact :=
  let (q, z) := quadrant m e
  ofFx (if q = 0 then fxCos z else if q = 1 then -fxSin z else if q = 2 then -fxCos z else fxSin z)

/-! ### Rounding (R126) -/

/-- f32: 22 significant bits at or above 2^-126, else the grid of 2^-149; f16 and bf16: correctly rounded.  The flags keep
overflow only. -/
def approxRound (f : Fmt) (x : Exact) : Res :=
  if x.n = 0 then ⟨f.signBit x.neg, 0⟩
  else if f.width = 32 then
    let e := ilog2 x.n x.d
    if e < -126 then ⟨f.signBit x.neg + (roundUnits x.n x.d (-149) .rne x.neg).1, 0⟩
    else
      let m := (roundUnits x.n x.d (e - 21) .rne x.neg).1
      let r := f.roundDyad .rne (.ofFin x.neg m (e - 21)) x.neg
      ⟨r.bits, r.flags &&& flOF⟩
  else
    let r := f.roundTo .rne x.neg x.n x.d
    ⟨r.bits, r.flags &&& flOF⟩

/-- The six functions. -/
inductive ApproxFn where
  | rcp | rsq | exp2 | log2 | sin | cos
  deriving DecidableEq, Repr

/-- The special operands of R127, and R126 for the others. -/
def approx (fn : ApproxFn) (f : Fmt) (a : Nat) : Res :=
  let zero (neg : Bool) : Res := ⟨f.signBit neg, 0⟩
  let inf (neg : Bool) (fl : Flags) : Res := ⟨f.signBit neg + f.infBits, fl⟩
  let one : Res := ⟨(f.roundTo .rne false 1 1).bits, 0⟩
  match f.nanOf [a] with
  | some r => r
  | none =>
    match f.unpack a, fn with
    | .inf neg, .rcp => zero neg
    | .inf neg, .rsq => if neg then f.invalid else zero false
    | .inf neg, .exp2 => if neg then zero false else inf false 0
    | .inf neg, .log2 => if neg then f.invalid else inf false 0
    | .inf _, .sin | .inf _, .cos => f.invalid
    | .fin neg m e, fn =>
      if m = 0 then
        match fn with
        | .rcp | .rsq => inf neg flDZ
        | .exp2 | .cos => one
        | .log2 => inf true flDZ
        | .sin => zero neg
      else match fn with
        | .rcp => approxRound f (exactRcp neg m e)
        | .rsq => if neg then f.invalid else approxRound f (exactRsq m e)
        | .exp2 => approxRound f (exactExp2 neg m e)
        | .log2 => if neg then f.invalid else approxRound f (exactLog2 m e)
        | .sin => approxRound f (exactSin neg m e)
        | .cos => approxRound f (exactCos m e)
    | .nan .., _ => f.invalid

def approxBody (fn : ApproxFn) (t : FTy) (x : LR) : Issue → Eff := fUnBody t true x fun _ => on1 (approx fn t.fmt)

def execFrcpApprox (x : LR) (t : FTy) (s : State) : Result := issue (.frcpApprox x t) (approxBody .rcp t x) s
def execFrsqApprox (x : LR) (t : FTy) (s : State) : Result := issue (.frsqApprox x t) (approxBody .rsq t x) s
def execFexp2Approx (x : LR) (t : FTy) (s : State) : Result := issue (.fexp2Approx x t) (approxBody .exp2 t x) s
def execFlog2Approx (x : LR) (t : FTy) (s : State) : Result := issue (.flog2Approx x t) (approxBody .log2 t x) s
def execFsinApprox (x : LR) (t : FTy) (s : State) : Result := issue (.fsinApprox x t) (approxBody .sin t x) s
def execFcosApprox (x : LR) (t : FTy) (s : State) : Result := issue (.fcosApprox x t) (approxBody .cos t x) s

end Sys2Proof.Machine
end

