-- ==== Sys2Proof/Machine/Flow.lean ====
section
/-!
DEFINITION. Flows between the sites (11 R287-R289): what the link takes, sequence numbers, and the packets that pass.
-/
namespace Sys2Proof.Machine

/-! ### Flows between the sites (R287-R289) -/

/-- Senders give numbers to new packets: no pause stands, and the link has not failed (R385, R386). -/
def State.numbers (s : State) : Bool := !s.pause && (s.linkState = .active || s.linkState = .training)

/-- A new packet passes at once: it is numbered, and the link carries it (R385-R387). -/
def State.linkOpen (s : State) : Bool := s.numbers && s.linkState = .active

/-- The home of an address can be reached from a site now. -/
def State.reaches (s : State) (site pa : Nat) : Bool := Config.homeSite pa = some site || s.linkOpen

def State.flow (s : State) (f : FlowId) : Flow :=
  match s.flows.find? fun x => x.id = f with
  | some x => x
  | none => { id := f }

def State.setFlow (s : State) (x : Flow) : State :=
  if s.flows.any fun y => y.id = x.id then { s with flows := s.flows.map fun y => if y.id = x.id then x else y }
  else { s with flows := s.flows ++ [x] }

/-- Two 32-bit counts in one register: the ordered class in [63:32] (R384). -/
def bumpCount (r : DWord) (ordered : Bool) : DWord :=
  if ordered then (r.extractLsb' 32 32 + 1) ++ r.extractLsb' 0 32 else r.extractLsb' 32 32 ++ (r.extractLsb' 0 32 + 1)

/-- Give the next number of a flow to a packet (R288). -/
def State.sendPacket (s : State) (f : FlowId) (p : Payload) : State :=
  let x := s.flow f
  (s.setFlow { x with next := x.next + 1, unacked := x.unacked ++ [(x.next, p)], transit := x.transit ++ [x.next] }).updSite (1 - f.dst) fun t =>
    { t with lnkTx := bumpCount t.lnkTx f.ordered }

/-- The expected number passes over what is already applied. -/
def Flow.settle : Nat → Flow → Flow
  | 0, x => x
  | k + 1, x =>
    if x.early.contains x.expected then
      Flow.settle k { x with early := x.early.filter fun n => n != x.expected, expected := x.expected + 1 }
    else x

/-- The destination applies a number. -/
def Flow.mark (x : Flow) (n : BitVec 16) : Flow :=
  Flow.settle (x.early.length + 1)
    { x with early := n :: x.early, held := x.held.filter (fun k => k != n), transit := x.transit.erase n }

/-- The destination has applied a number of the window. -/
def Flow.applied (x : Flow) (n : BitVec 16) : Bool := x.early.contains n || (x.expected - n - 1).toNat < 32768

/-- A numbered packet is applied, once (R289). -/
def State.applyPacket (s : State) (f : FlowId) (n : BitVec 16) : State :=
  (s.setFlow ((s.flow f).mark n)).updSite f.dst fun t => { t with lnkRx := bumpCount t.lnkRx f.ordered }

/-- A packet that the sender numbers and the destination applies and acknowledges in the same step. -/
def State.passPacket (s : State) (f : FlowId) : State :=
  let x := s.flow f
  let s := s.setFlow { x.mark x.next with next := x.next + 1 }
  let s := s.updSite (1 - f.dst) fun t => { t with lnkTx := bumpCount t.lnkTx f.ordered }
  s.updSite f.dst fun t => { t with lnkRx := bumpCount t.lnkRx f.ordered }

/-- The flow of a core's accesses to the other site (R287). -/
def accessFlow (core : Nat) (k : PKind) : FlowId := ⟨core, .core, 1 - core / 96, k != .uo⟩

/-- The flow of a unit that acts for a core: copy-engine transfers are unordered, every other access goes by its page
(R287). -/
def unitFlow (core : Nat) (u : FlowUnit) (k : PKind) : FlowId :=
  match u with
  | .core => accessFlow core k
  | .copy => ⟨core / 8, .copy, 1 - core / 96, false⟩
  | .scheduler => ⟨core / 96, .scheduler, 1 - core / 96, true⟩
  | u => ⟨core / 8, u, 1 - core / 96, k != .uo⟩

/-- The flow of a unit of a site: its walker, its Light meter, its scanout, or its scheduler, in which the system controller's
accesses travel too (log entry 87). -/
def siteFlow (site : Nat) (u : FlowUnit) : FlowId := ⟨site, u, 1 - site, true⟩

/-- A request of a site's unit to the other site and its response, while the link carries them (R287). -/
def State.siteTrip (s : State) (site : Nat) (u : FlowUnit) : State :=
  if s.linkOpen then (s.passPacket (siteFlow site u)).passPacket { siteFlow site u with dst := site } else s

/-- An access of a site's unit to an address: a request and a response where its home is on the other site (R287). -/
def State.unitTrip (s : State) (u : FlowUnit) (site pa : Nat) : State :=
  if Config.homeSite pa = some (1 - site) then s.siteTrip site u else s

end Sys2Proof.Machine
end

