-- ==== Sys2Proof/Machine/Translate.lean ====
section
/-!
DEFINITION. Bytes at their home, the table walk, the TLBs, the accessed and dirty bits and invalidation
(12 R292-R301, R309), and who may read an access (R417).
-/
namespace Sys2Proof.Machine

/-! ### Bytes at the home -/

def State.homeByte (s : State) (pa : Nat) : Byte := SMap.get s.mem pa
def State.homeBytes (s : State) (pa n : Nat) : List Byte := SMap.getRun (w := 8) s.mem pa n
def State.homeWord (s : State) (pa : Nat) : DWord := BitVec.ofNat 64 (ofBytes (s.homeBytes pa 8))
def State.pokeHome (s : State) (pa : Nat) (bs : List Byte) : State := { s with mem := SMap.setRun (w := 8) s.mem pa bs }
/-- A line that is poisoned (R309). -/
def State.lineBad (s : State) (pa : Nat) : Bool := s.badLines.contains (pa / 64)
/-- Whether any line of a range is poisoned. -/
def State.rangeBad (s : State) (pa n : Nat) : Bool := s.badLines.any fun k => pa < 64 * (k + 1) && 64 * k < pa + n
def State.clearLine (s : State) (pa : Nat) : State := { s with badLines := s.badLines.filter fun k => k != pa / 64 }
def State.poisonLine (s : State) (pa : Nat) : State :=
  if s.lineBad pa then s else { s with badLines := s.badLines ++ [pa / 64] }

/-- Where a physical address that was given before its frame retired stands now (R405). -/
def State.nowAt (s : State) (pa : Nat) : Nat :=
  s.retired.foldl (fun pa p => if pa / 4096 = p.1 then p.2 * 4096 + pa % 4096 else pa) pa

/-- Whether two ranges of bytes meet. -/
def meet (a n b m : Nat) : Bool := a < b + m && b < a + n

/-- General loft or LPDDR: memory that holds bytes (R292). -/
def isMemory (pa : Nat) : Bool :=
  match Config.region pa with
  | .lpddr _ | .loft _ => true
  | _ => false
def isLoft (pa : Nat) : Bool :=
  match Config.region pa with
  | .loft _ => true
  | _ => false
def isWindow (pa : Nat) : Bool :=
  match Config.region pa with
  | .window _ => true
  | _ => false

/-! ### The table walk (R293-R297) -/

/-- What a walk finds: a leaf with its companion's address and the virtual pages it maps, or the level at which it
stopped and the cause (R297). -/
inductive Walk where
  | leaf (e : DWord) (comp vpage pages : Nat)
  | fail (level cause : Nat)
  deriving DecidableEq, Repr

def leafKind (e : DWord) : PKind :=
  match (e.extractLsb' 58 2).toNat with
  | 0 => .rc | 1 => .so | 2 => .uo | _ => .ds
def entryPa (e : DWord) : Nat := (e.extractLsb' 12 36).toNat * 4096

/-- Bytes a leaf maps at a level (R293). -/
def leafBytes (lvl : Nat) (e : DWord) : Nat :=
  if lvl = 0 then (if e.getLsbD 7 then 65536 else 4096) else if lvl = 1 then 2 ^ 21 else 2 ^ 30

/-- A malformed entry at index i of a level (R296). -/
def malformed (lvl i : Nat) (e : DWord) : Bool :=
  let leaf := e.getLsbD 1
  e.extractLsb' 60 4 != 0 || e.extractLsb' 48 9 != 0 || e.extractLsb' 8 4 != 0 || e.extractLsb' 2 2 != 0 ||
  (leaf && lvl = 3) || (!leaf && lvl = 0) ||
  (!leaf && (e.extractLsb' 57 3 != 0 || e.extractLsb' 4 4 != 0 || e.getLsbD 12)) ||
  (leaf && entryPa e % leafBytes lvl e != 0) ||
  (e.getLsbD 7 && (lvl != 0 || i % 16 != 0)) ||
  (leaf && (match Config.region (entryPa e) with
    | .negative _ => true
    | .window _ => leafKind e != .so
    | _ => false))

/-- Check one entry that the walk has read (R296): no memory for its line, an unreadable line, V, malformed, and for
a leaf a page outside every range. -/
def entryFault (s : State) (lvl i : Nat) (at_ : Nat) (e : DWord) : Option Nat :=
  if !isMemory at_ then some 5
  else if s.lineBad (s.nowAt at_) then some 3
  else if !e.getLsbD 0 then some 1
  else if malformed lvl i e then some 2
  else if e.getLsbD 1 && Config.region (entryPa e) = .hole then some 5
  else none

/-- The index of a virtual address at a level. -/
def walkIndex (lvl va : Nat) : Nat := (va / 2 ^ (12 + 9 * lvl)) % (if lvl = 3 then 8192 else 512)

/-- The leaf of a level, unless its companion's line is unreadable (R296, R298). -/
def leafOrBad (s : State) (va lvl : Nat) (e : DWord) (comp : Nat) : Walk :=
  let n := leafBytes lvl e / 4096
  if s.lineBad (s.nowAt comp) then .fail lvl 3 else .leaf e comp (va / 4096 / n * n) n

/-- The entry at an address of a table, wherever its frame stands (R405). -/
def State.entryAt (s : State) (a : Nat) : DWord := s.homeWord (s.nowAt a)

/-- The walk from level `lvl` with table t (R293).  At level 0 the group's leader is read first, and its line may be
unreadable as any other. -/
def walkFrom (s : State) (va : Nat) : Nat → Nat → Walk
  | 0, t =>
    let i0 := walkIndex 0 va
    let g := i0 - i0 % 16
    if isMemory (t + 8 * g) && s.lineBad (s.nowAt (t + 8 * g)) then .fail 0 3
    else
      let i := if (s.entryAt (t + 8 * g)).getLsbD 7 then g else i0
      let e := s.entryAt (t + 8 * i)
      match entryFault s 0 i (t + 8 * i) e with
      | some c => .fail 0 c
      | none => leafOrBad s va 0 e (t + 8 * 512 + 8 * i)
  | lvl + 1, t =>
    let i := walkIndex (lvl + 1) va
    let n := if lvl = 2 then 8192 else 512
    let e := s.entryAt (t + 8 * i)
    match entryFault s (lvl + 1) i (t + 8 * i) e with
    | some c => .fail (lvl + 1) c
    | none =>
      if e.getLsbD 1 then leafOrBad s va (lvl + 1) e (t + 8 * n + 8 * i)
      else walkFrom s va lvl (entryPa e)

/-- The addresses of the entries that a walk reads (R293). -/
def walkPath (s : State) (va : Nat) : Nat → Nat → List Nat
  | 0, t =>
    let i0 := walkIndex 0 va
    let g := i0 - i0 % 16
    if (s.entryAt (t + 8 * g)).getLsbD 7 || g = i0 then [t + 8 * g] else [t + 8 * g, t + 8 * i0]
  | lvl + 1, t =>
    let a := t + 8 * walkIndex (lvl + 1) va
    let e := s.entryAt a
    if (entryFault s (lvl + 1) (walkIndex (lvl + 1) va) a e).isSome || e.getLsbD 1 then [a]
    else a :: walkPath s va lvl (entryPa e)

/-- The DETAIL of a PAGE fault (R297). -/
def pageDetail (level cause : Nat) : BitVec 16 := BitVec.ofNat 16 (4096 * level + cause)

/-! ### TLBs and the A and D bits (R298, R300, R301) -/

def TlbEntry.maps (t : TlbEntry) (launch va : Nat) : Bool :=
  t.launch = launch && t.vpage ≤ va / 4096 && va / 4096 < t.vpage + t.pages

/-- A bit of a companion word, set by an atomic OR at device scope (R295, R298). -/
def State.orCompanion (s : State) (comp : Nat) (bits : BitVec 8) : State :=
  s.pokeHome comp [s.homeByte comp ||| bits]

/-- Accessed and dirty bits of a site (R295). -/
def aBit (site : Nat) : BitVec 8 := if site = 0 then 1 else 4
def dBit (site : Nat) : BitVec 8 := if site = 0 then 2 else 8

/-- A translation: the physical address, the page's kind and its leaf, or the DETAIL of the PAGE fault. -/
inductive Xlat where
  | ok (pa : Nat) (kind : PKind) (leaf : DWord)
  | fault (detail : BitVec 16)
  deriving DecidableEq, Repr

/-- The translation that an entry gives; the frame may have moved (R405). -/
def State.xlatOf (s : State) (t : TlbEntry) (va : Nat) : Xlat :=
  .ok (s.nowAt (entryPa t.leaf + (va - 4096 * t.vpage))) (leafKind t.leaf) t.leaf

/-- The entry of a site's TLBs that maps an address. -/
def State.tlb? (s : State) (site launch va : Nat) : Option TlbEntry :=
  (s.site site).tlb.find? fun t => t.maps launch va

/-- The words of the other site that a site's walk of an address reads (R287, R293). -/
def State.farWalk (s : State) (site launch va : Nat) : List Nat :=
  match s.launch? launch with
  | none => []
  | some l => (walkPath s va 3 l.root).filter fun a => Config.homeSite a = some (1 - site)

/-- What an access needs of a leaf (R297). -/
structure Need where
  r : Bool := false
  w : Bool := false
  x : Bool := false
  deriving DecidableEq, Repr

/-- The leaf denies the access (R297). -/
def denies (e : DWord) (priv : Bool) (n : Need) : Bool :=
  (n.r && !e.getLsbD 4) || (n.w && !e.getLsbD 5) || (n.x && !e.getLsbD 6) || (!priv && e.getLsbD 57)

/-- A translation that the link holds: it misses the TLBs and reads a table of the other site, or a write that its leaf
allows must set a D bit there (R298, R385). -/
def State.walkHeld (s : State) (site launch va : Nat) (priv : Bool := false) (need : Need := {}) : Bool :=
  !s.linkOpen && (match s.tlb? site launch va with
    | none => !(s.farWalk site launch va).isEmpty
    | some t => need.w && !t.dirty && !denies t.leaf priv need && Config.homeSite t.comp = some (1 - site))

/-- Set bits of a companion word for a site; one of the other site goes there in a packet (R287, R298). -/
def State.markLeaf (s : State) (site comp : Nat) (bits : BitVec 8) : State :=
  let s := s.unitTrip .walker site comp
  s.orCompanion (s.nowAt comp) bits

/-- Look a virtual address up in the site's TLB; on a miss, walk, set the A bit and fill (R298, R300).  Each read of a table
of the other site is a packet of the walker's flow (R287). -/
def State.translate (s : State) (site launch va : Nat) : State × Xlat :=
  match s.tlb? site launch va with
  | some t => (s, s.xlatOf t va)
  | none =>
    match s.launch? launch with
    | none => (s, .fault (pageDetail 3 1))
    | some l =>
      let s := (s.farWalk site launch va).foldl (fun s _ => s.siteTrip site .walker) s
      match walkFrom s va 3 l.root with
      | .fail lvl c => (s, .fault (pageDetail lvl c))
      | .leaf e comp vpage pages =>
        let t : TlbEntry := ⟨launch, vpage, pages, e, comp, false⟩
        ((s.markLeaf site comp (aBit site)).updSite site fun x => { x with tlb := t :: x.tlb }, s.xlatOf t va)

/-- The translation alone, as `translate` would answer it. -/
def State.xlat (s : State) (site launch va : Nat) : Xlat := (s.translate site launch va).2

/-- Set the D and A bits before a write through a leaf whose D bit the TLB has not seen set (R298). -/
def State.markDirty (s : State) (site launch va : Nat) : State :=
  match s.tlb? site launch va with
  | none => s
  | some t =>
    if t.dirty then s
    else (s.markLeaf site t.comp (aBit site ||| dBit site)).updSite site fun x =>
      { x with tlb := x.tlb.map fun u => if u = t then { u with dirty := true } else u }

/-- The level of a TLB entry's leaf. -/
def TlbEntry.level (t : TlbEntry) : Nat := if t.pages = 2 ^ 18 then 2 else if t.pages = 512 then 1 else 0

/-- The translation of an address for a write.  Where the TLB has not seen the leaf's D bit set, the core sets it and
reads the entry again: one that has changed or become unreadable is walked anew, and an unreadable companion fails as its
table does (R296, R298). -/
def State.translateWrite (s : State) (site launch va : Nat) (priv : Bool) (need : Need) : State × Xlat :=
  match s.translate site launch va with
  | (s, .fault d) => (s, .fault d)
  | (s, .ok pa kind leaf) =>
    match s.tlb? site launch va with
    | none => (s, .ok pa kind leaf)
    | some t =>
      if t.dirty || denies leaf priv need then (s, .ok pa kind leaf)
      else if s.lineBad (s.nowAt t.comp) then (s, .fault (pageDetail t.level 3))
      else if s.entryAt (t.comp - 4096) = t.leaf && !s.lineBad (s.nowAt (t.comp - 4096)) then (s, .ok pa kind leaf)
      else
        let s := (s.markLeaf site t.comp (aBit site ||| dBit site)).updSite site fun x =>
          { x with tlb := x.tlb.filter fun u => u != t }
        s.translate site launch va

/-- The pages that an ST_TLBINV value names, from its VA and SIZE (R301). -/
def tlbinvPages (v : DWord) : Nat × Nat :=
  let n := match (v.extractLsb' 10 2).toNat with
    | 0 => 1 | 1 => 16 | 2 => 512 | _ => 262144
  ((v.extractLsb' 12 40).toNat / n * n, n)

/-- Remove the entries of a launch from a site's TLBs: all of them, or those that map a byte of the range (R301). -/
def State.invalidate (s : State) (site launch : Nat) (v : DWord) : State :=
  let (p, n) := tlbinvPages v
  s.updSite site fun x =>
    { x with tlb := x.tlb.filter fun t => !(t.launch = launch && (v.getLsbD 9 || meet t.vpage t.pages p n)) }

end Sys2Proof.Machine
end

