-- ==== Sys2Proof/Machine/Mem.lean ====
section
/-!
DEFINITION. Memory as agents see it (11 R273-R289): what a write does at its location, writes in flight and the
scopes at which they are performed, copies, flows between the sites, DS phases (14 R340-R344), and release and
acquire.  A write waits in `inflight` until it is performed at device scope; atomics, loft commands and SO accesses act
at the home when they issue (log entries 10, 11).
-/
namespace Sys2Proof.Machine

/-! ### What a write does (R157, R163, R167, R168) -/

/-- The number in n bytes at an address. -/
def readNum (get : Nat → Byte) (a n : Nat) : Nat := ofBytes ((List.range n).map fun k => get (a + k))

/-- The bytes of a number at an address. -/
def numBytes (a n x : Nat) : List (Nat × Byte) := (List.range n).map fun k => (a + k, BitVec.ofNat 8 (x / 256 ^ k))

/-- The signed value of a number of n bytes. -/
def signedOf (n x : Nat) : Int := if x < 2 ^ (8 * n - 1) then x else (x : Int) - 2 ^ (8 * n)

/-- The new value of an atomic over n bytes (R163); cas is in `applyOp`. -/
def atomNew (op : AtomOp) (sgn : Bool) (n old v : Nat) : Nat :=
  let lt (a b : Nat) : Bool := if sgn then signedOf n a < signedOf n b else a < b
  match op with
  | .add => (old + v) % 256 ^ n
  | .sub => (old + 256 ^ n - v) % 256 ^ n
  | .min => if lt v old then v else old
  | .max => if lt old v then v else old
  | .and => old &&& v
  | .or => old ||| v
  | .xor => old ^^^ v
  | .exch | .cas => v
  | .inc => if old < v then old + 1 else old
  | .dec => if v < old then old - 1 else old

/-- The format of a loft command of n bytes. -/
def loftFmt (n : Nat) : Fmt := if n = 8 then fF64 else fF32

/-- The new value of a loft command (R167); NaN order A = y, B = D. -/
def loftNew (op : LoftOp) (flt sgn : Bool) (n old v : Nat) : Nat :=
  match op, flt with
  | .add, true => ((loftFmt n).add .rne old v).bits
  | .min, true => ((loftFmt n).minmaxNum false old v).bits
  | .max, true => ((loftFmt n).minmaxNum true old v).bits
  | .add, false => atomNew .add sgn n old v
  | .min, false => atomNew .min sgn n old v
  | .max, false => atomNew .max sgn n old v
  | .cas, _ | .sax, _ => v

/-- A byte under a list of later writes. -/
def overlay (get : Nat → Byte) (ws : List (Nat × Byte)) (a : Nat) : Byte :=
  match ws.find? fun p => p.1 = a with
  | some p => p.2
  | none => get a

/-- Elements of a loft.sax command: min(count, 64) (R168). -/
def saxCount (data : List Byte) : Nat := min (ofBytes ((data.drop 12).take 4)) 64
/-- The signed byte offset from y to x (R168). -/
def saxOffset (data : List Byte) : Int := signedOf 4 (ofBytes ((data.drop 8).take 4))

/-- loft.sax: element after element, each reading what the earlier wrote (R168). -/
def saxWrites (get : Nat → Byte) (y n : Nat) (data : List Byte) : Nat → List (Nat × Byte)
  | 0 => []
  | i + 1 =>
    let ws := saxWrites get y n data i
    let f := loftFmt n
    let a := ofBytes (data.take n)
    let x := ((y : Int) + saxOffset data + i * n).toNat
    let r := f.fma .rne a (readNum (overlay get ws) x n) (readNum (overlay get ws) (y + i * n) n)
    numBytes (y + i * n) n r.bits ++ ws

/-- One write operation at an address: the bytes it writes and the old value. -/
def applyOp (get : Nat → Byte) (op : WriteOp) (a n : Nat) (data : List Byte) : List (Nat × Byte) × Nat :=
  let old := readNum get a n
  let v := ofBytes (data.take n)
  match op with
  | .store => ((List.range n).map fun k => (a + k, data.getD k 0), old)
  | .atom .cas _ | .loft .cas _ _ =>
    (if old = v then numBytes a n (ofBytes ((data.drop n).take n)) else [], old)
  | .atom op sgn => (numBytes a n (atomNew op sgn n old v), old)
  | .loft .sax _ _ => (saxWrites get a n data (saxCount data), old)
  | .loft op flt sgn => (numBytes a n (loftNew op flt sgn n old v), old)

/-- The bytes that an operation may write: one element, or the vector of loft.sax. -/
def opSpan (op : WriteOp) (n : Nat) (data : List Byte) : Nat :=
  match op with
  | .loft .sax _ _ => if saxCount data = 0 then n else saxCount data * n
  | _ => n

def State.pokeAll (s : State) (ws : List (Nat × Byte)) : State := { s with mem := SMap.setAll (w := 8) s.mem ws }

/-! ### The flows of agents (R287) -/

/-- The flow of a write. -/
def Inflight.flow (x : Inflight) : FlowId := unitFlow x.core x.unit x.kind

/-- A write to the other site. -/
def Inflight.far (x : Inflight) : Bool := Config.homeSite x.pa != some (x.core / 96)

/-! ### Launch failure (R305, R323, R324) -/

/-- A launch fails on its first cause, and only that report is sent; its tasks are discarded before anything else moves
(`State.sweepFailed`). -/
def State.failLaunch (s : State) (launch : Nat) (tindex addr : DWord) (lane : Nat) (pc : Word) (detail : BitVec 16)
    (code : BitVec 8) : State :=
  match s.launch? launch with
  | none => s
  | some l =>
    if l.failed then s
    else (s.updLaunch launch fun l => { l with failed := true }).report launch
      (reportWord launch tindex addr lane pc detail code 2)

/-- The launch of a write that met a poisoned line fails (R309). -/
def State.failPoison (s : State) (c : Culprit) : State := s.failLaunch c.launch c.tindex c.va c.lane c.pc 1 0x08

/-! ### Writes in flight (R275-R278) -/

def scopeRank : Scope → Nat
  | .wave => 0 | .crew => 1 | .gang => 2 | .site => 3 | .device => 4 | .system => 5

/-- The scope that a code names (R35). -/
def scopeOf (c : BitVec 3) : Scope :=
  match c.toNat with
  | 0 => .wave | 1 => .crew | 2 => .gang | 3 => .site | 4 => .device | _ => .system

/-- The point of coherence of a scope (R275): 0 the core, 1 the cluster's L2 slice, 2 the site, 3 the home. -/
def pointOf (sc : Scope) : Nat :=
  match sc with
  | .wave | .crew => 0
  | .gang => 1
  | .site => 2
  | .device | .system => 3

def Inflight.covers (x : Inflight) (pa : Nat) : Bool := x.pa ≤ pa && pa < x.pa + x.data.length
def Inflight.touches (x : Inflight) (pa n : Nat) : Bool := meet x.pa x.data.length pa n

/-- The point that holds a write. -/
def Inflight.level (x : Inflight) : Nat := pointOf x.scope

/-- Whether a core sees a write that is not yet performed at device scope (R275, R276): its own core's, its cluster's
from gang scope on, its site's from site scope on. -/
def Inflight.seenBy (x : Inflight) (core : Nat) : Bool :=
  x.core = core || (1 ≤ x.level && x.core / 8 = core / 8) || (2 ≤ x.level && x.core / 96 = core / 96)

/-- The byte of the latest write that a point holds and a core sees. -/
def State.heldAt (s : State) (core lvl pa : Nat) : Option Byte :=
  (s.inflight.filter fun x => x.covers pa && x.seenBy core && x.level = lvl).getLast?.map fun x => x.data.getD (pa - x.pa) 0

/-- The byte that a core sees: the latest write at the point nearest to it, else the home. -/
def State.seen (s : State) (core : Nat) (pa : Nat) : Byte :=
  (((s.heldAt core 0 pa <|> s.heldAt core 1 pa) <|> s.heldAt core 2 pa)).getD (s.homeByte pa)

/-- A line that a read finds poisoned: no store of the whole line that the core sees stands before its home (R309). -/
def State.readBad (s : State) (core pa n : Nat) : Bool :=
  s.rangeBad pa n && !(s.inflight.any fun x =>
    x.data.length = 64 && x.pa % 64 = 0 && x.seenBy core && x.pa ≤ pa && pa + n ≤ x.pa + 64)

/-- A write that stands before another in the order of its bytes: at a wider point that the other passes, or earlier at the
same point.  Two stores of one wave to UO pages have no order, unless the wave has fenced between them or one instruction
made both (R157, R277, R283). -/
def Inflight.before (y z : Inflight) : Bool :=
  y.touches z.pa z.data.length && y.seenBy z.core && (z.level < y.level || (z.level = y.level && y.stamp < z.stamp)) &&
    !(y.kind = .uo && z.kind = .uo && y.wave = z.wave && !y.fenced && y.group != z.group)

/-- Overlapping lanes of one store, between which no other access enters (R157). -/
def Inflight.tied (y z : Inflight) : Bool :=
  y.group != 0 && y.group = z.group && y.touches z.pa z.data.length

/-- Writes that must be performed with the given ones: those before them, those tied to them, and theirs in turn. -/
def standsBefore (l : List Inflight) : Nat → List Inflight → List Inflight
  | 0, xs => xs
  | k + 1, xs =>
    match l.filter fun y => !(xs.any fun z => z.id = y.id) && xs.any fun z => y.before z || y.tied z with
    | [] => xs
    | new => standsBefore l k (xs ++ new)

/-- The writes of a list in the order in which they are performed: those that numbered packets carry first, in the order
of their numbers, then point after point from the widest. -/
def inOrder (l : List Inflight) : List Inflight :=
  l.filter (fun x => x.pkt.isSome) ++
    [2, 1, 0].flatMap fun k => l.filter fun x => x.pkt.isNone && x.level = k

/-! ### Copies (R272, R276) -/

def Copies.drop (c : Copies) (pa n : Nat) : Copies := c.filter fun p => !(pa ≤ p.1 && p.1 < pa + n)
def Copies.put (c : Copies) (pa : Nat) (b : Byte) : Copies := (pa, b) :: c.drop pa 1
def Copies.at_ (c : Copies) (pa : Nat) : Option Byte := (c.find? fun p => p.1 = pa).map (·.2)

/-- The copies that a point on a core's path holds. -/
def State.copiesAt (s : State) (core lvl : Nat) : Copies :=
  match lvl with
  | 0 => (s.core core).copies
  | 1 => (s.cluster (core / 8)).l2
  | _ => (s.site (core / 96)).rlc

def State.updCopies (s : State) (core lvl : Nat) (f : Copies → Copies) : State :=
  match lvl with
  | 0 => s.updCore core fun c => { c with copies := f c.copies }
  | 1 => s.updCluster (core / 8) fun c => { c with l2 := f c.l2 }
  | _ => s.updSite (core / 96) fun t => { t with rlc := f t.rlc }

/-- Drop copies of a range at every point of a core's path up to one. -/
def State.dropCopiesTo (s : State) (core lvl pa n : Nat) : State :=
  [0, 1, 2].foldl (fun s k => if k ≤ lvl then s.updCopies core k fun c => c.drop pa n else s) s
/-- Drop every copy of a range on a core's path. -/
def State.dropCopies (s : State) (core pa n : Nat) : State := s.dropCopiesTo core 2 pa n

/-! ### Performing writes (R276, R277, R288, R309) -/

/-- A write takes its effect at its home.  One to a poisoned line is not applied and fails its launch, but a store of the
whole line writes it and clears its poison (R309). -/
def State.applyAtHome (s : State) (y : Inflight) : State :=
  let n := y.data.length
  if s.rangeBad y.pa n then
    if n = 64 && y.pa % 64 = 0 then { s.clearLine y.pa with mem := SMap.setRun (w := 8) s.mem y.pa y.data }
    else s.failPoison y.by_
  else { s with mem := SMap.setRun (w := 8) s.mem y.pa y.data }

/-- The write leaves the list. -/
def State.dropWrite (s : State) (y : Inflight) : State :=
  { s with inflight := s.inflight.filter fun z => z.id != y.id }

/-- A write becomes the latest at the point of a wider scope. -/
def State.raise (s : State) (y : Inflight) (sc : Scope) : State :=
  if y.level < pointOf sc then
    { s.dropCopiesTo y.core (pointOf sc) y.pa y.data.length with
      inflight := (s.inflight.filter fun z => z.id != y.id) ++ [{ y with scope := sc, stamp := s.nextId }], nextId := s.nextId + 1 }
  else s

/-- Perform one write at a scope.  At device scope, and at site scope when its home is on the site (R275), it reaches its
home, through a packet when the home is on the other site, and leaves the list; at a narrower scope it becomes the latest
at its point. -/
def State.performOne (s : State) (x : Inflight) (sc : Scope) : State :=
  match s.inflight.find? fun y => y.id = x.id with
  | none => s
  | some y =>
    if 3 ≤ pointOf sc || (pointOf sc = 2 && !y.far) then
      let t := (s.dropCopiesTo y.core 2 y.pa y.data.length).dropWrite y
      if !y.far then t.applyAtHome y
      else match y.pkt with
        | some n => if s.linkState = .active then (t.applyAtHome y).applyPacket y.flow n else s
        | none => if s.linkOpen then (t.applyAtHome y).passPacket y.flow else s.raise y .site
    else s.raise y sc

/-- Packets of the ordered class that stand before a write in its flow must be applied first (R288). -/
def State.earlierPackets (s : State) (xs : List Inflight) : List Inflight :=
  s.inflight.filter fun y => y.pkt.isSome && y.flow.ordered && xs.any fun z =>
    z.flow = y.flow && z.far && !xs.any fun u => u.id = y.id

/-- The writes that performing some of them at a scope performs. -/
def State.withEarlier (s : State) (xs : List Inflight) (sc : Scope) : List Inflight :=
  let all := standsBefore s.inflight s.inflight.length xs
  if 3 ≤ pointOf sc then all ++ s.earlierPackets all else all

/-- Perform writes at a scope, the earlier ones of their bytes and flows first. -/
def State.performAll (s : State) (xs : List Inflight) (sc : Scope) : State :=
  let all := s.withEarlier xs sc
  (inOrder (s.inflight.filter fun y => all.any fun z => z.id = y.id)).foldl (fun s x => s.performOne x sc) s

/-- Writes to a range that a core sees are performed at a scope. -/
def State.flushTo (s : State) (core pa n : Nat) (sc : Scope) : State :=
  s.performAll (s.inflight.filter fun x => x.seenBy core && x.touches pa n) sc
/-- Writes to a range that a core sees are performed at device scope before an access acts at the home there. -/
def State.flushRange (s : State) (core pa n : Nat) : State := s.flushTo core pa n .device

/-- A packet of a flow passes; those before it in an ordered flow are applied first (R288). -/
def State.passIn (s : State) (f : FlowId) : State :=
  (s.performAll (s.inflight.filter fun y => f.ordered && y.pkt.isSome && y.flow = f) .device).passPacket f

/-! ### Release and acquire (R279-R281) -/

/-- The largest |VX| or |VY| of the records of a record's tile (R218, R349), as f16. -/
def noteMotion (m : SMap 16) (words : BitVec 256) : SMap 16 :=
  let k := (words.extractLsb' 32 20).toNat / 256 * 240 + (words.extractLsb' 0 20).toNat / 256
  let a := (words.extractLsb' 128 15).setWidth 16
  let b := (words.extractLsb' 144 15).setWidth 16
  let v := if a.toNat < b.toNat then b else a
  if (SMap.get m k).toNat < v.toNat then SMap.set m k v else m

/-- A record arrives at a site's Negative store (R378): it takes the slot of its ring's insertion count. -/
def State.insertRecord (s : State) (site : Nat) (wave : Option Nat) (words : BitVec 256) : State :=
  s.updSite site fun t =>
    let b := (words.extractLsb' 40 12).toNat
    let n := SMap.get t.neg.counts b
    let keep := t.neg.rings.filter fun r => !(r.1 = b && r.2.order + 65536 = n.toNat)
    { t with meter := { t.meter with motion := if t.meter.en then noteMotion t.meter.motion words else t.meter.motion }, neg := { t.neg with
        rings := keep ++ [(b, { order := n.toNat, words := words, wave := wave, visible := false })]
        counts := SMap.set t.neg.counts b (n + 1)
        stat := (t.neg.stat.extractLsb' 32 32 + 1) ++ t.neg.stat.extractLsb' 0 32 } }

/-- The numbered record packets of a core arrive at the other site (R219, R288). -/
def State.landRecords (s : State) (core : Nat) : State :=
  let f := s.flow ⟨core, .core, 1 - core / 96, false⟩
  f.unacked.foldl (fun s p => match p.2 with
    | .record w words =>
      if (s.flow f.id).applied p.1 then s else (s.insertRecord f.id.dst (some w) words).applyPacket f.id p.1
    | .access _ => s) s

/-- The flows of a core's accesses. -/
def coreFlows (core : Nat) : List FlowId := [⟨core, .core, 1 - core / 96, true⟩, ⟨core, .core, 1 - core / 96, false⟩]

/-- What the destination has applied is acknowledged. -/
def State.ackFlow (s : State) (f : FlowId) : State :=
  let x := s.flow f
  if x.unacked.isEmpty then s else s.setFlow { x with unacked := x.unacked.filter fun p => !x.applied p.1 }

/-- A write of a core that a numbered packet carries. -/
def Inflight.numbered (core : Nat) (x : Inflight) : Bool := x.core = core && x.pkt.isSome

/-- The writes of a wave keep their order with what it does after a fence, a release or an acquire (R283). -/
def State.fenceWave (s : State) (wave : Nat) : State :=
  { s with inflight := s.inflight.map fun x => if x.wave = wave then { x with fenced := true } else x }

/-- A release at a scope: every write that the agent's core sees is performed there (R276, R279).  At site scope or wider
every numbered packet is applied and acknowledged (R288). -/
def State.releaseAt (s : State) (core : Nat) (sc : Scope) : State :=
  if pointOf sc = 0 then s
  else
    let s := s.performAll (s.inflight.filter fun x => x.seenBy core) sc
    if pointOf sc = 1 then s
    else
      let s := (s.performAll (s.inflight.filter (Inflight.numbered core)) .device).landRecords core
      (coreFlows core).foldl State.ackFlow s

/-- The copies on a core's path that are narrower than a scope go (R276). -/
def State.dropNarrower (s : State) (core : Nat) (sc : Scope) : State :=
  [0, 1, 2].foldl (fun s k => if k < pointOf sc then s.updCopies core k fun _ => [] else s) s

/-- An acquire of a wave at a scope invalidates the copies on its path that are narrower, and ends the freedom of its UO
stores (R276, R283). -/
def State.acquireAt (s : State) (core wave : Nat) (sc : Scope) : State := (s.fenceWave wave).dropNarrower core sc

/-- A numbered packet of a core is not yet acknowledged as applied. -/
def State.unapplied (s : State) (core : Nat) : Bool :=
  s.inflight.any (Inflight.numbered core) || (coreFlows core).any fun f => !(s.flow f).unacked.isEmpty

/-- Whether a release at a scope can complete now: nothing it covers waits for the link (R288, R385). -/
def State.releaseReady (s : State) (core : Nat) (sc : Scope) : Bool :=
  s.linkOpen || pointOf sc ≤ 1 ||
    ((s.linkState = .active || !s.unapplied core) &&
      !(3 ≤ pointOf sc && s.inflight.any fun x => x.seenBy core && x.far && x.pkt.isNone))

/-! ### DS phases (R340-R344) -/

/-- The vector that a loft.sax command reads holds a poisoned line (R309). -/
def State.saxReadsBad (s : State) (op : WriteOp) (pa n : Nat) (data : List Byte) : Bool :=
  match op with
  | .loft .sax _ _ => saxCount data != 0 && s.rangeBad ((pa : Int) + saxOffset data).toNat (saxCount data * n)
  | _ => false

/-- A write that acts at its home meets a poisoned line (R309). -/
def State.writeBad (s : State) (op : WriteOp) (pa n : Nat) (data : List Byte) : Bool :=
  (s.rangeBad pa (opSpan op n data) || s.saxReadsBad op pa n data) && !(op = .store && n = 64)

/-- The line of a phase table that holds an address, at its home. -/
def State.dsLine? (s : State) (pa : Nat) : Option DsLine :=
  (s.site ((Config.homeSite pa).getD 0)).dsLines.find? fun d => d.line = pa / 64

/-- Another phase holds the line of an address on a DS page, so that this agent may not write it (R344). -/
def State.heldByOther (s : State) (phase : Option Nat) (pa : Nat) : Bool :=
  match phase, s.dsLine? pa with
  | some ph, some d => d.phase != ph
  | _, _ => false

/-- A byte before the phase (R341). -/
def State.dsOld (s : State) (pa : Nat) : Byte :=
  match s.dsLine? pa with
  | some d => d.old.getD (pa % 64) 0
  | none => s.homeByte pa

/-- A byte in the view of a crew of a phase: the contents before the phase, overlaid with the crew's own writes and
buffered results in their order (R284, R341). -/
def State.dsView (s : State) (crew : Nat) (pa : Nat) : Byte :=
  let mine := s.dsWrites.filter fun w => w.crew = crew
  overlay s.dsOld (mine.foldl (fun ws w => (applyOp (overlay s.dsOld ws) w.op w.pa w.bytes w.data).1 ++ ws) []) pa

/-- The 64-byte lines of a range. -/
def linesOf (pa n : Nat) : List Nat := (List.range ((pa + n - 1) / 64 + 1 - pa / 64)).map fun k => pa / 64 + k

/-- Lines that a crew has written in its phase (R343). -/
def State.dsLinesOf (s : State) (crew : Nat) : List Nat :=
  (s.dsWrites.filter fun w => w.crew = crew).foldl (fun ls w =>
    (linesOf w.pa (opSpan w.op w.bytes w.data)).foldl (fun ls l => if ls.contains l then ls else l :: ls) ls) []

def State.setDsLine (s : State) (site : Nat) (d : DsLine) : State :=
  s.updSite site fun t =>
    { t with dsLines :=
        if t.dsLines.any fun x => x.line = d.line then t.dsLines.map fun x => if x.line = d.line then d else x
        else t.dsLines ++ [d] }

/-- Mark bytes in a line's mask (R340). -/
def maskBytes (m : BitVec 64) (off n : Nat) : BitVec 64 :=
  (List.range n).foldl (fun m k => m ||| ((1 : BitVec 64) <<< (off + k))) m

/-- A crew of a phase writes a DS line (R341).  Every write is kept in the crew's order for the commit; a store to a
line the crew owns, or that no one holds, is made in place as well; an atomic or a loft command goes to the buffer alone. -/
def State.dsWrite (s : State) (c : Crew) (phase : Nat) (op : WriteOp) (pa n : Nat) (data : List Byte) (by_ : Culprit := {}) :
    State × Nat :=
  let site := (Config.homeSite pa).getD 0
  let line := pa / 64
  let base := 64 * line
  let ti := recTindex c.record
  let view := s.dsView c.key
  let old := readNum view pa n
  let s1 := { s with dsWrites := s.dsWrites ++ [⟨phase, ti, c.key, pa, op, n, data, by_⟩] }
  let inPlace (s : State) (d : DsLine) : State :=
    let m := match d.owner with
      | some (_, m) => m
      | none => 0
    (s.setDsLine site { d with owner := some (ti, maskBytes m (pa % 64) n) }).pokeAll (applyOp s.homeByte .store pa n data).1
  let share (s : State) (d : DsLine) : State := (s.pokeHome (64 * d.line) d.old).setDsLine site { d with owner := none }
  let s2 := match op with
    | .store =>
      match s.dsLine? pa with
      | none => inPlace s1 ⟨line, phase, s.homeBytes base 64, none⟩
      | some d =>
        match d.owner with
        | some (o, _) => if o = ti then inPlace s1 d else share s1 d
        | none => s1
    | _ => (linesOf pa (opSpan op n data)).foldl (fun s k =>
        match s.dsLine? (64 * k) with
        | none => s.setDsLine site ⟨k, phase, s.homeBytes (64 * k) 64, none⟩
        | some _ => s) s1
  (s2, old)

/-- Lines of a write that its home's phase table does not hold yet and has no room for (R343). -/
def State.dsFull (s : State) (op : WriteOp) (pa n : Nat) (data : List Byte) : Bool :=
  let t := (s.site ((Config.homeSite pa).getD 0)).dsLines
  let new := (linesOf pa (opSpan op n data)).filter fun k => !(t.any fun d => d.line = k)
  !new.isEmpty && Config.phaseLines < t.length + new.length

/-- One buffered write takes its effect at the commit.  One to a poisoned line is not applied and fails its launch, but a
512-bit store clears the line; a store to a line that its crew owns stood there before the poison did (R309, R341). -/
def State.commitWrite (s : State) (lines : List DsLine) (w : DsWrite) : State :=
  let owned := w.op = .store && lines.any fun d => d.line = w.pa / 64 && d.owner.isSome
  if !owned && s.writeBad w.op w.pa w.bytes w.data then s.failPoison w.by_
  else
    let s := if !owned && w.op = .store && w.bytes = 64 then s.clearLine w.pa else s
    s.pokeAll (applyOp s.homeByte w.op w.pa w.bytes w.data).1

/-- A phase commits (R342), after the writes in flight to its lines (R277): each of its lines takes its contents before the
phase, then every crew's writes in ascending task index, each crew's in its order. -/
def State.commitPhase (s : State) (phase : Nat) : State :=
  let lines := (s.siteA.dsLines ++ s.siteB.dsLines).filter fun d => d.phase = phase
  let s0 := s.performAll (s.inflight.filter fun x => lines.any fun d => x.touches (64 * d.line) 64) .device
  let s1 := lines.foldl (fun s d => s.pokeHome (64 * d.line) d.old) s0
  let ws := s.dsWrites.filter fun w => w.phase = phase
  let tis := ws.foldl (fun l w => if l.contains w.tindex.toNat then l else l ++ [w.tindex.toNat]) []
  let sorted := tis.foldl (fun l t => (l.filter fun u => u ≤ t) ++ [t] ++ l.filter fun u => !(u ≤ t)) []
  let s2 := sorted.foldl (fun s t => (ws.filter fun w => w.tindex.toNat = t).foldl (fun s w => s.commitWrite lines w) s) s1
  let drop (x : Site) : Site := { x with dsLines := x.dsLines.filter fun d => d.phase != phase }
  { s2 with dsWrites := s2.dsWrites.filter (fun w => w.phase != phase), siteA := drop s2.siteA, siteB := drop s2.siteB }

/-- The bytes of an owned line that its owner has written. -/
def DsLine.marked (d : DsLine) : List Nat :=
  match d.owner with
  | some (_, m) => (List.range 64).filter fun k => m.getLsbD k
  | none => []

/-- A crew of a phase is discarded: its buffer is dropped and its bytes of owned lines take their contents before the
phase (R344). -/
def State.dsDiscard (s : State) (c : Crew) : State :=
  match c.phase with
  | none => s
  | some ph =>
    let ti := recTindex c.record
    let lines := (s.siteA.dsLines ++ s.siteB.dsLines).filter fun d => d.phase = ph
    let owned := lines.filter fun d => match d.owner with
      | some (o, _) => o = ti
      | none => false
    let s1 := owned.foldl (fun s d => s.pokeAll (d.marked.map fun k => (64 * d.line + k, d.old.getD k 0))) s
    let ws := s1.dsWrites.filter fun w => w.crew != c.key
    let held (d : DsLine) : Bool := d.phase != ph || ws.any fun w => w.phase = ph && meet w.pa (opSpan w.op w.bytes w.data) (64 * d.line) 64
    let drop (x : Site) : Site := { x with dsLines := x.dsLines.filter held }
    { s1 with dsWrites := ws, siteA := drop s1.siteA, siteB := drop s1.siteB }

/-! ### Global accesses of a wave -/

/-- The agent of an access: the core, wave and crew, the launch and the task's privilege (R275, R417). -/
structure Agent where
  core   : Nat
  wave   : Nat
  crew   : Nat
  launch : Nat
  priv   : Bool
  tindex : DWord
  phase  : Option Nat
  /-- The engine that acts for the crew, or its core (R287). -/
  unit   : FlowUnit := .core
  /-- The wave had unreplayed side-log entries when the instruction issued (R282). -/
  logged : Bool := false
  /-- The instruction, among those whose stores are in flight (R157); 0 for none. -/
  group  : Nat := 0
  deriving DecidableEq, Repr

def agentOf (w : Wave) (c : Crew) : Agent :=
  { core := w.core, wave := w.key, crew := c.key, launch := c.launch, priv := c.priv, tindex := recTindex c.record
    phase := c.phase }

/-- The flow of an agent's accesses to the other site. -/
def Agent.flow (g : Agent) (k : PKind) : FlowId := unitFlow g.core g.unit k

/-- A read of the other site: its request, and the response in the reverse flow (R287). -/
def State.roundTrip (s : State) (g : Agent) (k : PKind) : State :=
  (s.passIn (g.flow k)).passPacket { g.flow k with dst := g.core / 96 }

/-- What an access that acts at its home sends to the other site: its packet, and for a returning form the response (R287). -/
def State.toHome (s : State) (g : Agent) (kind : PKind) (pa : Nat) (ret : Bool) : State :=
  if Config.homeSite pa = some (g.core / 96) then s else if ret then s.roundTrip g kind else s.passIn (g.flow kind)

/-- An atomic or loft command, or an SO store, acts at the home (R277, R282, R307); one that returns a value to the other
site sends it in the reverse flow (R287). -/
def State.actAtHome (s : State) (g : Agent) (kind : PKind) (op : WriteOp) (pa n : Nat) (data : List Byte)
    (ret : Bool := false) : State × Nat :=
  let span := opSpan op n data
  let s := match op with
    | .loft .sax _ _ => s.flushRange g.core (pa / 4096 * 4096) 4096
    | _ => s.flushRange g.core pa span
  let s := s.dropCopies g.core pa span
  let s := s.toHome g kind pa ret
  let (ws, old) := applyOp s.homeByte op pa n data
  (s.pokeAll ws, old)

/-- A store enters the coherence order of its bytes at a scope (R276): its core's first, a wider one when it releases. -/
def State.storeAt (s : State) (g : Agent) (kind : PKind) (pa : Nat) (data : List Byte) (sc : Scope) (by_ : Culprit := {}) :
    State :=
  let x : Inflight := { id := s.nextId, core := g.core, wave := g.wave, crew := g.crew, pa := pa, data := data, kind := kind
                        scope := .crew, unit := g.unit, group := g.group, stamp := s.nextId, by_ := by_ }
  let s := { s.dropCopiesTo g.core 0 pa data.length with inflight := s.inflight ++ [x], nextId := s.nextId + 1 }
  if pointOf sc = 0 then s else s.performAll [x] sc

/-- The first DS line, beyond the quota of a crew of a phase, that a write would be the first to write (R343). -/
def State.beyondQuota (s : State) (crew : Nat) (op : WriteOp) (pa n : Nat) (data : List Byte) : Option Nat :=
  let mine := s.dsLinesOf crew
  let more := (linesOf pa (opSpan op n data)).filter fun k => !mine.contains k
  if Config.dsQuota < mine.length + more.length then more[Config.dsQuota - mine.length]? else none

/-- A write of a crew of a phase waits for room in its home's phase table, unless it is one beyond the crew's quota (R343). -/
def State.dsWaits (s : State) (g : Agent) (kind : PKind) (op : WriteOp) (pa n : Nat) (data : List Byte) : Bool :=
  kind = .ds && g.phase.isSome && (s.beyondQuota g.crew op pa n data).isNone && s.dsFull op pa n data

/-- The address, in a launch's space, of a physical line of the page that va and pa name. -/
def lineVa (va : DWord) (pa line : Nat) : DWord := BitVec.ofNat 64 (va.toNat / 4096 * 4096 + (64 * line - pa / 4096 * 4096))

/-- A write that acts when it issues: an SO store, an atomic, a loft command, or a write of a crew of a phase to a DS page
(R277, R282, R341).  A write to a poisoned line is not applied and fails the launch, but a 512-bit store of the line clears
it (R309). -/
def State.writeNow (s : State) (g : Agent) (kind : PKind) (op : WriteOp) (pa n : Nat) (data : List Byte) (ret : Bool)
    (by_ : Culprit) : State × Nat :=
  let span := opSpan op n data
  let s := if kind = .ds && g.phase.isSome then s.flushRange g.core (pa / 64 * 64) ((pa + span + 63) / 64 * 64 - pa / 64 * 64)
    else s.flushRange g.core pa span
  if s.writeBad op pa n data then (s.failPoison by_, 0)
  else
    let s := if op = .store && n = 64 then s.clearLine pa else s
    match kind, g.phase with
    | .ds, some ph =>
      match s.beyondQuota g.crew op pa n data with
      | some line => (s.failLaunch g.launch g.tindex (lineVa by_.va pa line) 0 0 1 0x3A, 0)
      | none => match s.crew? g.crew with
        | some c => (s.toHome g kind pa ret).dsWrite c ph op pa n data by_
        | none => (s, 0)
    | _, _ => s.actAtHome g kind op pa n data ret

/-- A write waits for its home to act there (R282, R341); any other store enters the coherence order at its core first. -/
def actsNow (op : WriteOp) (kind : PKind) (phase : Option Nat) : Bool :=
  op != .store || kind = .so || (kind = .ds && phase.isSome)

/-- One lane's write to global memory, as its page's kind orders it; the old value for a returning form. -/
def State.writeGlobal (s : State) (g : Agent) (kind : PKind) (op : WriteOp) (pa n : Nat) (data : List Byte)
    (rel : Option Scope) (va : DWord) (lane : Nat) (pc : Word) (ret : Bool := false) : State × Nat :=
  let c : Culprit := ⟨g.launch, g.tindex, va, lane, pc⟩
  if actsNow op kind g.phase then s.writeNow g kind op pa n data ret c
  else (s.storeAt g kind pa (data.take n) (rel.getD .wave) c, 0)

/-- A byte as a core reads it at point `at_` of its path: the latest write that a point holds; else the copy that it holds,
which may stand for a later value; else what stands farther away, which fills the nearer copies (R272, R276). -/
def State.readFrom (s : State) (core at_ pa : Nat) : List Nat → State × Byte
  | [] => (s, s.homeByte pa)
  | k :: ks =>
    match s.heldAt core k pa with
    | some b => (s, b)
    | none =>
      let (t, now) := s.readFrom core at_ pa ks
      if k < at_ || (k = 2 && Config.homeSite pa = some (core / 96)) then (t, now)
      else match (s.copiesAt core k).at_ pa with
        | some old =>
          if old = now then (t, now)
          else if Config.takesCopy s.fresh k then (s, old)
          else (t.updCopies core k fun c => c.put pa now, now)
        | none => (t.updCopies core k fun c => c.put pa now, now)

/-- The latest byte that a core sees when it overlooks the UO stores that its wave has made since its last fence (R283). -/
def State.seenPast (s : State) (core wave pa : Nat) : Byte :=
  ({ s with inflight := s.inflight.filter fun x => !(x.wave = wave && x.kind = PKind.uo && !x.fenced) }).seen core pa

/-- The wave's UO stores to a byte since its last fence, which its own loads may overlook; an engine reads after them
(R189, R283, R285). -/
def State.overlookable (s : State) (g : Agent) (pa : Nat) : Bool :=
  g.unit = .core && s.inflight.any fun x => x.covers pa && x.wave = g.wave && x.kind = .uo && !x.fenced

/-- The bytes that a read of a lane or an engine returns (R276, R283, R284, R341).  `at_` is the point at which the read
takes its value: an acquire's, else the core for a lane and the L2 slice for an engine. -/
def State.readByte (s : State) (g : Agent) (kind : PKind) (at_ : Nat) (pa : Nat) : State × Byte :=
  match kind, g.phase with
  | .ds, some _ => (s, s.dsView g.crew pa)
  | .so, _ => (s, s.homeByte pa)
  | .uo, _ =>
    if s.overlookable g pa && Config.overlooks s.fresh then (s, s.seenPast g.core g.wave pa)
    else s.readFrom g.core at_ pa [0, 1, 2]
  | _, _ => s.readFrom g.core at_ pa [0, 1, 2]

/-- n bytes from an address. -/
def State.readBytes (s : State) (g : Agent) (kind : PKind) (at_ : Nat) (pa : Nat) : Nat → State × List Byte
  | 0 => (s, [])
  | n + 1 =>
    let (s, b) := s.readByte g kind at_ pa
    let (s, bs) := s.readBytes g kind at_ (pa + 1) n
    (s, b :: bs)

/-- The point at which an agent's plain read begins (R275, R285). -/
def Agent.point (g : Agent) : Nat := if g.unit = .core then 0 else 1

/-- A read of global memory.  An acquire takes its value at its scope's point, after the writes that its core sees there;
an SO read, and a read of a DS page by a crew of a phase, come after those in flight (R276, R277, R282, R284). -/
def State.readGlobal (s : State) (g : Agent) (kind : PKind) (acq : Option Scope) (pa n : Nat) : State × List Byte :=
  let s := if kind = .so then (s.flushRange g.core pa n).dropCopies g.core pa n
    else if kind = .ds && g.phase.isSome then s.flushRange g.core pa n
    else match acq with
      | some sc => if pointOf sc = 0 then s else s.flushTo g.core pa n sc
      | none => s
  let s := if Config.homeSite pa = some (g.core / 96) then s else s.roundTrip g kind
  let (s, bs) := s.readBytes g kind ((acq.map pointOf).getD g.point) pa n
  ({ s with fresh := s.fresh + 1 }, bs)

end Sys2Proof.Machine
end

