-- ==== Sys2Proof/Machine/Access.lean ====
section
/-!
DEFINITION. One lane's access to memory: its effective address (02 R35), the spaces and checks of 06 R152-R154, reads
that are still to be performed (02 R45-R48, 12 R303), writes with the side log (12 R302), the scratchpad (06 R152, R173,
07 R197, R207), and the release and acquire points of a wave (06 R158, R170).
-/
namespace Sys2Proof.Machine

/-! ### Addresses (R35) -/

/-- The effective address of a lane in LM. -/
def effAddr (w : Wave) (x : LM) (l : Nat) : DWord :=
  let o : DWord := match x.o with
    | .v r => (w.vreg r.toNat l).signExtend 64
    | .s r => w.sreg r.toNat
    | .inl i => BitVec.ofInt 64 (inlValue i)
    | _ => 0
  w.sreg x.sb.toNat + o * BitVec.ofNat 64 (2 ^ x.sc.toNat) + x.imm.signExtend 64

/-- The wave holds an unreplayed entry (R304). -/
def State.waveLogged (s : State) (core wave : Nat) : Bool := (s.core core).sideLog.any fun e => e.wave = wave

/-- The agent of an issue; a wave without a crew names no launch. -/
def Issue.agent (i : Issue) : Agent :=
  match i.s.crew? i.w.crew with
  | some c => { agentOf i.w c with logged := i.s.waveLogged i.w.core i.w.key, group := i.s.issues + 1 }
  | none => { core := i.w.core, wave := i.w.key, crew := i.w.crew, launch := 0, priv := false, tindex := 0, phase := none }

def ordAcquire (o : BitVec 2) : Bool := o.getLsbD 0
def ordRelease (o : BitVec 2) : Bool := o.getLsbD 1
/-- The acquire scope of an instruction, if it acquires. -/
def acqScope (x : LM) : Option Scope := if ordAcquire x.ord then some (scopeOf x.scp) else none

/-! ### The side log (R302, R303) -/

def LogEntry.span (e : LogEntry) : Nat := opSpan e.op e.bytes e.data

/-- An unreplayed entry of the wave covers a byte of a range (R303). -/
def State.logCovers (s : State) (core wave : Nat) (va n : Nat) : Bool :=
  (s.core core).sideLog.any fun e => e.wave = wave && meet e.va.toNat e.span va n
/-- The wave holds an unreplayed entry for a 4 KiB page (R302). -/
def State.logPage (s : State) (core wave va : Nat) : Bool :=
  (s.core core).sideLog.any fun e => e.wave = wave && e.va.toNat / 4096 = va / 4096
def State.logRoom (s : State) (core : Nat) : Bool :=
  ((s.core core).sideLog.filter fun e => !e.give).length < Config.sideLogEntries
def State.logAccess (s : State) (core : Nat) (e : LogEntry) : State :=
  s.updCore core fun c => { c with sideLog := c.sideLog ++ [e] }

/-- The agent of an entry. -/
def State.entryAgent (s : State) (core : Nat) (e : LogEntry) : Agent :=
  { core := core, wave := e.wave, crew := e.crew, launch := e.launch, priv := e.priv, tindex := e.tindex
    phase := (s.crew? e.crew).bind (·.phase), group := e.group }

/-- Two entries of one instruction touch a common byte. -/
def State.entriesMeet (s : State) (core : Nat) (a b : LogEntry) : Bool :=
  meet a.va.toNat a.span b.va.toNat b.span ||
    (match s.xlat (core / 96) a.launch a.va.toNat, s.xlat (core / 96) b.launch b.va.toNat with
      | .ok p _ _, .ok q _ _ => meet p a.span q b.span
      | _, _ => false)

/-- The entries that the oldest of a list replays with: the fewest of its instruction, in their order, that share no byte with
its later ones, so that no other access enters between its overlapping lanes (R157, R163). -/
def State.tiedEntries (s : State) (core : Nat) : List LogEntry → List LogEntry
  | [] => []
  | e :: es =>
    let mine := e :: es.takeWhile fun x => x.group = e.group
    let n := (List.range mine.length).find? fun n =>
      !((mine.take (n + 1)).any fun a => (mine.drop (n + 1)).any fun b => s.entriesMeet core a b)
    mine.take (n.getD 0 + 1)

/-- The oldest entries of a wave, which replay together. -/
def State.oldestEntries (s : State) (core wave : Nat) : List LogEntry :=
  s.tiedEntries core ((s.core core).sideLog.filter fun e => e.wave = wave)

/-! ### The checks of a global access (R154) -/

/-- A lane's global access: address, element size, bytes touched, what it needs of the page, and for loft.sax the offset
and count. -/
structure GReq where
  va   : Nat
  n    : Nat
  span : Nat
  need : Need
  wr   : Bool := false
  loft : Bool := false
  sax  : Option (Int × Nat) := none
  deriving DecidableEq, Repr

/-- The launch's code window: its first byte and its length (R31). -/
def State.codeWindow (s : State) (launch : Nat) : Nat × Nat :=
  match s.launch? launch with
  | some l => (l.codeBase, 5 * l.window)
  | none => (0, 0)

/-- Orders 1 to 3 of R154. -/
def GReq.early (q : GReq) (win : Nat × Nat) : Option (BitVec 8 × BitVec 16) :=
  if 2 ^ 52 ≤ q.va then some (0x06, 0x01)
  else if q.wr && meet q.va q.span win.1 win.2 then some (0x06, 0x03)
  else if q.va % q.n != 0 then some (0x04, 0)
  else match q.sax with
    | some (off, k) =>
      let x : Int := (q.va : Int) + off
      let lo : Int := (q.va / 4096 * 4096 : Nat)
      if k = 0 then none
      else if x % q.n != 0 then some (0x04, 0)
      else if lo + 4096 < q.va + k * q.n || x < lo || lo + 4096 < x + k * q.n then some (0x06, 0x07)
      else none
    | none => none

/-- Orders 5 and 6 of R154. -/
def State.lateCheck (s : State) (g : Agent) (q : GReq) (pa : Nat) (kind : PKind) (leaf : DWord) :
    Option (BitVec 8 × BitVec 16) :=
  if denies leaf g.priv q.need then some (0x06, 0x02)
  else if q.loft && !isLoft pa then some (0x06, 0x06)
  else if q.wr && kind = PKind.ds && (linesOf pa q.span).any (fun k => s.heldByOther g.phase (64 * k)) then some (0x07, 1)
  else none

/-! ### Reads that are not yet performed -/

/-- The pending result of a tag 0-7, or of the last T instruction without one (8). -/
def Wave.pendingAt (w : Wave) (slot : Nat) : Option Pending := if slot = 8 then w.direct else w.tag slot
def Wave.setPending (w : Wave) (slot : Nat) (p : Option Pending) : Wave :=
  if slot = 8 then { w with direct := p } else { w with tags := w.tags.set slot p }

/-- What the attempt to perform a read comes to: it must still wait, its lane holds a trap when it lands, or its bytes. -/
inductive LoadRes where
  | wait
  | late (t : LateTrap)
  | got (bs : List Byte)
  deriving DecidableEq, Repr

/-- The access of a pending read, as its instruction made it (R154). -/
def LaneLoad.req (x : LaneLoad) : GReq :=
  let loft := match x.atom with
    | some ⟨.loft .., _, _⟩ => true
    | _ => false
  { va := x.va.toNat, n := x.bytes, span := x.bytes, need := { r := true, w := x.atom.isSome }, wr := x.atom.isSome, loft := loft }

/-- Perform a read of global memory whose page is known: nothing from a poisoned line (R309); an atomic takes its place
there (R277). -/
def State.performGlobal (s : State) (g : Agent) (x : LaneLoad) (pa : Nat) (kind : PKind) : State × LoadRes :=
  if s.readBad g.core pa x.bytes then (s, .late { va := x.named })
  else match x.atom with
    | none =>
      let (s, bs) := s.readGlobal g kind x.acq pa x.bytes
      (s, .got bs)
    | some a => if s.dsWaits g kind a.op pa x.bytes a.data then (s, .wait) else
      let s := s.markDirty (g.core / 96) g.launch x.va.toNat
      let (s, old) := s.writeGlobal g kind a.op pa x.bytes a.data none x.va x.lane a.pc true
      (s, .got (toBytes (BitVec.ofNat 512 old) x.bytes))

/-- Reads of the wave that wait on the side log. -/
def LaneLoad.onLog (x : LaneLoad) : Bool := x.place = .logged

/-- An access of the wave that has waited on the side log, and was made before instruction `order`, is still to be performed:
an entry, or a read (R282). -/
def State.logBefore (s : State) (w : Wave) (order : Nat) : Bool :=
  ((s.core w.core).sideLog.any fun e => e.wave = w.key && e.group < order) ||
    (w.direct :: w.tags).any fun p => (p.getD {}).loads.any fun x => x.onLog && x.order < order

/-- Perform a read of global memory once no entry of the wave covers it (R303) and its home can be reached.  One that has
waited on the side log is translated now (log entry 69); on an SO page it comes after what was made before it (R282). -/
def State.tryGlobal (s : State) (w : Wave) (g : Agent) (x : LaneLoad) : State × LoadRes :=
  if s.logCovers w.core w.key x.va.toNat x.bytes then (s, .wait)
  else match x.place with
    | .global pa kind => if s.reaches (w.core / 96) pa then s.performGlobal g x pa kind else (s, .wait)
    | _ =>
      if s.walkHeld (w.core / 96) g.launch x.va.toNat g.priv x.req.need then (s, .wait)
      else match s.translateWrite (w.core / 96) g.launch x.va.toNat g.priv x.req.need with
        | (s, .fault d) => (s, .late ⟨0x05, d, x.named⟩)
        | (s, .ok pa kind leaf) =>
          match s.lateCheck g x.req pa kind leaf with
          | some (c, d) => (s, .late ⟨c, d, x.named⟩)
          | none =>
            if isWindow pa || !s.reaches (w.core / 96) pa || (kind = .so && s.logBefore w x.order) then (s, .wait)
            else s.performGlobal g x pa kind

/-- Perform a read, if it can be performed now. -/
def State.tryLoad (s : State) (w : Wave) (x : LaneLoad) : State × LoadRes :=
  match x.place with
  | .scratch crew off =>
    match s.crew? crew with
    | some c =>
      if c.badLines.any fun k => meet (64 * k) 64 off x.bytes then (s, .late { va := x.named })
      else (s, .got (SMap.getRun c.scratch off x.bytes))
    | none => (s, .got (List.replicate x.bytes 0))
  | .bank off =>
    match (s.crew? w.crew).bind fun c => s.launch? c.launch with
    | some l => (s, .got (SMap.getRun l.bank off x.bytes))
    | none => (s, .got (List.replicate x.bytes 0))
  | .global .. | .logged =>
    match s.crew? w.crew with
    | some c => s.tryGlobal w (agentOf w c) x
    | none => (s, .got (List.replicate x.bytes 0))

/-- The words of a loaded value (R156): 8- and 16-bit values extended to 32 bits. -/
def LaneLoad.words (x : LaneLoad) (bs : List Byte) : List (Nat × Word) :=
  let v := ofBytes bs
  if x.bytes < 4 then regWords x.reg x.lane 1 (BitVec.ofInt 512 (valueOf x.sx (8 * x.bytes) v))
  else regWords x.reg x.lane (x.bytes / 4) (BitVec.ofNat 512 v)

/-- The value for an s destination (R156). -/
def LaneLoad.scalar (x : LaneLoad) (bs : List Byte) : DWord :=
  if x.bytes < 4 then BitVec.ofInt 64 (valueOf x.sx (8 * x.bytes) (ofBytes bs)) else BitVec.ofNat 64 (ofBytes bs)

/-- A pending result with one read's value, or the trap it holds, in place of the read. -/
def Pending.took (p : Pending) (x : LaneLoad) (r : Except LateTrap (List Byte)) : Pending :=
  let p := { p with loads := p.loads.erase x }
  match r with
  | .error t => { p with poison := p.poison ++ [(x.lane, t)] }
  | .ok bs =>
    match x.toS with
    | some q => { p with sw := some (q.toNat, x.scalar bs) }
    | none => { p with vw := p.vw ++ x.words bs }

/-- Perform one pending read of a wave; false when it must still wait.  An acquire follows its read (R276). -/
def State.takeLoad (s : State) (key slot : Nat) (x : LaneLoad) : State × Bool :=
  match s.wave? key with
  | none => (s, true)
  | some w =>
    let put (s : State) (r : Except LateTrap (List Byte)) : State × Bool :=
      let s := match x.acq with
        | some sc => s.acquireAt w.core key sc
        | none => s
      (s.updWave key fun w => w.setPending slot ((w.pendingAt slot).map fun p => p.took x r), true)
    match s.tryLoad w x with
    | (_, .wait) => (s, false)
    | (s, .late t) => put s (.error t)
    | (s, .got bs) => put s (.ok bs)

/-- A read that every later access of the wave comes after: an acquire (R158), or one of an SO page (R282). -/
def LaneLoad.leads (x : LaneLoad) : Bool :=
  x.acq.isSome || (match x.place with
    | .global _ k => k = .so
    | _ => false)

/-- Perform the pending reads of a wave that are selected, and those that every later access comes after, but not those made
from instruction `until_` on; false when one must still wait. -/
def State.forceLoads (s : State) (key : Nat) (slots : List Nat) (sel : LaneLoad → Bool) (until_ : Option Nat := none) :
    State × Bool :=
  slots.foldl (fun acc slot =>
    match acc.1.wave? key with
    | none => acc
    | some w =>
      match w.pendingAt slot with
      | none => acc
      | some p => (p.loads.filter fun x => (sel x || x.leads) && until_.all fun n => x.order < n).foldl (fun acc x =>
          let (s, ok) := acc.1.takeLoad key slot x
          (s, acc.2 && ok)) acc) (s, true)

def allSlots : List Nat := List.range 9

/-- A pending read of these global bytes, or of bytes not yet translated that may be these; a UO page orders nothing (R277,
R283). -/
def LaneLoad.ofGlobal (pa n : Nat) (x : LaneLoad) : Bool :=
  match x.place with
  | .global p k => k != .uo && meet p x.bytes pa n
  | .logged => meet (x.va.toNat % 4096) x.bytes (pa % 4096) n
  | _ => false
/-- A pending read of these bytes of a launch's space. -/
def LaneLoad.ofVirtual (va n : Nat) (x : LaneLoad) : Bool :=
  match x.place with
  | .global _ k => k != .uo && meet x.va.toNat x.bytes va n
  | .logged => meet x.va.toNat x.bytes va n
  | _ => false
/-- A pending read of these scratchpad bytes. -/
def LaneLoad.ofScratch (crew off n : Nat) (x : LaneLoad) : Bool :=
  match x.place with
  | .scratch c o => c = crew && meet o x.bytes off n
  | _ => false

/-! ### Release and acquire points of a wave (R158, R170, R219, R304) -/

/-- Exposed records of a wave become visible: on its own site at a release of site scope or wider, on the other site at
device scope (R219). -/
def State.showRecords (s : State) (core key : Nat) (sc : Scope) : State :=
  let show1 (r : Nat × NegRec) : Nat × NegRec :=
    if r.2.wave = some key then (r.1, { r.2 with visible := true, wave := none }) else r
  let f (x : Site) : Site := { x with neg := { x.neg with rings := x.neg.rings.map show1 } }
  let s := if 3 ≤ scopeRank sc then s.updSite (core / 96) f else s
  if 4 ≤ scopeRank sc then s.updSite (1 - core / 96) f else s

/-- Every access that the wave issued earlier is performed at the scope, its side-log entries included; none when it must
still wait. -/
def State.releasePoint (s : State) (w : Wave) (sc : Scope) : Option State :=
  if s.waveLogged w.core w.key then none
  else
    match s.forceLoads w.key allSlots fun _ => true with
    | (_, false) => none
    | (s, true) => if s.releaseReady w.core sc then some (((s.fenceWave w.key).releaseAt w.core sc).showRecords w.core w.key sc) else none

/-! ### Writes to global memory (R154, R302) -/

/-- What one lane's access comes to; `later`: a returning form waits on the side log (R303); `far`: it needs a packet that
the link does not take (R385). -/
inductive LaneRes where
  | done (old : Nat)
  | trap (code : BitVec 8) (detail : BitVec 16)
  | poison
  | later
  | wait
  | far
  | full
  | refuse
  deriving DecidableEq, Repr

/-- A write of one lane to global memory, as the instruction or the replay of its entry performs it once its page is
mapped: the checks from order 5 on, the order of the wave's own reads, and the write.  An SO access comes after the wave's
entries and its reads that have waited on them (R282).  `until_`: the instruction, where the wave may have gone on since. -/
def State.writeMapped (s : State) (g : Agent) (q : GReq) (op : WriteOp) (data : List Byte) (rel : Option Scope)
    (ret : Bool) (lane : Nat) (pc : Word) (pa : Nat) (kind : PKind) (leaf : DWord) (until_ : Option Nat := none) :
    State × LaneRes :=
  match s.lateCheck g q pa kind leaf with
  | some (c, d) => (s, .trap c d)
  | none =>
    if isWindow pa then (s, .refuse)
    else if s.dsWaits g kind op pa q.n data then (s, .full)
    else if kind = .so && g.logged then (s, .wait)
    else if actsNow op kind g.phase && !s.reaches (g.core / 96) pa then (s, .far)
    else match s.forceLoads g.wave allSlots (fun x => x.ofGlobal pa q.span || (kind = .so && x.onLog)) until_ with
      | (s, false) => (s, .wait)
      | (s, true) =>
        if ret && s.readBad g.core pa q.span then (s, .poison)
        else
          let s := s.markDirty (g.core / 96) g.launch q.va
          let (s, old) := s.writeGlobal g kind op pa q.n data rel (BitVec.ofNat 64 q.va) lane pc ret
          (s, .done old)

/-- A write, atomic or loft command of one lane (R154, R302).  `ret`: a returning form, which never enters the log. -/
def State.writeLane (s : State) (g : Agent) (q : GReq) (op : WriteOp) (data : List Byte) (ord : BitVec 2)
    (scp : BitVec 3) (ret : Bool) (lane : Nat) (pc : Word) : State × LaneRes :=
  let log (s : State) (d : BitVec 16) : State × LaneRes :=
    if s.logRoom g.core then
      match s.forceLoads g.wave allSlots (LaneLoad.ofVirtual q.va q.span) with
      | (s, false) => (s, .wait)
      | (s, true) => (s.logAccess g.core ⟨g.wave, g.crew, g.launch, g.priv, g.tindex, op, q.n, ord, scp, BitVec.ofNat 64 q.va, data, pc,
        lane, d, g.group, false⟩, .done 0)
    else (s, .trap 0x05 d)
  match q.early (s.codeWindow g.launch) with
  | some (c, d) => (s, .trap c d)
  | none =>
    if ret && s.logCovers g.core g.wave q.va q.span then (s, .later)
    else if s.walkHeld (g.core / 96) g.launch q.va g.priv q.need then (s, .far)
    else match s.translateWrite (g.core / 96) g.launch q.va g.priv q.need with
      | (s, .fault d) => if ret then (s, .trap 0x05 d) else log s d
      | (s, .ok pa kind leaf) =>
        if !ret && s.logPage g.core g.wave q.va then log s (pageDetail 0 4)
        else s.writeMapped g q op data (if ordRelease ord then some (scopeOf scp) else none) ret lane pc pa kind leaf

/-! ### The lanes of one instruction -/

/-- What the lanes have done so far: old values by lane, traps, lanes that met poison, that wait on the side log, and that
the link holds, and why the instruction cannot issue. -/
structure LaneRun where
  s     : State
  outs  : List (Nat × Nat) := []
  traps : List LaneTrap := []
  bad   : List (Nat × DWord) := []
  later : List (Nat × DWord) := []
  held  : List Nat := []
  wait  : Bool := false
  full  : Option DWord := none
  stop  : Bool := false
  deriving DecidableEq, Repr

/-- Record one lane's result. -/
def LaneRun.add (r : LaneRun) (l : Nat) (va : DWord) (x : State × LaneRes) : LaneRun :=
  match x.2 with
  | .done old => { r with s := x.1, outs := r.outs ++ [(l, old)] }
  | .trap c d => { r with s := x.1, traps := r.traps ++ [{ lane := l, code := c, detail := d, addr := some va }] }
  | .poison => { r with s := x.1, bad := r.bad ++ [(l, va)] }
  | .later => { r with later := r.later ++ [(l, va)] }
  | .far => if x.1.numbers then { r with wait := true } else { r with held := r.held ++ [l] }
  | .wait => { r with wait := true }
  | .full => { r with wait := true, full := some (BitVec.ofNat 64 (va.toNat / 64 * 64)) }
  | .refuse => { r with stop := true }

/-- A trap of a lane whose operand cannot be read (R52). -/
def LaneRun.lost (r : LaneRun) (l : Nat) (d : BitVec 16) : LaneRun :=
  { r with traps := r.traps ++ [{ lane := l, code := 0x02, detail := d }] }

/-- The lanes in ascending order, each after the state that the earlier ones leave. -/
def runLanes (s : State) (ls : List Nat) (f : LaneRun → Nat → LaneRun) : LaneRun :=
  ls.foldl (fun r l => if r.wait || r.stop then r else f r l) { s := s }

/-- The effect of an instruction whose lanes have run. -/
def LaneRun.eff (r : LaneRun) : Eff :=
  { s := r.s, traps := r.traps, held := r.held, hold := r.wait, full := r.full, stop := if r.stop then some .deviceWindow else none }

/-- A release that the instruction makes before its lanes act; a body that cannot make it waits at issue. -/
def withRelease (i : Issue) (ord : BitVec 2) (scp : BitVec 3) (f : State → Eff) : Eff :=
  if ordRelease ord && !i.act.isEmpty then
    match i.s.releasePoint i.w (scopeOf scp) with
    | some s => f s
    | none => { s := i.s, hold := true }
  else f i.s

/-- The acquire that follows the lanes' accesses. -/
def acquiring (i : Issue) (ord : BitVec 2) (scp : BitVec 3) (s : State) : State :=
  if ordAcquire ord && !i.act.isEmpty then s.acquireAt i.w.core i.w.key (scopeOf scp) else s

/-! ### The scratchpad (R152, R154, R173, R197, R207) -/

/-- Where a scratchpad access goes. -/
inductive SAcc where
  | ok (crew off : Nat)
  | trap (code : BitVec 8) (detail : BitVec 16)
  | wait
  deriving DecidableEq, Repr

/-- The crews of a crew's gang: its own alone without GANG = 1 (R181). -/
def State.gangCrews (s : State) (c : Crew) : List Crew :=
  if recGang c.record then
    s.crews.filter fun d => recGang d.record && d.launch = c.launch && recGangId d.record = recGangId c.record
  else s.crews.filter fun d => d.key = c.key

/-- The ranks of a gang that have started, those that had completed before a member was requeued among them (R335, R337). -/
def State.gangRanks (s : State) (g : Gang) : List Nat :=
  g.started ++ (s.gangDone.filter fun d => d.1 = g.launch && d.2.1 = g.gid && !g.started.contains d.2.2).map (·.2.2)

/-- The crew of a gang rank, started or not (R152); `none` with true when it has started and ended. -/
def State.gangMember (s : State) (c : Crew) (rank : Nat) : Option Crew × Bool :=
  ((s.gangCrews c).find? fun d => (if recGang d.record then (recGrank d.record).toNat else 0) = rank,
   s.gangDone.contains (c.launch, (recGangId c.record).toNat, rank))

/-- A scratchpad span armed by a step that no mma.wait has covered (R197). -/
def State.armed (s : State) (c : Crew) (off n : Nat) : Bool :=
  (s.cluster c.cluster).steps.any fun m => m.crew = c.key && m.spans.any fun p => meet p.1 p.2 off n

/-- A tagged object in a range (R173, R209). -/
def Crew.tagged (c : Crew) (off n : Nat) : Bool := c.bars.any fun b => meet b.off 16 off n

/-- The checks of a scratchpad access of n bytes; a gang member that has ended has no scratchpad, and one that has not started
is waited for (R152; log entry 78). -/
def State.scratchAcc (s : State) (w : Wave) (gr : Bool) (a : DWord) (n : Nat) (wr : Bool) : SAcc :=
  match s.crew? w.crew with
  | none => .trap 0x06 0x04
  | some own =>
    let off := (a.extractLsb' 0 32).toNat
    let rank := (a.extractLsb' 32 3).toNat
    let size := if recGang own.record then (recGsize own.record).toNat + 1 else 1
    let at_ (c : Crew) : SAcc :=
      if c.scratchBytes ≤ off then .trap 0x06 0x04
      else if off % n != 0 then .trap 0x04 0
      else if wr && s.armed c off n then .trap 0x20 0
      else if wr && c.tagged off n then .trap 0x28 0
      else .ok c.key off
    if !gr then at_ own
    else if size ≤ rank then .trap 0x06 0x05
    else match s.gangMember own rank with
      | (some c, _) => at_ c
      | (none, true) => .trap 0x06 0x04
      | (none, false) => .wait

/-- Write scratchpad bytes. -/
def State.pokeScratch (s : State) (crew : Nat) (ws : List (Nat × Byte)) : State :=
  s.updCrew crew fun c => { c with scratch := SMap.setAll c.scratch ws }
def State.scratchByte (s : State) (crew a : Nat) : Byte :=
  match s.crew? crew with
  | some c => SMap.get c.scratch a
  | none => 0
def State.scratchBad (s : State) (crew off n : Nat) : Bool :=
  match s.crew? crew with
  | some c => c.badLines.any fun k => meet (64 * k) 64 off n
  | none => false

/-- A write, or an atomic, of one lane to a scratchpad (R157, R163, R207, R309). -/
def State.writeScratch (s : State) (g : Agent) (crew off : Nat) (op : WriteOp) (n : Nat) (data : List Byte) (ret : Bool)
    (lane : Nat) (pc : Word) (a : DWord) : State × LaneRes :=
  match s.forceLoads g.wave allSlots (LaneLoad.ofScratch crew off n) with
  | (s, false) => (s, .wait)
  | (s, true) =>
    let whole := op = .store && n = 64
    if s.scratchBad crew off n && !whole then
      if ret then (s, .poison) else (s.failLaunch g.launch g.tindex a lane pc 1 0x08, .done 0)
    else
      let s := if whole then s.updCrew crew fun c => { c with badLines := c.badLines.filter fun k => k != off / 64 } else s
      let (ws, old) := applyOp (s.scratchByte crew) op off n data
      (s.pokeScratch crew ws, .done old)

end Sys2Proof.Machine
end

