-- ==== Sys2Proof/Machine/Memory.lean ====
section
/-!
DEFINITION. Loads, stores and prefetch (06 R151-R161).
-/
namespace Sys2Proof.Machine

/-! ### Loads (R156) -/

/-- What one lane of a load comes to before it reads: where it reads, or why not. -/
inductive LoadAt where
  | read (x : LaneLoad)
  | trap (code : BitVec 8) (detail : BitVec 16) (va : DWord)
  | wait
  | far
  | refuse
  deriving DecidableEq, Repr

/-- Spaces of a load (R152). -/
inductive Space where
  | global
  | frame
  | scratch (gr : Bool)
  | bank
  deriving DecidableEq, Repr

/-- A read of the lane: address, place, size, extension and destination. -/
def laneLoad (l : Nat) (va : DWord) (p : Place) (n : Nat) (sx : Bool) (d : Sel) : LaneLoad :=
  { lane := l, va := va, named := va, place := p, bytes := n, sx := sx
    reg := match d with
      | .v r => r.toNat
      | _ => 0
    toS := match d with
      | .s r => some r
      | _ => none }

/-- A read of global memory, checked (R154).  One whose bytes an entry of the wave covers waits for it, and is translated
after it (R303). -/
def State.globalRead (s : State) (g : Agent) (l : Nat) (va : DWord) (n : Nat) (sx : Bool) (d : Sel) : State × LoadAt :=
  let q : GReq := { va := va.toNat, n := n, span := n, need := { r := true } }
  match q.early (s.codeWindow g.launch) with
  | some (c, dt) => (s, .trap c dt va)
  | none =>
    if s.logCovers g.core g.wave q.va n then (s, .read { laneLoad l va .logged n sx d with order := g.group })
    else if s.walkHeld (g.core / 96) g.launch q.va then (s, .far)
    else match s.translate (g.core / 96) g.launch q.va with
      | (s, .fault dt) => (s, .trap 0x05 dt va)
      | (s, .ok pa kind leaf) =>
        match s.lateCheck g q pa kind leaf with
        | some (c, dt) => (s, .trap c dt va)
        | none =>
          if isWindow pa then (s, .refuse)
          else if kind = .so && g.logged then (s, .wait)
          else (s, .read (laneLoad l va (.global pa kind) n sx d))

/-- ld.f reads at the frame pointer + a; every check names the lane's address a, whenever it is made (R152, R154). -/
def State.frameRead (s : State) (g : Agent) (fp : DWord) (l : Nat) (a : DWord) (n : Nat) (sx : Bool) (d : Sel) : State × LoadAt :=
  if 2 ^ 52 ≤ (fp + a).toNat then (s, .trap 0x06 0x01 a)
  else if fp = 0 || 4096 ≤ a.toNat then (s, .trap 0x06 0x04 a)
  else if a.toNat % n != 0 then (s, .trap 0x04 0 a)
  else match s.globalRead g l (fp + a) n sx d with
    | (s, .trap c dt _) => (s, .trap c dt a)
    | (s, .read y) => (s, .read { y with named := a })
    | r => r

/-- Where a lane of a load reads, by its space. -/
def State.loadAt (s : State) (w : Wave) (g : Agent) (sp : Space) (x : LM) (n : Nat) (sx : Bool) (l : Nat) : State × LoadAt :=
  let a := effAddr w x l
  match sp with
  | .global => s.globalRead g l a n sx x.d
  | .frame =>
    let fp := match s.crew? w.crew with
      | some c => recFrame c.record
      | none => 0
    s.frameRead g fp l a n sx x.d
  | .scratch gr =>
    match s.scratchAcc w gr a n false with
    | .ok c off => (s, .read (laneLoad l a (.scratch c off) n sx x.d))
    | .trap c dt => (s, .trap c dt a)
    | .wait => (s, .wait)
  | .bank =>
    let size := match s.launch? g.launch with
      | some la => la.bankBytes
      | none => 0
    if size ≤ a.toNat then (s, .trap 0x06 0x04 a)
    else if a.toNat % n != 0 then (s, .trap 0x04 0 a)
    else (s, .read (laneLoad l a (.bank a.toNat) n sx x.d))

/-- Whether a read must be performed when the instruction issues: an acquire, an SO page, or a load without a tag. -/
def readsNow (tagged acq : Bool) (x : LaneLoad) : Bool :=
  !tagged || acq || (match x.place with
    | .global _ k => k = .so
    | _ => false)

/-- The earlier pending reads of the wave that a read follows: those of its bytes (R277), and on an SO page those that have
waited on the side log (R282). -/
def LaneLoad.follows (x : LaneLoad) : LaneLoad → Bool :=
  match x.place with
  | .global pa k => fun y => y.ofGlobal pa x.bytes || (k = .so && y.onLog)
  | .logged => LaneLoad.ofVirtual x.va.toNat x.bytes
  | .scratch c off => LaneLoad.ofScratch c off x.bytes
  | .bank _ => fun _ => false

/-- A read of the other site that the link does not take now (R385). -/
def State.farNow (s : State) (w : Wave) (x : LaneLoad) : Bool :=
  match x.place with
  | .global pa _ => !s.reaches (w.core / 96) pa
  | _ => false

/-- The lanes of a load: the pending result, the lanes that trap, and those that the link holds. -/
structure LoadRun where
  s     : State
  pend  : Pending := {}
  traps : List LaneTrap := []
  held  : List Nat := []
  wait  : Bool := false
  stop  : Bool := false
  deriving DecidableEq, Repr

/-- An s destination: one lane performs the load for all (R156). -/
def oneForAll : Sel → Bool
  | .s _ => true
  | _ => false

/-- One lane needs a packet: a paused link holds it, and an open one that trains makes the wave wait (R385, R386).  With an
s destination one lane accesses for all that act, and they are held with it (log entry 80). -/
def LoadRun.far (r : LoadRun) (i : Issue) (toS : Bool) (l : Nat) : LoadRun :=
  if r.s.numbers then { r with wait := true } else { r with held := if toS then i.act else r.held ++ [l] }

/-- A read that must be performed when the instruction issues; a tagged one that waits on the side log stays pending
(R303). -/
def LoadRun.now (r : LoadRun) (i : Issue) (y : LaneLoad) : LoadRun :=
  match r.s.tryLoad i.w y with
  | (s, .wait) => if i.h.ta.isSome then { r with s := s, pend := { r.pend with loads := r.pend.loads ++ [y] } } else { r with wait := true }
  | (s, .late t) =>
    if i.h.ta.isSome then { r with s := s, pend := r.pend.took y (.error t) }
    else { r with s := s, traps := r.traps ++ [{ lane := y.lane, code := t.code, detail := t.detail, addr := some t.va }] }
  | (s, .got bs) => { r with s := s, pend := r.pend.took y (.ok bs) }

/-- One lane of a load. -/
def LoadRun.lane (r : LoadRun) (i : Issue) (sp : Space) (x : LM) (n : Nat) (sx : Bool) (l : Nat) : LoadRun :=
  if r.wait || r.stop then r
  else
    match r.s.loadAt i.w i.agent sp x n sx l with
    | (s, .trap c d va) =>
      { r with s := s, traps := r.traps ++ [{ lane := l, code := c, detail := d, addr := some va }] }
    | (_, .wait) => { r with wait := true }
    | (_, .far) => r.far i (oneForAll x.d) l
    | (_, .refuse) => { r with stop := true }
    | (s, .read y) =>
      match s.forceLoads i.w.key allSlots y.follows with
      | (_, false) => { r with wait := true }
      | (s, true) =>
        let y := { y with acq := acqScope x }
        let r := { r with s := s }
        if s.farNow i.w y && (readsNow i.h.ta.isSome (ordAcquire x.ord) y || !s.numbers) then r.far i (oneForAll x.d) l
        else if readsNow i.h.ta.isSome (ordAcquire x.ord) y then r.now i y
        else { r with pend := { r.pend with loads := r.pend.loads ++ [y] } }

/-- A load (R156): with an s destination only the lowest acting lane performs it, and where that lane traps s keeps its value
(log entry 92). -/
def loadBody (sp : Space) (x : LM) (n : Nat) (sx : Bool) (i : Issue) : Eff :=
  let ls := match x.d with
    | .s _ => i.act.take 1
    | _ => i.act
  let r := ls.foldl (fun r l => r.lane i sp x n sx l) ({ s := i.s } : LoadRun)
  { s := acquiring i x.ord x.scp r.s, traps := r.traps, pend := some r.pend, held := r.held, hold := r.wait
    stop := if r.stop then some .deviceWindow else none }

def execLdG (x : LM) (sz : Size) (sx nt : Bool) (s : State) : Result :=
  issue (.ldG x sz sx nt) (loadBody .global x sz.bytes sx) s
def execLdS (x : LM) (sz : Size) (sx gr : Bool) (s : State) : Result :=
  issue (.ldS x sz sx gr) (loadBody (.scratch gr) x sz.bytes sx) s
def execLdC (x : LM) (sz : Size) (sx : Bool) (s : State) : Result :=
  issue (.ldC x sz sx) (loadBody .bank x sz.bytes sx) s
def execLdF (x : LM) (sz : Size) (sx : Bool) (s : State) : Result :=
  issue (.ldF x sz sx) (loadBody .frame x sz.bytes sx) s

/-! ### Stores (R157) -/

/-- n bytes from a group of registers of a lane. -/
def groupBytes (w : Wave) (l r n : Nat) : List Byte :=
  ((List.range (n / 4)).flatMap fun k => toBytes (w.vreg (r + k) l) 4)

/-- The data of a store or of a non-returning form: n bytes of D (R153). -/
def storeData (w : Wave) (l n : Nat) (d : Sel) : Except (BitVec 16) (List Byte) :=
  match d with
  | .v r => .ok ((groupBytes w l r.toNat (max n 4)).take n)
  | _ =>
    match readOne w l (n = 8) d with
    | .ok x => .ok (toBytes x n)
    | .error e => .error e

/-- A store to global memory. -/
def storeGlobalBody (x : LM) (n : Nat) (i : Issue) : Eff :=
  withRelease i x.ord x.scp fun s =>
    (runLanes s i.act fun r l =>
      match storeData i.w l n x.d with
      | .error d => r.lost l d
      | .ok data =>
        let a := effAddr i.w x l
        r.add l a (r.s.writeLane i.agent { va := a.toNat, n := n, span := n, need := { w := true }, wr := true } .store data
          x.ord x.scp false l i.pc)).eff

/-- A store to a scratchpad. -/
def storeScratchBody (x : LM) (n : Nat) (gr : Bool) (i : Issue) : Eff :=
  withRelease i x.ord x.scp fun s =>
    (runLanes s i.act fun r l =>
      match storeData i.w l n x.d with
      | .error d => r.lost l d
      | .ok data =>
        let a := effAddr i.w x l
        match r.s.scratchAcc i.w gr a n true with
        | .ok c off => r.add l a (r.s.writeScratch i.agent c off .store n data false l i.pc a)
        | .trap c d => r.add l a (r.s, .trap c d)
        | .wait => r.add l a (r.s, .wait)).eff

def execStG (x : LM) (sz : Size) (nt : Bool) (s : State) : Result := issue (.stG x sz nt) (storeGlobalBody x sz.bytes) s
def execStS (x : LM) (sz : Size) (gr : Bool) (s : State) : Result :=
  issue (.stS x sz gr) (storeScratchBody x sz.bytes gr) s

/-- pf.g changes no result, no page bit and no register (R159). -/
def execPfG (x : LM) (s : State) : Result := issue (.pfG x) (fun i => { s := i.s }) s

end Sys2Proof.Machine
end

