-- ==== Sys2Proof/Machine/Atomic.lean ====
section
/-!
DEFINITION. Atomics (06 R162-R165), loft commands (R166-R169) and fences (R170, R171).
-/
namespace Sys2Proof.Machine

/-- The pending result of a returning form: the old values in n bytes, and the lanes that met poison (R163, R309). -/
def LaneRun.returning (r : LaneRun) (d : Sel) (n : Nat) : Pending :=
  let reg := match d with
    | .v v => v.toNat
    | _ => 0
  { vw := r.outs.flatMap fun p => regWords reg p.1 (n / 4) (BitVec.ofNat 512 p.2), poison := r.bad.map fun p => (p.1, { va := p.2 }) }

/-- The effect of a returning form.  With a tag, the lanes that wait on the side log stay pending (R303); without one a
poisoned lane traps at once (R309), and the wave waits. -/
def LaneRun.retEff (r : LaneRun) (i : Issue) (x : LM) (n : Nat) (op : WriteOp) (data : Nat → List Byte) : Eff :=
  if i.h.ta.isSome then
    { r.eff with pend := some { r.returning x.d n with
        loads := r.later.map fun p =>
          { laneLoad p.1 p.2 .logged n false x.d with
            acq := acqScope x, atom := some ⟨op, data p.1, i.pc⟩, order := i.agent.group } } }
  else
    { r.eff with
      traps := r.traps ++ r.bad.map fun p => { lane := p.1, code := 0x08, detail := 1, addr := some p.2 }
      pend := some { r.returning x.d n with poison := [] }
      hold := r.wait || !r.later.isEmpty }

/-- The data of an atomic: the group of a returning form and of cas, else as a store's (R153). -/
def atomData (w : Wave) (l n : Nat) (ret cas : Bool) (d : Sel) : Except (BitVec 16) (List Byte) :=
  match d with
  | .v r => .ok (groupBytes w l r.toNat (if cas then 2 * n else n))
  | _ => if ret || cas then .ok [] else storeData w l n d

/-- An atomic (R163): each acting lane in ascending order, one indivisible step each. -/
def atomBody (op : AtomOp) (x : LM) (f : AtomF) (i : Issue) : Eff :=
  let n := f.sz.bytes
  let ret := !f.nr
  withRelease i x.ord x.scp fun s =>
    let r := runLanes s i.act fun r l =>
      match atomData i.w l n ret (op = .cas) x.d with
      | .error d => r.lost l d
      | .ok data =>
        let a := effAddr i.w x l
        if f.sp then
          match r.s.scratchAcc i.w false a n true with
          | .ok c off => r.add l a (r.s.writeScratch i.agent c off (.atom op f.sgn) n data ret l i.pc a)
          | .trap c d => r.add l a (r.s, .trap c d)
          | .wait => r.add l a (r.s, .wait)
        else
          r.add l a (r.s.writeLane i.agent
            { va := a.toNat, n := n, span := n, need := { r := true, w := true }, wr := true } (.atom op f.sgn) data
            x.ord x.scp ret l i.pc)
    let e := if ret then r.retEff i x n (.atom op f.sgn) fun l => ((atomData i.w l n ret (op = .cas) x.d).toOption).getD [] else r.eff
    { e with s := acquiring i x.ord x.scp e.s }

def execAtomAdd (x : LM) (f : AtomF) (s : State) : Result := issue (.atomAdd x f) (atomBody .add x f) s
def execAtomSub (x : LM) (f : AtomF) (s : State) : Result := issue (.atomSub x f) (atomBody .sub x f) s
def execAtomMin (x : LM) (f : AtomF) (s : State) : Result := issue (.atomMin x f) (atomBody .min x f) s
def execAtomMax (x : LM) (f : AtomF) (s : State) : Result := issue (.atomMax x f) (atomBody .max x f) s
def execAtomAnd (x : LM) (f : AtomF) (s : State) : Result := issue (.atomAnd x f) (atomBody .and x f) s
def execAtomOr (x : LM) (f : AtomF) (s : State) : Result := issue (.atomOr x f) (atomBody .or x f) s
def execAtomXor (x : LM) (f : AtomF) (s : State) : Result := issue (.atomXor x f) (atomBody .xor x f) s
def execAtomExch (x : LM) (f : AtomF) (s : State) : Result := issue (.atomExch x f) (atomBody .exch x f) s
def execAtomInc (x : LM) (f : AtomF) (s : State) : Result := issue (.atomInc x f) (atomBody .inc x f) s
def execAtomDec (x : LM) (f : AtomF) (s : State) : Result := issue (.atomDec x f) (atomBody .dec x f) s
def execAtomCas (x : LM) (f : AtomF) (s : State) : Result := issue (.atomCas x f) (atomBody .cas x f) s

/-! ### Loft commands (R166-R168) -/

/-- A loft command of one element of n bytes; `ret` for a returning loft.cas. -/
def loftBody (op : LoftOp) (flt sgn : Bool) (x : LM) (n : Nat) (ret : Bool) (i : Issue) : Eff :=
  withRelease i x.ord x.scp fun s =>
    let r := runLanes s i.act fun r l =>
      match atomData i.w l n ret (op = .cas) x.d with
      | .error d => r.lost l d
      | .ok data =>
        let a := effAddr i.w x l
        r.add l a (r.s.writeLane i.agent
          { va := a.toNat, n := n, span := n, need := { r := true, w := true }, wr := true, loft := true }
          (.loft op flt sgn) data x.ord x.scp ret l i.pc)
    let e := if ret then r.retEff i x n (.loft op flt sgn) fun l => ((atomData i.w l n ret (op = .cas) x.d).toOption).getD [] else r.eff
    { e with s := acquiring i x.ord x.scp e.s }

def w64Bytes (w64 : Bool) : Nat := if w64 then 8 else 4

/-- D of loft.add, .min and .max: an inline or predicate value is converted to a floating-point type (R40, R166). -/
def loftData (w : Wave) (l n : Nat) (flt : Bool) (d : Sel) : Except (BitVec 16) (List Byte) :=
  if flt then
    match readSrc w (.dense 1 1) l 0 (.fp (if n = 8 then .f64 else .f32)) d with
    | .ok x => .ok (toBytes x n)
    | .error e => .error e
  else storeData w l n d

/-- loft.add, loft.min and loft.max, which return nothing. -/
def loftArith (op : LoftOp) (x : LM) (f : LoftF) (i : Issue) : Eff :=
  let n := w64Bytes f.w64
  withRelease i x.ord x.scp fun s =>
    (runLanes s i.act fun r l =>
      match loftData i.w l n f.flt x.d with
      | .error d => r.lost l d
      | .ok data =>
        let a := effAddr i.w x l
        r.add l a (r.s.writeLane i.agent
          { va := a.toNat, n := n, span := n, need := { r := true, w := true }, wr := true, loft := true }
          (.loft op f.flt f.sgn) data x.ord x.scp false l i.pc)).eff

def execLoftAdd (x : LM) (f : LoftF) (s : State) : Result := issue (.loftAdd x f) (loftArith .add x f) s
def execLoftMin (x : LM) (f : LoftF) (s : State) : Result := issue (.loftMin x f) (loftArith .min x f) s
def execLoftMax (x : LM) (f : LoftF) (s : State) : Result := issue (.loftMax x f) (loftArith .max x f) s
def execLoftCas (x : LM) (w64 nr : Bool) (s : State) : Result :=
  issue (.loftCas x w64 nr) (loftBody .cas false false x (w64Bytes w64) (!nr)) s

/-- loft.sax (R168): the scale, the offset to x and the count stand in a group of four registers. -/
def saxBody (x : LM) (n : Nat) (i : Issue) : Eff :=
  withRelease i x.ord x.scp fun s =>
    (runLanes s i.act fun r l =>
      let data := match x.d with
        | .v v => groupBytes i.w l v.toNat 16
        | _ => []
      let a := effAddr i.w x l
      r.add l a (r.s.writeLane i.agent
        { va := a.toNat, n := n, span := opSpan (.loft .sax true false) n data, need := { r := true, w := true }, wr := true
          loft := true, sax := some (saxOffset data, saxCount data) }
        (.loft .sax true false) data x.ord x.scp false l i.pc)).eff
def execLoftSax (x : LM) (w64 : Bool) (s : State) : Result := issue (.loftSax x w64) (saxBody x (w64Bytes w64)) s

/-! ### Fences (R170, R171) -/

/-- The order of a fence: every read of the wave is performed; with release every access, and the wave's entries have
replayed; with acquire narrower copies are dropped. -/
def State.fenceOrder (s : State) (w : Wave) (ord : BitVec 2) (scp : BitVec 3) : Option State :=
  let s := if ordRelease ord then s.releasePoint w (scopeOf scp)
    else match s.forceLoads w.key allSlots fun _ => true with
      | (s, true) => some s
      | (_, false) => none
  s.map fun s => if ordAcquire ord then s.acquireAt w.core w.key (scopeOf scp) else s

/-- A fence acts when a lane executes it with a true guard, and the wave waits until it completes. -/
def fenceBody (x : LM) (f : State → State) (i : Issue) : Eff :=
  if i.act.isEmpty then { s := i.s }
  else match i.s.fenceOrder i.w x.ord x.scp with
    | some s => { s := f s }
    | none => { s := i.s, hold := true }
def execFence (x : LM) (s : State) : Result := issue (.fence x) (fenceBody x id) s

/-- The engines within a scope drop their cached control blocks (R171). -/
def State.dropBlocks (s : State) (core : Nat) (sc : Scope) : State :=
  let near (k : Nat) : Bool :=
    match sc with
    | .wave | .crew | .gang => k = core / 8
    | .site => k / 12 = core / 96
    | .device | .system => true
  let s := { s with clusters := s.clusters.mapIdx fun k c => if near k then { c with blocks := [] } else c }
  let drop (x : Site) : Site := { x with blocks := [] }
  match sc with
  | .wave | .crew | .gang => s
  | .site => s.updSite (core / 96) drop
  | .device | .system => (s.updSite 0 drop).updSite 1 drop

def execFenceCb (x : LM) (s : State) : Result :=
  issue (.fenceCb x) (fun i => fenceBody x (fun s => s.dropBlocks i.w.core (scopeOf x.scp)) i) s

end Sys2Proof.Machine
end

