-- ==== Sys2Proof/Machine/Barrier.lean ====
section
/-!
DEFINITION. Barriers of a crew and gbar (06 R172-R182).
-/
namespace Sys2Proof.Machine

/-! ### Barrier objects (R172) -/

abbrev BarObj := BitVec 128

def BarObj.exp (b : BarObj) : BitVec 14 := b.extractLsb' 0 14
def BarObj.arr (b : BarObj) : BitVec 14 := b.extractLsb' 16 14
def BarObj.bytes (b : BarObj) : BitVec 25 := b.extractLsb' 32 25
def BarObj.xit (b : BarObj) : BitVec 14 := b.extractLsb' 64 14
def BarObj.ph (b : BarObj) : BitVec 16 := b.extractLsb' 80 16
/-- The object of given fields; reserved bits are 0. -/
def barObj (exp arr : BitVec 14) (bytes : BitVec 25) (xit : BitVec 14) (ph : BitVec 16) : BarObj :=
  0#32 ++ ph ++ 0#2 ++ xit ++ 0#7 ++ bytes ++ 0#2 ++ arr ++ 0#2 ++ exp

def Crew.barWord (c : Crew) (off : Nat) : BarObj := BitVec.ofNat 128 (ofBytes (SMap.getRun c.scratch off 16))
def Crew.setBarWord (c : Crew) (off : Nat) (b : BarObj) : Crew := { c with scratch := SMap.setRun c.scratch off (toBytes b 16) }
def Crew.slotAt (c : Crew) (off : Nat) : Option BarSlot := c.bars.find? fun b => b.off = off
def Crew.setSlot (c : Crew) (b : BarSlot) : Crew := { c with bars := c.bars.map fun x => if x.off = b.off then b else x }

def bit1024 (k : Nat) : BitVec 1024 := (1 : BitVec 1024) <<< k

/-! ### Opening (R176, R178, R179) -/

/-- check_open of R176: the object and slot after it, and whether it opened. -/
def openBar (b : BarObj) (sl : BarSlot) : BarObj × BarSlot × Bool :=
  if b.arr = b.exp && b.bytes = 0 then
    (barObj (b.exp - b.xit) 0 b.bytes 0 (b.ph + 1), { sl with arrived := 0 }, true)
  else (b, sl, false)

/-- CL_SLOPE of a crew's cluster. -/
def State.slopeNow (s : State) (crew : Nat) : Nat := (s.cluster (crew / 1024)).slope.toNat

/-- The waiting lanes of an opened barrier are let go, to be released under R179; the crew's progress counts restart
(R255). -/
def State.letGo (s : State) (crew off : Nat) : State :=
  let slope := s.slopeNow crew
  let free (x : Lane) : Lane := match x.block with
    | .barrier o acq => if o = off then { x with block := .released acq slope } else x
    | _ => x
  { s with waves := s.waves.map fun w =>
      if w.crew = crew then { w with lanes := w.lanes.map free, progress := 0 } else w }

/-- Store an object and its slot, then check_open. -/
def State.putBar (s : State) (crew : Nat) (b : BarObj) (sl : BarSlot) : State :=
  let (b, sl, opened) := openBar b sl
  let s := s.updCrew crew fun c => (c.setBarWord sl.off b).setSlot sl
  if opened then s.letGo crew sl.off else s

/-- arrive(L, B) for crew lane k: the token, or none for BARRIER_STATE (R176). -/
def State.arrive (s : State) (crew off k : Nat) : State × Option (BitVec 16) :=
  match s.crew? crew with
  | none => (s, none)
  | some c =>
    match c.slotAt off with
    | none => (s, none)
    | some sl =>
      if sl.cbuf || sl.arrived.getLsbD k then (s, none)
      else
        let b := c.barWord off
        (s.putBar crew (barObj b.exp (b.arr + 1) b.bytes b.xit b.ph)
          { sl with arrived := sl.arrived ||| bit1024 k, members := sl.members ||| bit1024 k }, some b.ph)

/-- A member lane exits, or its fragment is killed (R178). -/
def State.leaveBar (s : State) (crew k : Nat) (sl : BarSlot) : State :=
  match s.crew? crew with
  | none => s
  | some c =>
    if sl.cbuf || !sl.members.getLsbD k then s
    else
      let b := c.barWord sl.off
      let arr := if sl.arrived.getLsbD k then b.arr else b.arr + 1
      s.putBar crew (barObj b.exp arr b.bytes (b.xit + 1) b.ph) { sl with members := sl.members &&& ~~~ bit1024 k }

/-- A crew lane leaves every barrier of which it is a member. -/
def State.leaveBars (s : State) (crew k : Nat) : State :=
  match s.crew? crew with
  | none => s
  | some c => c.bars.foldl (fun s sl => s.leaveBar crew k sl) s

/-- A completed copy subtracts its bytes (R177, R208): the CODE it reports when it cannot. -/
def State.expectLess (s : State) (crew off n : Nat) : State × Option (BitVec 8) :=
  match s.crew? crew with
  | none => (s, some 0x2A)
  | some c =>
    match c.slotAt off with
    | none => (s, some 0x2A)
    | some sl =>
      if sl.cbuf then (s, some 0x2A)
      else
        let b := c.barWord off
        let v := b.bytes.toInt - n
        if v < -(2 ^ 24) then (s, some 0x29)
        else (s.putBar crew (barObj b.exp b.arr (BitVec.ofInt 25 v) b.xit b.ph) sl, none)

/-! ### The instructions -/

/-- The objects that the lanes name, by address, with the lanes in ascending order; and the lanes that fail orders 1 to 2
of R154; poison of the line stops none (log entry 76). -/
def nameObjects (i : Issue) (x : LM) (n : Nat) : List (Nat × Nat) × List LaneTrap :=
  i.act.foldl (fun acc l =>
    let a := effAddr i.w x l
    match i.s.scratchAcc i.w false a n false with
    | .ok _ off => (acc.1 ++ [(l, off)], acc.2)
    | .trap c d => (acc.1, acc.2 ++ [{ lane := l, code := c, detail := d, addr := some a }])
    | .wait => acc) ([], [])

/-- A trap of a barrier or semaphore instruction. -/
def stateTrap (i : Issue) (x : LM) (l : Nat) (code : BitVec 8) : LaneTrap :=
  { lane := l, code := code, addr := some (effAddr i.w x l) }

/-- D of a lane as a 32-bit value (log entry 79), or its LATCH_LOST trap. -/
def laneWord (i : Issue) (l : Nat) (d : Sel) : Except LaneTrap Word :=
  match readOne i.w l false d with
  | .ok v => .ok (v.setWidth 32)
  | .error e => .error { lane := l, code := 0x02, detail := e }

/-- Lanes whose D can be read, with the value; and the traps of the others (log entry 75). -/
def laneWords (i : Issue) (d : Sel) (ls : List (Nat × Nat)) : List (Nat × Nat × Word) × List LaneTrap :=
  ls.foldl (fun acc p => match laneWord i p.1 d with
    | .ok v => (acc.1 ++ [(p.1, p.2, v)], acc.2)
    | .error t => (acc.1, acc.2 ++ [t])) ([], [])

/-- The distinct second components, in the order of their first lanes. -/
def distinct (xs : List Nat) : List Nat := xs.foldl (fun acc x => if acc.contains x then acc else acc ++ [x]) []

/-- The lanes of bar.init whose object's 16 bytes lie in no armed span; the others take OPERAND_HAZARD, order 7 of R154. -/
def unarmed (i : Issue) (x : LM) (objs : List (Nat × Nat)) (ts : List LaneTrap) : List (Nat × Nat) × List LaneTrap :=
  match i.s.crew? i.w.crew with
  | none => (objs, ts)
  | some c =>
    (objs.filter fun p => !i.s.armed c p.2 16,
     ts ++ (objs.filter fun p => i.s.armed c p.2 16).map fun p => stateTrap i x p.1 0x20)

/-- bar.init (R175); where slots run out, the objects whose first lanes are lower get them (log entry 77). -/
def execBarInit (x : LM) (s : State) : Result :=
  issue (.barInit x) (fun i =>
    let (objs, ts) := nameObjects i x 16
    let (objs, ts) := unarmed i x objs ts
    let (ls, ts') := laneWords i x.d objs
    (distinct (ls.map fun p => p.2.1)).foldl (fun e off =>
      let named := ls.filter fun p => p.2.1 = off
      let n := (named.head?.map fun p => p.2.2.toNat).getD 0
      let bad := match e.s.crew? i.w.crew with
        | some c => (c.slotAt off).isSome || n < 1 || 1024 < n || 16 ≤ c.bars.length
        | none => true
      if bad then { e with traps := e.traps ++ named.map fun p => stateTrap i x p.1 0x2A }
      else { e with s := e.s.updCrew i.w.crew fun c =>
          { c.setBarWord off (barObj (BitVec.ofNat 14 n) 0 0 0 0) with bars := c.bars ++ [{ off := off, cbuf := false }] } })
      ({ s := i.s, traps := ts ++ ts' } : Eff)) s

/-- The lanes of bar.arrive and bar.sync: tokens by lane, and the traps. -/
def arriveLanes (i : Issue) (x : LM) (s : State) (after : State → Nat → Nat → BitVec 16 → State) :
    State × List (Nat × BitVec 16) × List LaneTrap :=
  let (objs, ts) := nameObjects i x 16
  objs.foldl (fun acc p =>
    let (s, toks, ts) := acc
    match s.arrive i.w.crew p.2 (crewLane i.w p.1) with
    | (s, some t) => (after s p.1 p.2 t, toks ++ [(p.1, t)], ts)
    | (s, none) => (s, toks, ts ++ [stateTrap i x p.1 0x2A])) (s, [], ts)

/-- The token is written before the next issue (R176). -/
def execBarArrive (x : LM) (s : State) : Result :=
  issue (.barArrive x) (fun i => withRelease i x.ord x.scp fun s =>
    let (s, toks, ts) := arriveLanes i x s fun s _ _ _ => s
    let e : Eff := { s := s, traps := ts }
    match x.d with
    | .v r => { e with vw := toks.map fun p => (32 * r.toNat + p.1, p.2.setWidth 32)
                       entry := laneEntry 1 x.d (toks.map fun p => (p.1, p.2.setWidth 64)) }
    | .s r => { e with sw := toks.head?.map fun p => (r.toNat, p.2.setWidth 64) }
    | _ => e) s

/-- wait(L, B, token): the lane is blocked while PH is the token; else its acquire is made at once (R176). -/
def State.waitBar (s : State) (i : Issue) (x : LM) (l off : Nat) (tok : BitVec 16) : State :=
  match s.crew? i.w.crew with
  | none => s
  | some c =>
    if (c.barWord off).ph = tok then
      s.updWave i.w.key fun w => w.updLanes [l] fun _ y => { y with block := .barrier off (acqScope x) }
    else acquiring i x.ord x.scp s

def execBarWait (x : LM) (s : State) : Result :=
  issue (.barWait x) (fun i =>
    let (objs, ts) := nameObjects i x 16
    let (ls, ts') := laneWords i x.d objs
    ls.foldl (fun e p =>
      match (e.s.crew? i.w.crew).bind fun c => c.slotAt p.2.1 with
      | some sl =>
        if sl.cbuf then { e with traps := e.traps ++ [stateTrap i x p.1 0x2A] }
        else { e with s := e.s.waitBar i x p.1 p.2.1 (p.2.2.setWidth 16) }
      | none => { e with traps := e.traps ++ [stateTrap i x p.1 0x2A] })
      ({ s := i.s, traps := ts ++ ts' } : Eff)) s

def execBarSync (x : LM) (s : State) : Result :=
  issue (.barSync x) (fun i => withRelease i x.ord x.scp fun s =>
    let (s, _, ts) := arriveLanes i x s fun s l off t => s.waitBar i x l off t
    { s := s, traps := ts }) s

/-- bar.expect (R177): a negative count, or a sum beyond 2^24 - 1, is EXPECT_OVERFLOW. -/
def execBarExpect (x : LM) (s : State) : Result :=
  issue (.barExpect x) (fun i =>
    let (objs, ts) := nameObjects i x 16
    let (ls, ts') := laneWords i x.d objs
    ls.foldl (fun e p =>
      match e.s.crew? i.w.crew with
      | none => { e with traps := e.traps ++ [stateTrap i x p.1 0x2A] }
      | some c =>
        match c.slotAt p.2.1 with
        | none => { e with traps := e.traps ++ [stateTrap i x p.1 0x2A] }
        | some sl =>
          let b := c.barWord p.2.1
          let k := p.2.2.toInt
          if sl.cbuf then { e with traps := e.traps ++ [stateTrap i x p.1 0x2A] }
          else if k < 0 || 2 ^ 24 - 1 < b.bytes.toInt + k then
            { e with traps := e.traps ++ [stateTrap i x p.1 0x29] }
          else
            let b' := barObj b.exp b.arr (BitVec.ofInt 25 (b.bytes.toInt + k)) b.xit b.ph
            { e with s := e.s.putBar i.w.crew b' sl })
      ({ s := i.s, traps := ts ++ ts' } : Eff)) s

/-- A lane of the crew is blocked on an object (R180, R209). -/
def State.lanesOn (s : State) (crew off : Nat) : Bool :=
  s.waves.any fun w => w.crew = crew && w.lanes.any fun y => match y.block with
    | .barrier o _ => o = off
    | .cbuf o _ _ => o = off
    | _ => false

/-- A circular buffer may be freed: every slot free, and no copy to it pending (R209). -/
def State.cbufIdle (s : State) (c : Crew) (off : Nat) : Bool :=
  let b := c.barWord off
  b.extractLsb' 72 8 = b.extractLsb' 48 8 &&
    !((s.cluster c.cluster).copies.any fun y => y.crew = c.key && y.cbuf = some off)

def execBarFree (x : LM) (s : State) : Result :=
  issue (.barFree x) (fun i =>
    let (objs, ts) := nameObjects i x 16
    (distinct (objs.map (·.2))).foldl (fun e off =>
      let bad := match e.s.crew? i.w.crew with
        | none => true
        | some c =>
          match c.slotAt off with
          | none => true
          | some sl =>
            e.s.lanesOn c.key off ||
              (if sl.cbuf then !e.s.cbufIdle c off else (c.barWord off).arr != 0 || (c.barWord off).bytes != 0)
      if bad then { e with traps := e.traps ++ (objs.filter fun p => p.2 = off).map fun p => stateTrap i x p.1 0x2A }
      else { e with s := e.s.updCrew i.w.crew fun c => { c with bars := c.bars.filter fun b => b.off != off } })
      ({ s := i.s, traps := ts } : Eff)) s

/-! ### gbar (R181) -/

/-- Crew lanes that still count: live, or parked in a fragment. -/
def State.countedLanes (s : State) (c : Crew) : List Nat :=
  (s.waves.filter fun w => w.crew = c.key).flatMap fun w =>
    (laneIds.filter fun l => (w.lane l).life != .exited).map fun l => crewLane w l

/-- The gang's phase opens when every crew has started and every live lane has arrived. -/
def State.checkGbar (s : State) (crew : Nat) : State :=
  match s.crew? crew with
  | none => s
  | some c =>
    let cs := s.gangCrews c
    let ranks := if recGang c.record then (recGsize c.record).toNat + 1 else 1
    let started := (List.range ranks).all fun k =>
      let m := s.gangMember c k
      m.1.isSome || m.2
    let arrived := cs.all fun d => (s.countedLanes d).all fun k => d.gbar.getLsbD k
    if started && arrived && cs.any (fun d => d.gbar != 0) then
      let free (x : Lane) : Lane := match x.block with
        | .gbar => { x with block := .released (some .gang) (s.slopeNow crew) }
        | _ => x
      let mine (w : Wave) : Bool := cs.any fun d => d.key = w.crew
      { s with
        waves := s.waves.map fun w => if mine w then { w with lanes := w.lanes.map free } else w
        crews := s.crews.map fun d => if cs.any fun e => e.key = d.key then { d with gbar := 0 } else d }
    else s

/-- Each acting lane arrives, with release at gang scope, and blocks. -/
def execGbar (x : LR) (s : State) : Result :=
  issue (.gbar x) (fun i =>
    if i.act.isEmpty then { s := i.s }
    else match i.s.releasePoint i.w .gang with
      | none => { s := i.s, hold := true }
      | some s =>
        let s := s.updCrew i.w.crew fun c => { c with gbar := i.act.foldl (fun m l => m ||| bit1024 (crewLane i.w l)) c.gbar }
        let s := s.updWave i.w.key fun w => w.updLanes i.act fun _ y => { y with block := .gbar }
        { s := s.checkGbar i.w.crew }) s

/-! ### Release of the lanes (R179) -/

/-- The acquires that a wave's released lanes owe, and the lanes let go. -/
def State.releaseWave (s : State) (key : Nat) : State :=
  match s.wave? key with
  | none => s
  | some w =>
    let s := w.lanes.foldl (fun s x => match x.block with
      | .released (some sc) _ => s.acquireAt w.core key sc
      | _ => s) s
    s.setWave { w with lanes := w.lanes.map fun x => match x.block with
      | .released _ _ => { x with block := .none }
      | _ => x }

/-- The waves of a crew with lanes to release, in ascending wave number. -/
def State.releasable (s : State) (crew : Nat) : List Nat :=
  ((s.crewWaves crew).filter fun w => w.lanes.any fun x => match x.block with
    | .released _ _ => true
    | _ => false).map Wave.key

/-- CL_SLOPE as it stood at the opening that a crew's first waiting wave is released from (R402). -/
def State.slopeOf (s : State) (crew : Nat) : Nat :=
  (((s.releasable crew).head?.bind s.wave?).bind fun w => w.lanes.findSome? fun x => match x.block with
    | .released _ n => some n
    | _ => none).getD 0

/-- One 16 ns slice: at most CL_SLOPE waves of the crew, all of them when it is 0 (R179). -/
def execBarrierReleaseSlice (crew : Nat) (s : State) : Result :=
  let ks := s.releasable crew
  let n := s.slopeOf crew
  .next { (if n = 0 then ks else ks.take n).foldl State.releaseWave s with held := [] }

/-- The waves that one slice can release go on together when their barrier opens (R179, R251); more of them wait for
BARRIER_RELEASE_SLICE. -/
def State.releaseOpened (s : State) : State :=
  s.crews.foldl (fun s c =>
    match s.releasable c.key with
    | [] => s
    | ks =>
      if s.slopeOf c.key = 0 || ks.length ≤ s.slopeOf c.key then { ks.foldl State.releaseWave s with held := [] }
      else s) s

end Sys2Proof.Machine
end

