-- ==== Sys2Proof/Machine/Crypto.lean ====
section
/-!
DEFINITION. The digest and the signature check that boot and Rosoinu name (17 R394, 18 R411-R413): SHA-512, and
RSASSA-PSS under RSA-4096 with SHA-512, MGF1 with SHA-512, a 64-byte salt and the public exponent 65,537.  The standards
that the rules name give the algorithms; their octet strings are big-endian (log entry 13).
-/
namespace Sys2Proof.Machine

/-! ### SHA-512 -/

/-- Constants 0 to 19. -/
def shaK0 : List DWord :=
  [0x428A2F98D728AE22, 0x7137449123EF65CD, 0xB5C0FBCFEC4D3B2F, 0xE9B5DBA58189DBBC,
   0x3956C25BF348B538, 0x59F111F1B605D019, 0x923F82A4AF194F9B, 0xAB1C5ED5DA6D8118,
   0xD807AA98A3030242, 0x12835B0145706FBE, 0x243185BE4EE4B28C, 0x550C7DC3D5FFB4E2,
   0x72BE5D74F27B896F, 0x80DEB1FE3B1696B1, 0x9BDC06A725C71235, 0xC19BF174CF692694,
   0xE49B69C19EF14AD2, 0xEFBE4786384F25E3, 0x0FC19DC68B8CD5B5, 0x240CA1CC77AC9C65]
/-- Constants 20 to 39. -/
def shaK1 : List DWord :=
  [0x2DE92C6F592B0275, 0x4A7484AA6EA6E483, 0x5CB0A9DCBD41FBD4, 0x76F988DA831153B5,
   0x983E5152EE66DFAB, 0xA831C66D2DB43210, 0xB00327C898FB213F, 0xBF597FC7BEEF0EE4,
   0xC6E00BF33DA88FC2, 0xD5A79147930AA725, 0x06CA6351E003826F, 0x142929670A0E6E70,
   0x27B70A8546D22FFC, 0x2E1B21385C26C926, 0x4D2C6DFC5AC42AED, 0x53380D139D95B3DF,
   0x650A73548BAF63DE, 0x766A0ABB3C77B2A8, 0x81C2C92E47EDAEE6, 0x92722C851482353B]
/-- Constants 40 to 59. -/
def shaK2 : List DWord :=
  [0xA2BFE8A14CF10364, 0xA81A664BBC423001, 0xC24B8B70D0F89791, 0xC76C51A30654BE30,
   0xD192E819D6EF5218, 0xD69906245565A910, 0xF40E35855771202A, 0x106AA07032BBD1B8,
   0x19A4C116B8D2D0C8, 0x1E376C085141AB53, 0x2748774CDF8EEB99, 0x34B0BCB5E19B48A8,
   0x391C0CB3C5C95A63, 0x4ED8AA4AE3418ACB, 0x5B9CCA4F7763E373, 0x682E6FF3D6B2B8A3,
   0x748F82EE5DEFB2FC, 0x78A5636F43172F60, 0x84C87814A1F0AB72, 0x8CC702081A6439EC]
/-- Constants 60 to 79. -/
def shaK3 : List DWord :=
  [0x90BEFFFA23631E28, 0xA4506CEBDE82BDE9, 0xBEF9A3F7B2C67915, 0xC67178F2E372532B,
   0xCA273ECEEA26619C, 0xD186B8C721C0C207, 0xEADA7DD6CDE0EB1E, 0xF57D4F7FEE6ED178,
   0x06F067AA72176FBA, 0x0A637DC5A2C898A6, 0x113F9804BEF90DAE, 0x1B710B35131C471B,
   0x28DB77F523047D84, 0x32CAAB7B40C72493, 0x3C9EBE0A15C9BEBC, 0x431D67C49C100D4C,
   0x4CC5D4BECB3E42B6, 0x597F299CFC657E2A, 0x5FCB6FAB3AD6FAEC, 0x6C44198C4A475817]
def shaK : List DWord := shaK0 ++ shaK1 ++ shaK2 ++ shaK3

/-- The eight words of the hash value. -/
structure ShaState where
  a : DWord
  b : DWord
  c : DWord
  d : DWord
  e : DWord
  f : DWord
  g : DWord
  h : DWord
  deriving DecidableEq, Repr

def shaInit : ShaState :=
  ⟨0x6A09E667F3BCC908, 0xBB67AE8584CAA73B, 0x3C6EF372FE94F82B, 0xA54FF53A5F1D36F1, 0x510E527FADE682D1,
   0x9B05688C2B3E6C1F, 0x1F83D9ABFB41BD6B, 0x5BE0CD19137E2179⟩

/-- One round with the constant k and the schedule word w. -/
def ShaState.round (x : ShaState) (k w : DWord) : ShaState :=
  let s1 := x.e.rotateRight 14 ^^^ x.e.rotateRight 18 ^^^ x.e.rotateRight 41
  let ch := (x.e &&& x.f) ^^^ (~~~x.e &&& x.g)
  let t1 := x.h + s1 + ch + k + w
  let s0 := x.a.rotateRight 28 ^^^ x.a.rotateRight 34 ^^^ x.a.rotateRight 39
  let maj := (x.a &&& x.b) ^^^ (x.a &&& x.c) ^^^ (x.b &&& x.c)
  ⟨t1 + (s0 + maj), x.a, x.b, x.c, x.d + t1, x.e, x.f, x.g⟩

/-- The rounds over the constants; `ws` holds the next 16 schedule words, oldest first. -/
def shaRounds : List DWord → List DWord → ShaState → ShaState
  | [], _, x => x
  | k :: ks, ws, x =>
    let w := ws.headD 0
    let a := ws.getD 1 0
    let b := ws.getD 14 0
    let s0 := a.rotateRight 1 ^^^ a.rotateRight 8 ^^^ (a >>> 7)
    let s1 := b.rotateRight 19 ^^^ b.rotateRight 61 ^^^ (b >>> 6)
    shaRounds ks (ws.tail ++ [w + s0 + ws.getD 9 0 + s1]) (x.round k w)

def ShaState.add (x y : ShaState) : ShaState :=
  ⟨x.a + y.a, x.b + y.b, x.c + y.c, x.d + y.d, x.e + y.e, x.f + y.f, x.g + y.g, x.h + y.h⟩

/-- The number of a big-endian string of bytes. -/
def beNat (bs : List Byte) : Nat := bs.foldl (fun n b => 256 * n + b.toNat) 0
/-- The big-endian string of n bytes of a number. -/
def beBytes (n x : Nat) : List Byte := (List.range n).map fun k => BitVec.ofNat 8 (x / 256 ^ (n - 1 - k))

/-- The 16 words of a block of 128 bytes. -/
def shaWords (bs : List Byte) : List DWord :=
  (List.range 16).map fun k => BitVec.ofNat 64 (beNat ((bs.drop (8 * k)).take 8))

/-- n blocks in turn. -/
def shaBlocks : Nat → List Byte → ShaState → ShaState
  | 0, _, x => x
  | n + 1, bs, x => shaBlocks n (bs.drop 128) (x.add (shaRounds shaK (shaWords (bs.take 128)) x))

/-- The message with its padding and length. -/
def shaPadded (bs : List Byte) : List Byte :=
  bs ++ [0x80] ++ List.replicate ((239 - bs.length % 128) % 128) 0 ++ beBytes 16 (8 * bs.length)

def sha512 (bs : List Byte) : List Byte :=
  let p := shaPadded bs
  let x := shaBlocks (p.length / 128) p shaInit
  [x.a, x.b, x.c, x.d, x.e, x.f, x.g, x.h].flatMap fun (w : DWord) => beBytes 8 w.toNat

/-! ### RSASSA-PSS -/

/-- b^65537 mod n. -/
def rsaPublic (n b : Nat) : Nat := ((List.range 16).foldl (fun x _ => x * x % n) (b % n)) * b % n

/-- n blocks of the mask of MGF1 from counter k. -/
def mgfBlocks (seed : List Byte) (k : Nat) : Nat → List Byte
  | 0 => []
  | n + 1 => sha512 (seed ++ beBytes 4 k) ++ mgfBlocks seed (k + 1) n

/-- The signature of a message verifies under a 512-byte modulus. -/
def pssVerify (modulus msg sig : List Byte) : Bool :=
  let n := beNat modulus
  let s := beNat sig
  if modulus.length != 512 || sig.length != 512 || n < 2 ^ 4095 || n ≤ s then false
  else
    let em := beBytes 512 (rsaPublic n s)
    let db := em.take 447
    let h := (em.drop 447).take 64
    let un := (db.zip (mgfBlocks h 0 7)).map fun p => p.1 ^^^ p.2
    let un := (un.headD 0 &&& 0x7F) :: un.tail
    let salt := un.drop 383
    em.getD 511 0 = 0xBC && (db.headD 0).toNat < 128 && un.take 383 = List.replicate 382 0 ++ [1] &&
      sha512 (List.replicate 8 0 ++ sha512 msg ++ salt) = h

/-- b^e mod n, for an exponent of 4,096 bits. -/
def modPow (b e n : Nat) : Nat :=
  (List.range 4096).foldl (fun x k => x * x % n * (if e.testBit (4095 - k) then b else 1) % n) 1

/-- The signature of a message under a modulus and a private exponent, with a salt of 64 bytes. -/
def pssSign (key : Nat × Nat) (msg salt : List Byte) : List Byte :=
  let h := sha512 (List.replicate 8 0 ++ sha512 msg ++ salt)
  let db := List.replicate 382 0 ++ [1] ++ salt
  let masked := (db.zip (mgfBlocks h 0 7)).map fun p => p.1 ^^^ p.2
  let em := (masked.headD 0 &&& 0x7F) :: masked.tail ++ h ++ [0xBC]
  beBytes 512 (modPow (beNat em) key.2 key.1)

end Sys2Proof.Machine
end

