-- ==== Sys2Proof/Machine/Control.lean ====
section
/-!
DEFINITION. Control flow (06 R145-R150): each acting lane moves its own PC.
-/
namespace Sys2Proof.Machine

/-- The link value written to a v or s register, with its latch entry (R145, R41). -/
def linkEff (i : Issue) (lk : Sel) (ls : List Nat) : Eff :=
  let v := (i.pc + 2).setWidth 64
  match lk with
  | .v r => { s := i.s, vw := ls.map fun l => (32 * r.toNat + l, i.pc + 2)
              entry := laneEntry 1 lk (ls.map fun l => (l, v)) }
  | .s r => { s := i.s, sw := if ls.isEmpty then none else some (r.toNat, v) }
  | _ => { s := i.s }

def execBra (x : LB) (s : State) : Result :=
  issue (.bra x) (fun i => { s := i.s, pcs := i.act.map fun l => (l, i.pc + x.tgt) }) s
def execCall (x : LB) (s : State) : Result :=
  issue (.call x) (fun i => { linkEff i x.lk i.act with pcs := i.act.map fun l => (l, i.pc + x.tgt) }) s

/-- The targets of the acting lanes, and the traps of those that cannot read theirs (R147, R52). -/
def targets (i : Issue) (a : Sel) : List (Nat × Word) × List LaneTrap :=
  i.act.foldl (fun acc l => match readOne i.w l false a with
    | .ok t => (acc.1 ++ [(l, t.setWidth 32)], acc.2)
    | .error d => (acc.1, acc.2 ++ [{ lane := l, code := 0x02, detail := d }])) ([], [])

def execBrx (x : LR) (s : State) : Result :=
  issue (.brx x) (fun i =>
    let (ts, tr) := targets i x.a
    { s := i.s, pcs := ts, traps := tr }) s
/-- callx reads the target before it writes the link (R147). -/
def execCallx (x : LR) (s : State) : Result :=
  issue (.callx x) (fun i =>
    let (ts, tr) := targets i x.a
    { linkEff i x.d (ts.map (·.1)) with pcs := ts, traps := tr }) s
/-- ret has the effect of brx (R147). -/
def execRet (x : LR) (s : State) : Result :=
  issue (.ret x) (fun i =>
    let (ts, tr) := targets i x.a
    { s := i.s, pcs := ts, traps := tr }) s

/-- Lanes of a wave exit: they leave their barriers, and the gang's gbar counts them no longer (R148, R178, R181). -/
def State.exitLanes (s : State) (key : Nat) (ls : List Nat) : State :=
  match s.wave? key with
  | none => s
  | some w =>
    let s := s.setWave (w.updLanes ls fun _ x => { x with life := .exited, block := .none })
    let s := ls.foldl (fun s l => s.leaveBars w.crew (crewLane w l)) s
    s.checkGbar w.crew

def execExit (x : LR) (s : State) : Result :=
  issue (.exit x) (fun i => { s := if i.act.isEmpty then i.s else i.s.exitLanes i.w.key i.act }) s
/-- yield defers its lanes; R23 then clears the bits when every live lane is deferred (R149). -/
def execYield (x : LR) (s : State) : Result :=
  issue (.yield x) (fun i => { s := i.s.updWave i.w.key fun w => w.updLanes i.act fun _ y => { y with defer := true } }) s
def execNop (x : LR) (s : State) : Result := issue (.nop x) (fun i => { s := i.s }) s

end Sys2Proof.Machine
end

