-- ==== Sys2Proof/Machine/Convert.lean ====
section
/-!
DEFINITION. Conversions: cvt (05 R135-R140) and mxq (R141, R142).
-/
namespace Sys2Proof.Machine

/-! ### One value -/

/-- The floating-point format of a type of cvt, of one half for packed types. -/
def cvtFmt : CvtTy → Fmt
  | .f64 => fF64 | .f32 => fF32 | .f16 | .f16x2 => fF16 | .bf16 | .bf16x2 => fBf16
  | .e4m3 => fE4m3 | .e5m2 => fE5m2 | .e2m1 => fE2m1
  | .e8m0 | .i8 | .i16 | .i32 | .i64 | .n8 | .n16 | .n32 | .n64 => fF32

/-- Width and signedness of an integer type of cvt. -/
def cvtInt : CvtTy → Nat × Bool
  | .i8 => (8, true) | .i16 => (16, true) | .i32 => (32, true) | .i64 => (64, true)
  | .n8 => (8, false) | .n16 => (16, false) | .n64 => (64, false) | _ => (32, false)

/-- A pattern of a narrow integer extended to its register (R68). -/
def extendInt (n : Nat) (sgn : Bool) (x : Nat) : Nat := if n < 32 then wrapOf 32 (valueOf sgn n x) else x

/-- Between floating-point formats (R136). -/
def cvtFloat (src dst : Fmt) (rm : Mode) (sat : Bool) (x : Nat) : Res :=
  match src.unpack x with
  | .nan .. => widenNan src dst x
  | .inf neg => if dst.inf then ⟨dst.signBit neg + dst.infBits, 0⟩ else ⟨dst.overflow rm sat neg, flOF ||| flIX⟩
  | .fin neg m e => dst.roundDyad rm (.ofFin neg m e) neg sat

/-- To an integer type (R137). -/
def cvtToInt (src : Fmt) (n : Nat) (sgn : Bool) (rm : Mode) (x : Nat) : Res :=
  match src.unpack x with
  | .nan .. => ⟨0, flIV⟩
  | .inf neg => ⟨if neg then minOf sgn n else maxOf sgn n, flIV⟩
  | .fin neg m e =>
    let (k, inexact) := if 0 ≤ e then (m * 2 ^ e.toNat, false) else roundUnits m (2 ^ (-e).toNat) 0 rm neg
    let v : Int := if neg then -(k : Int) else k
    if valueOf sgn n (maxOf sgn n) < v then ⟨maxOf sgn n, flIV⟩
    else if v < valueOf sgn n (minOf sgn n) then ⟨minOf sgn n, flIV⟩
    else ⟨wrapOf n v, if inexact then flIX else 0⟩

/-- From e8m0 (R139). -/
def cvtFromScale (dst : Fmt) (rm : Mode) (x : Nat) : Res :=
  if x = 255 then ⟨dst.defaultNan, 0⟩ else dst.roundDyad rm ⟨1, (x : Int) - 127⟩ false

/-- To e8m0 (R139). -/
def cvtToScale (src : Fmt) (rm : Mode) (x : Nat) : Res :=
  match src.unpack x with
  | .nan _ quiet _ => ⟨255, if quiet then 0 else flIV⟩
  | .inf neg => if neg then ⟨255, flIV⟩ else ⟨254, flOF ||| flIX⟩
  | .fin neg m e =>
    if m = 0 || neg then ⟨255, flIV⟩
    else
      let lo := expOf m e
      let one := 2 ^ Nat.log2 m
      let up := match rm with
        | .rtz | .rdn => false
        | .rup => m != one
        | .rne | .rna => 3 * one ≤ 2 * m
      let k := if up then lo + 1 else lo
      if 127 < k then ⟨254, flOF ||| flIX⟩
      else if k < -127 then ⟨0, flUF ||| flIX⟩
      else ⟨(k + 127).toNat, if m = one then 0 else flIX⟩

/-- Between integer types (R138). -/
def cvtIntInt (st dt : CvtTy) (sat : Bool) (x : Nat) : Res :=
  let (n, sgn) := cvtInt dt
  let v := valueOf (cvtInt st).2 (cvtInt st).1 (x % 2 ^ (cvtInt st).1)
  ⟨extendInt n sgn (if sat then satOf sgn n v else wrapOf n v), 0⟩

/-- cvt of one value (R136-R140); packed pairs convert each half (R67). -/
def cvtVal (st dt : CvtTy) (rm : Mode) (sat : Bool) (x : Nat) : Res :=
  if st.isPacked then
    let lo := cvtFloat (cvtFmt st) (cvtFmt dt) rm sat (x % 65536)
    let hi := cvtFloat (cvtFmt st) (cvtFmt dt) rm sat (x / 65536 % 65536)
    ⟨hi.bits * 65536 + lo.bits, lo.flags ||| hi.flags⟩
  else if st.isInt then
    if dt.isInt then cvtIntInt st dt sat x
    else (cvtFmt dt).roundDyad rm ⟨valueOf (cvtInt st).2 (cvtInt st).1 (x % 2 ^ (cvtInt st).1), 0⟩ false
  else if st = .e8m0 then cvtFromScale (cvtFmt dt) rm (x % 256)
  else if dt = .e8m0 then cvtToScale (cvtFmt st) rm (x % 2 ^ (cvtFmt st).width)
  else if dt.isInt then
    let r := cvtToInt (cvtFmt st) (cvtInt dt).1 (cvtInt dt).2 rm (x % 2 ^ (cvtFmt st).width)
    ⟨extendInt (cvtInt dt).1 (cvtInt dt).2 r.bits, r.flags⟩
  else cvtFloat (cvtFmt st) (cvtFmt dt) rm sat (x % 2 ^ (cvtFmt st).width)

def execCvt (x : LR) (rm : Rm) (sat : Bool) (dt st : CvtTy) (s : State) : Result :=
  issue (.cvt x rm sat dt st) (fun i => elemEff i x.extent dt.regs (dt = .i32) false x.d fun l k =>
    match readSrc i.w x.extent l k (.cv st) x.a with
    | .ok a => resElem i.w.fpcr (cvtVal st dt (rm.mode i.w.fpcr) sat a.toNat)
    | .error d => .error (0x02, d)) s

/-! ### mxq (R142) -/

/-- The greatest floor(log2 |x|) of the finite nonzero values. -/
def maxExp (vs : List Val) : Option Int :=
  vs.foldl (fun m v => match v with
    | .fin _ k e => if k = 0 then m else match m with
      | none => some (expOf k e)
      | some b => some (max b (expOf k e))
    | _ => m) none

/-- The scale code, the 32 codes and the flags. -/
def mxqOf (rm : Mode) (xs : List Nat) : Nat × List Nat × Flags :=
  let vs := xs.map fF32.unpack
  if vs.any fun v => v.isNan || v.isInf then
    (255, xs.map fun _ => 0, if vs.any fun v => v.isSnan || v.isInf then flIV else 0)
  else
    let sx := match maxExp vs with
      | none => -127
      | some e => max (-127) (e - 2)
    let rs := vs.map fun v => fE2m1.roundDyad rm ⟨v.dyad.m, v.dyad.e - sx⟩ v.neg
    ((sx + 127).toNat, rs.map (·.bits), if rs.any fun r => r.flags.getLsbD 4 then flIX else 0)

/-- Eight codes in a register. -/
def packCodes (qs : List Nat) : Word := BitVec.ofNat 32 (qs.foldr (fun q n => q + 16 * n) 0)

/-- What mxq does in one lane: the four registers of D and the scale, or its trap at element 0.  A latch as A cannot be read as 32
elements: LATCH_LOST at element 0 with the lowest detail of the 32 (log entry 88). -/
def mxqLane (i : Issue) (x : LR) (rm : Mode) (l : Nat) : Except LaneTrap (List Word × Word × Flags) :=
  let es := (List.range 32).map fun k => readSrc i.w x.extent l k (.fp .f32) x.a
  match lowestLost es with
  | some d => .error { lane := l, code := 0x02, detail := d }
  | none =>
    let (code, qs, fl) := mxqOf rm (es.map fun r => match r with
      | .ok v => v.toNat
      | .error _ => 0)
    match fpTrapCode i.w.fpcr fl with
    | some c => .error { lane := l, code := c }
    | none => .ok ((List.range 4).map (fun g => packCodes ((qs.drop (8 * g)).take 8)), BitVec.ofNat 32 code, fl)

def selV : Sel → Nat
  | .v r => r.toNat
  | _ => 0

/-- The latch entry of mxq is the group D, four registers (R50). -/
def execMxq (x : LR) (rm : Rm) (s : State) : Result :=
  issue (.mxq x rm) (fun i =>
    let outs := i.act.map fun l => (l, mxqLane i x (rm.mode i.w.fpcr) l)
    let good := outs.filterMap fun p => match p.2 with
      | .ok r => some (p.1, r)
      | .error _ => none
    { s := if good.all fun p => p.2.2.2 == (0 : Flags) then i.s else i.s.setWave (i.w.updLanes (good.map (·.1)) fun l y =>
        match good.find? fun p => p.1 = l with
        | some p => y.raise p.2.2.2
        | none => y)
      traps := outs.filterMap fun p => match p.2 with
        | .error t => some t
        | .ok _ => none
      vw := good.flatMap fun p =>
        ((List.range 4).map fun g => (32 * (selV x.d + g) + p.1, p.2.1.getD g 0)) ++ [(32 * selV x.b + p.1, p.2.2.1)]
      entry := some { wide := false, count := 4
                      elems := good.flatMap fun p => (List.range 4).map fun g =>
                        (32 * g + p.1, (p.2.1.getD g 0).setWidth 64) } }) s

end Sys2Proof.Machine
end

