-- ==== Sys2Proof/Machine/Engine.lean ====
section
/-!
DEFINITION. What the asynchronous engines share: the probe of the pages an operation touches (12 R306), reads and
writes by way of the probed pages, the status word that lands through a tag (07 R188), and control-block snapshots
(06 R171).
-/
namespace Sys2Proof.Machine

/-! ### Probed pages (R306) -/

def Pages.at (ps : Pages) (va : Nat) : Option (Nat × PKind) :=
  (ps.find? fun p => p.1 = va / 4096).map fun p => (p.2.1 + va % 4096, p.2.2)

/-- How a probe fails: PAGE or PROTECT with its detail and address, or a device window. -/
inductive ProbeFail where
  | page (detail : BitVec 16) (va : Nat)
  | protect (va : Nat)
  | window
  deriving DecidableEq, Repr

/-- A probe under way: the pages found and the failures so far, in probe order, and whether the link holds a walk (R385). -/
structure Probe where
  s     : State
  pages : Pages := []
  fails : List ProbeFail := []
  far   : Bool := false
  deriving DecidableEq, Repr

/-- Probe one page for an agent: the A bit, and for a write the D bit (R298, R306). -/
def Probe.page (p : Probe) (g : Agent) (need : Need) (va : Nat) : Probe :=
  if p.far || p.s.walkHeld (g.core / 96) g.launch va g.priv need then { p with far := true }
  else match (if need.w then p.s.translateWrite (g.core / 96) g.launch va g.priv need else p.s.translate (g.core / 96) g.launch va) with
  | (s, .fault d) => { p with s := s, fails := p.fails ++ [.page d va] }
  | (s, .ok pa kind leaf) =>
    if denies leaf g.priv need then { p with s := s, fails := p.fails ++ [.protect va] }
    else if isWindow pa then { p with s := s, fails := p.fails ++ [.window] }
    else
      { p with
        s := if need.w then s.markDirty (g.core / 96) g.launch va else s
        pages := if (p.pages.any fun q => q.1 = va / 4096) then p.pages else p.pages ++ [(va / 4096, pa - va % 4096, kind)] }

/-- Probe the pages of a range in ascending address. -/
def Probe.range (p : Probe) (g : Agent) (need : Need) (va n : Nat) : Probe :=
  if n = 0 then p
  else (List.range ((va + n - 1) / 4096 + 1 - va / 4096)).foldl (fun p k =>
    p.page g need (if k = 0 then va else (va / 4096 + k) * 4096)) p

/-- The pages hold both DS and other pages (R274). -/
def Pages.mixed (ps : Pages) : Bool := (ps.any fun p => p.2.2 = .ds) && ps.any fun p => p.2.2 != .ds

/-- The first page whose kind makes an operation straddle DS and other pages (R274). -/
def Pages.mixedAt (ps : Pages) : DWord :=
  match ps with
  | [] => 0
  | p :: _ =>
    match ps.find? fun q => (q.2.2 = .ds) != (p.2.2 = .ds) with
    | some q => BitVec.ofNat 64 (q.1 * 4096)
    | none => 0

/-- An engine instruction that needs a packet which the link does not take: a paused link holds its lanes, and an open one
that trains makes the wave wait (R385, R386). -/
def Issue.linkHeld (i : Issue) : Eff := if i.s.numbers then { s := i.s, hold := true } else { s := i.s, held := i.act }

/-- Every page's home can be reached from a site. -/
def State.reachesAll (s : State) (site : Nat) (ps : Pages) : Bool := ps.all fun p => s.reaches site p.2.1

/-! ### Reads and writes of an engine -/

/-- A range cut at multiples of `unit`. -/
def cutAt (unit : Nat) : Nat → Nat → Nat → List (Nat × Nat)
  | 0, _, _ => []
  | fuel + 1, a, n =>
    if n = 0 then []
    else
      let k := min n (unit - a % unit)
      (a, k) :: cutAt unit fuel (a + k) (n - k)
def cut (unit a n : Nat) : List (Nat × Nat) := cutAt unit (n / unit + 2) a n

/-- Bytes that an engine reads, each with the mark of a poisoned line. -/
abbrev Marked := List (Byte × Bool)

/-- Bytes at a physical address as the issuing crew sees them (R189, R275, R418); one of a poisoned line is marked, unless a
store of the whole line stands before it (R309). -/
def State.enginePa (s : State) (g : Agent) (kind : PKind) (pa n : Nat) : State × Marked :=
  let (s, bs) := s.readGlobal g kind none pa n
  (s, bs.mapIdx fun k b => (b, s.readBad g.core (pa + k) 1))

/-- Bytes of global memory through probed pages. -/
def State.engineRead (s : State) (g : Agent) (ps : Pages) (va n : Nat) : State × Marked :=
  (cut 4096 va n).foldl (fun acc seg =>
    match ps.at seg.1 with
    | some (pa, kind) =>
      let (s, bs) := acc.1.enginePa g kind pa seg.2
      (s, acc.2 ++ bs)
    | none => (acc.1, acc.2 ++ List.replicate seg.2 (0, false))) (s, [])

/-- Bytes of a crew's scratchpad. -/
def State.engineScratch (s : State) (crew off n : Nat) : Marked :=
  match s.crew? crew with
  | some c => (List.range n).map fun k => (SMap.get c.scratch (off + k), c.badLines.contains ((off + k) / 64))
  | none => List.replicate n (0, false)

/-- Bytes that an engine writes to global memory through probed pages, as stores of the crew (R207, R341); a line that another
phase holds is not written (R344). -/
def State.engineWrite (s : State) (g : Agent) (ps : Pages) (va : Nat) (bs : List Byte) : State :=
  (cut 64 va bs.length).foldl (fun s seg =>
    match ps.at seg.1 with
    | some (pa, kind) =>
      if kind = .ds && s.heldByOther g.phase pa then s
      else (s.writeGlobal g kind .store pa seg.2 ((bs.drop (seg.1 - va)).take seg.2) none (BitVec.ofNat 64 seg.1) 0 0).1
    | none => s) s

/-- The first byte that an engine writes in a DS line which another phase holds (R344). -/
def State.heldAway (s : State) (g : Agent) (ps : Pages) (rs : List (Nat × Nat)) : Option Nat :=
  ((rs.flatMap fun r => cut 64 r.1 r.2).find? fun seg => match ps.at seg.1 with
    | some (pa, .ds) => s.heldByOther g.phase pa
    | _ => false).map (·.1)

/-- The lines of DS pages that a write to global pages touches, first to last: physical line and address (R341). -/
def dsTouched (ps : Pages) (rs : List (Nat × Nat)) : List (Nat × DWord) :=
  ((rs.flatMap fun r => cut 64 r.1 r.2).filterMap fun seg => match ps.at seg.1 with
    | some (pa, .ds) => some (pa / 64, BitVec.ofNat 64 (seg.1 / 64 * 64))
    | _ => none).foldl (fun l p => if l.any fun q => q.1 = p.1 then l else l ++ [p]) []

/-- The address of the first line that a write needs in a phase table and that finds it full (R343). -/
def State.roomLine (s : State) (g : Agent) (ps : Pages) (rs : List (Nat × Nat)) : Option DWord :=
  if g.phase.isNone then none
  else [0, 1].findSome? fun x =>
    let t := (s.site x).dsLines
    let new := (dsTouched ps rs).filter fun l => Config.homeSite (64 * l.1) = some x && !(t.any fun d => d.line = l.1)
    (new[Config.phaseLines - t.length]?).map (·.2)

/-- The lines that a write to global pages needs in a phase table have room there. -/
def State.dsRoom (s : State) (g : Agent) (ps : Pages) (rs : List (Nat × Nat)) : Bool := (s.roomLine g ps rs).isNone

/-- Bytes that an engine writes to a scratchpad; a whole line clears its poison (R207). -/
def State.engineWriteScratch (s : State) (crew off : Nat) (bs : List Byte) : State :=
  s.updCrew crew fun c =>
    { c with
      scratch := SMap.setRun c.scratch off bs
      badLines := c.badLines.filter fun k => !(off ≤ 64 * k && 64 * (k + 1) ≤ off + bs.length) }

/-! ### The status word (R188) -/

/-- The pending status of an engine operation of the acting lanes. -/
def enginePend (i : Issue) (id : Nat) (d : Sel) : Pending := { engine := some id, lanes := i.act, d := d }

/-- The result of an operation is ready to land: its word at D. -/
def Pending.ready (p : Pending) (word : Word) : Pending :=
  match p.d with
  | .v r => { p with engine := none, vw := p.lanes.map fun l => (32 * r.toNat + l, word) }
  | .s r => { p with engine := none, sw := some (r.toNat, word.setWidth 64) }
  | _ => { p with engine := none }

/-- Deliver the status of operation `id` to the wave's pending result that waits for it. -/
def State.deliver (s : State) (key id : Nat) (word : Word) : State :=
  { s.updWave key (fun w =>
      let f (p : Option Pending) : Option Pending := p.map fun p => if p.engine = some id then p.ready word else p
      { w with tags := w.tags.map f, direct := f w.direct }) with held := [] }

/-- A status word (R188). -/
def statusWord (code : BitVec 8) (detail : BitVec 24) : Word := code ++ detail

/-! ### Control blocks (R171) -/

/-- A 64-byte snapshot of a control block: an engine may still hold the copy it took before.  What a crew of a phase sees on
a DS page is that crew's alone, and no copy of it is kept (R341). -/
def State.readBlock (s : State) (cached : List (Nat × BitVec 512)) (g : Agent) (kind : PKind) (pa : Nat) :
    State × BitVec 512 × List (Nat × BitVec 512) :=
  let (s, bs) := s.readGlobal g kind none pa 64
  let now := BitVec.ofNat 512 (ofBytes bs)
  let keeps := !(kind = .ds && g.phase.isSome)
  match cached.find? fun p => keeps && p.1 = pa with
  | some (_, old) =>
    if old != now && Config.takesCopy s.fresh 3 then ({ s with fresh := s.fresh + 1 }, old, cached)
    else ({ s with fresh := s.fresh + 1 }, now, (pa, now) :: cached.filter fun p => p.1 != pa)
  | none => (s, now, if keeps then (pa, now) :: cached else cached)

/-- The value of an s, v or inline operand of an engine instruction (R186): 32 bits, or 64 from an s register. -/
def engineOp (i : Issue) (wide : Bool) (x : Sel) : DWord :=
  match readOne i.w (onceLane i.act) wide x with
  | .ok v => v
  | .error _ => 0

/-- An engine instruction acts when a lane has a true guard (R186). -/
def once (i : Issue) (f : Eff) : Eff := if i.act.isEmpty then { s := i.s } else f

/-- One that writes n registers at D: whatever it writes, its entry at a v destination holds an element for each lane, zero
for those whose guard is false and for those that trap (R34, R50, R261). -/
def onceInto (i : Issue) (n : Nat) (d : Sel) (f : Eff) : Eff :=
  let e := once i f
  { e with entry := e.entry <|> laneEntry n d [] }

end Sys2Proof.Machine
end

