-- ==== Sys2Proof/Machine/Matrix.lean ====
section
/-!
DEFINITION. The matrix engine: tiles and handles (07 R190-R202), chunk arithmetic (03 R85-R89, 13 R311-R313), its step
queue and suspension (13 R310, R314), and the completion of mma.ld and mma.st.
-/
namespace Sys2Proof.Machine

/-! ### Tiles (R190, R191) -/

def State.tile (s : State) (k t : Nat) : Tile := (s.cluster k).tiles.getD t {}
def State.setTile (s : State) (k t : Nat) (x : Tile) : State :=
  s.updCluster k fun c => { c with tiles := c.tiles.set t x }

def Wave.handle (w : Wave) (h : Nat) : Option Nat := w.handles.getD h none
def Wave.setHandle (w : Wave) (h : Nat) (t : Option Nat) : Wave := { w with handles := w.handles.set h t }

/-- The handle that a selector names. -/
def selM : Sel → Nat
  | .m k => k.toNat
  | _ => 0

/-- A tile without an owner that no request has been granted. -/
def Cluster.freeTile (c : Cluster) : Option Nat :=
  (List.range Config.tilesPerCluster).find? fun t =>
    (c.tiles.getD t {}).owner.isNone && !(c.tileReqs.any fun r => r.tile = some t)

/-- Steps of a tile that no mma.wait has covered: the tile is open (R197). -/
def State.tileOpen (s : State) (k t key : Nat) : Bool := (s.cluster k).steps.any fun m => m.tile = t && m.wave = key

/-- The tile that a handle is bound to, or the one to bind: a granted tile, else a free one when no other wave asks before
(R190). -/
def State.tileFor (s : State) (w : Wave) (h : Nat) : Option Nat :=
  match w.handle h with
  | some t => some t
  | none =>
    let c := s.cluster w.cluster
    match c.tileReqs.find? fun r => r.wave = w.key with
    | some r => r.tile
    | none => if c.tileReqs.any fun r => r.tile.isNone then none else c.freeTile

/-- Bind a handle to a tile and set its layout, with summary and POISON clear (R200, R201). -/
def State.bindTile (s : State) (w : Wave) (h t : Nat) (wide : Bool) (m n : Nat) (elems : SMap 64) (poison : Bool) : State :=
  let s := s.updCluster w.cluster fun c => { c with tileReqs := c.tileReqs.filter fun r => r.wave != w.key }
  let s := s.updWave w.key fun w => w.setHandle h (some t)
  s.setTile w.cluster t { owner := some w.key, wide := wide, m := m, n := n, elems := elems, poison := poison }

/-- TILE_GRANT (R190): the first request without a tile takes a free one. -/
def execTileGrant (cluster : Nat) (s : State) : Result :=
  let c := s.cluster cluster
  match c.freeTile, c.tileReqs.find? fun r => r.tile.isNone with
  | some t, some q =>
    .next { s.setCluster cluster { c with tileReqs := c.tileReqs.map fun r => if r = q then { r with tile := some t } else r }
      with held := [] }
  | _, _ => .next s

/-- The shape in F10 (R192). -/
def shapeOf (f10 : BitVec 10) : Nat × Nat := (8 * ((f10.extractLsb' 7 3).toNat + 1), 8 * ((f10.extractLsb' 3 4).toNat + 1))

/-! ### mma.ld and mma.st move their tiles (R201) -/

end Sys2Proof.Machine

namespace Sys2Proof
open Machine

def StFmt.bytes : StFmt → Nat
  | .f64 => 8 | .f32 => 4 | .f16 | .bf16 => 2
def StFmt.fmt : StFmt → Fmt
  | .f64 => fF64 | .f32 => fF32 | .f16 => fF16 | .bf16 => fBf16

end Sys2Proof

namespace Sys2Proof.Machine

/-- Address of row i. -/
def rowAt (base : Nat) (stride : Int) (i : Nat) : Nat := ((base : Int) + i * stride).toNat

/-- The agent of an operation of a wave. -/
def State.opAgent (s : State) (key : Nat) : Option Agent :=
  match s.wave? key with
  | some w => (s.crew? w.crew).map fun c => { agentOf w c with unit := .matrix }
  | none => none

/-- Row i of a tile as bytes of a storage type, and the flags of its conversion. -/
def Tile.rowBytes (t : Tile) (ty : StFmt) (i : Nat) : List Byte × Flags :=
  (List.range t.n).foldl (fun acc j =>
    let x := (SMap.get t.elems (128 * i + j)).toNat
    let r : Res := match ty with
      | .f64 | .f32 => ⟨x, 0⟩
      | _ => cvtFloat fF32 ty.fmt .rne false x
    (acc.1 ++ toBytes (BitVec.ofNat 64 r.bits) ty.bytes, acc.2 ||| r.flags)) ([], 0)

/-- The ranges that an mma.st writes: rows of the tile. -/
def State.moveRows (s : State) (k : Nat) (m : MMove) : List (Nat × Nat) :=
  let t := s.tile k m.tile
  (List.range t.m).map fun i => (rowAt m.base m.stride i, t.n * m.sty.bytes)

/-- An mma.st stores its tile; the bytes of an open tile are free values, and its status is as usual (R197).  The landing is an
acquire at wave scope (R201).  A line that another phase holds is left out, and the status says so (R344; log entry 86). -/
def State.moveOut (s : State) (k : Nat) (g : Agent) (m : MMove) : State :=
  let t := s.tile k m.tile
  let rows := (List.range t.m).map fun i => t.rowBytes m.sty i
  let fl := rows.foldl (fun f r => f ||| r.2) t.summary
  let free (s : State) (r : List Byte) : List Byte := r.mapIdx fun n _ => Config.freeByte (s.fresh + n)
  let s := (rows.mapIdx fun i r => (i, r.1)).foldl (fun s p =>
    let bs := if m.opened then free s p.2 else p.2
    let s := if m.opened then { s with fresh := s.fresh + p.2.length } else s
    let a := rowAt m.base m.stride p.1
    if m.sp then s.engineWriteScratch m.crew a bs else s.engineWrite g m.pages a bs) s
  let code : BitVec 8 := if (s.heldAway g m.pages (s.moveRows k m)).isSome then 0x07 else 0
  (s.acquireAt g.core m.wave .wave).deliver m.wave m.id (statusWord code (fl.setWidth 24))

/-- An mma.ld loads its tile; elements of a poisoned line become default NaNs (R201). -/
def State.moveIn (s : State) (k : Nat) (g : Agent) (m : MMove) : State :=
  let t := s.tile k m.tile
  let w := if t.wide then 8 else 4
  let nan := if t.wide then fF64.defaultNan else fF32.defaultNan
  let (s, rows) := (List.range t.m).foldl (fun (acc : State × List Marked) i =>
    let a := rowAt m.base m.stride i
    if m.sp then (acc.1, acc.2 ++ [acc.1.engineScratch m.crew a (t.n * w)])
    else
      let (s, bs) := acc.1.engineRead g m.pages a (t.n * w)
      (s, acc.2 ++ [bs])) (s, [])
  let elem (r : Marked) (j : Nat) : BitVec 64 × Bool :=
    let e := (r.drop (j * w)).take w
    if e.any (·.2) then (BitVec.ofNat 64 nan, true) else (BitVec.ofNat 64 (ofBytes (e.map (·.1))), false)
  let cells := (rows.mapIdx fun i r => (List.range t.n).map fun j => (128 * i + j, elem r j)).flatten
  let bad := cells.any fun c => c.2.2
  let elems : SMap 64 := (cells.filter fun c => c.2.1 != 0).map fun c => (c.1, c.2.1)
  let s := s.setTile k m.tile { t with elems := elems, poison := bad }
  s.deliver m.wave m.id (statusWord (if bad then 0x08 else 0) 0)

/-- One move of a cluster, done and no longer listed. -/
def State.doMove (s : State) (k : Nat) (m : MMove) : State :=
  let s := s.updCluster k fun c => { c with moves := c.moves.filter fun x => x.id != m.id }
  match s.opAgent m.wave with
  | some g => if m.store then s.moveOut k g m else s.moveIn k g m
  | none => s

/-- A move of a tile can be done now: its pages can be reached, and a phase table has room for what it writes (R343). -/
def State.moveReady (s : State) (k : Nat) (m : MMove) : Bool :=
  match s.opAgent m.wave with
  | none => true
  | some g =>
    s.reachesAll (g.core / 96) m.pages && (!m.store || m.sp || s.dsRoom g m.pages (s.moveRows k m))

/-- The moves of a tile that were issued before `id` take effect first (R195); none when one must still wait. -/
def State.settleTile (s : State) (k t id : Nat) : Option State :=
  ((s.cluster k).moves.filter fun m => m.tile = t && m.id < id).foldl (fun o m => o.bind fun s =>
    if s.moveReady k m then some (s.doMove k m) else none) (some s)

/-! ### Operands of a step (R193) -/

end Sys2Proof.Machine

namespace Sys2Proof
open Machine

def MFmt.terms : MFmt → Nat
  | .f64 | .f32 | .f16 | .bf16 => 8
  | .e4m3 | .e5m2 => 16
  | .e2m1 => 32
def MFmt.fmt : MFmt → Fmt
  | .f64 => fF64 | .f32 => fF32 | .f16 => fF16 | .bf16 => fBf16 | .e4m3 => fE4m3 | .e5m2 => fE5m2 | .e2m1 => fE2m1
/-- Bytes of `n` stored elements of a row. -/
def MFmt.rowLen (f : MFmt) (n : Nat) : Nat :=
  match f with
  | .f64 => 8 * n | .f32 => 4 * n | .f16 | .bf16 => 2 * n | .e4m3 | .e5m2 => n | .e2m1 => (n + 1) / 2

end Sys2Proof

namespace Sys2Proof.Machine

/-- A descriptor: base, row stride, scale base and stride, metadata base and stride (R193, R317). -/
structure MDesc where
  base    : Nat
  stride  : Int
  sbase   : Nat
  sstride : Nat
  mbase   : Nat
  mstride : Nat
  deriving DecidableEq, Repr

def descOf (sp : Bool) (r : List DWord) : MDesc :=
  let a (k : Nat) : Nat := if sp then ((r.getD k 0).setWidth 32).toNat else (r.getD k 0).toNat
  let x := r.getD 1 0
  ⟨a 0, (x.setWidth 32).toInt, a 2, (x.extractLsb' 32 16).toNat, a 3, (x.extractLsb' 48 16).toNat⟩

/-- The arrays of an operand: base, stride, rows and bytes of a row. -/
def MDesc.arrays (d : MDesc) (f : MFmt) (rows k sparse : Nat) : List (Int × Int × Nat × Nat) :=
  let stored := if sparse = 0 then k else k / 16 * sparse
  [((d.base : Int), d.stride, rows, f.rowLen stored)] ++
    (if f = .e2m1 then [((d.sbase : Int), (d.sstride : Int), rows, k / 32)] else []) ++
    (if sparse = 0 then [] else [((d.mbase : Int), (d.mstride : Int), rows, (stored + 1) / 2)])

/-- Rows of an array as ranges. -/
def rowRanges (a : Int × Int × Nat × Nat) : List (Int × Nat) :=
  (List.range a.2.2.1).map fun (r : Nat) => (a.1 + (r : Int) * a.2.1, a.2.2.2)

/-- An array leaves its space (R194 order 6). -/
def outside (limit : Nat) (a : Int × Int × Nat × Nat) : Bool :=
  (rowRanges a).any fun p => p.1 < 0 || (limit : Int) < p.1 + p.2

/-- Scratchpad bytes of the crew of a wave. -/
def State.crewBytes (s : State) (key : Nat) : Nat :=
  match s.crew? key with
  | some c => c.scratchBytes
  | none => 0

/-- The check of an operand's arrays: the PROTECT detail of the first that leaves its space. -/
def rangeCheck (sp : Bool) (scratch : Nat) (arrs : List (Int × Int × Nat × Nat)) : Option (BitVec 16) :=
  if arrs.any (outside (if sp then scratch else 2 ^ 52)) then some (if sp then 0x04 else 0x01) else none

/-- The ranges of a step's arrays in scratchpad (R197). -/
def spansOf (sp : Bool) (arrs : List (Int × Int × Nat × Nat)) : List (Nat × Nat) :=
  if sp then arrs.flatMap fun a => (rowRanges a).map fun p => (p.1.toNat, p.2) else []

/-! ### The instructions at issue (R192-R197, R200-R202) -/

/-- Four consecutive s registers. -/
def Wave.sFour (w : Wave) (x : Sel) : List DWord :=
  match x with
  | .s r => (List.range 4).map fun k => w.sreg (r.toNat + k)
  | _ => []

def sparseOf (c : BitVec 2) : Nat := if c = 0 then 0 else 2 ^ c.toNat

/-- A trap of an engine instruction without an address. -/
def engineTrap (i : Issue) (code : BitVec 8) (detail : BitVec 16) : Eff := trapAll i code detail

/-- A step of the matrix engine (R192-R194): its checks, then its place in the queue.  Of two PROTECT details the lower is reported
(log entry 90). -/
def mmaStepEff (i : Issue) (x : LE) (f : MFmt) (asp bsp : Bool) : Eff :=
  let c := i.s.cluster i.w.cluster
  let (m, n) := shapeOf x.f10
  let sparse := sparseOf (x.f10.extractLsb' 1 2)
  let k := ((engineOp i false x.c).setWidth 32).toNat
  let da := descOf asp (i.w.sFour x.a)
  let db := descOf bsp (i.w.sFour x.b)
  let arrA := da.arrays f m k sparse
  let arrB := db.arrays f n k 0
  let scratch := i.s.crewBytes i.w.crew
  if i.s.waveLogged i.w.core i.w.key ||
      Config.stepEntries ≤ (c.steps.countP fun q => match q.state with
        | .queued | .suspended .. => true
        | _ => false) then
    { s := i.s, hold := true }
  else match i.w.handle (selM x.d) with
    | none => engineTrap i 0x22 0x01
    | some t =>
      let tile := c.tiles.getD t {}
      if tile.wide != (f = .f64) then engineTrap i 0x22 0x02
      else if tile.m != m || tile.n != n then engineTrap i 0x22 0x03
      else if k < 1 || 256 < k || k % f.terms != 0 || (sparse != 0 && k % 16 != 0) then engineTrap i 0x22 0x04
      else if da.base % 16 != 0 || da.stride % 16 != 0 || db.base % 16 != 0 || db.stride % 16 != 0 then engineTrap i 0x04 0
      else
        match rangeCheck asp scratch arrA, rangeCheck bsp scratch arrB with
        | some p, some q => engineTrap i 0x06 (if p.toNat ≤ q.toNat then p else q)
        | some p, none | none, some p => engineTrap i 0x06 p
        | none, none =>
          let st : MStep :=
            { wave := i.w.key, crew := i.w.crew, handle := selM x.d, tile := t, fmt := f, aSp := asp, bSp := bsp
              sparse := sparse, k := k, m := m, n := n, a := i.w.sFour x.a, b := i.w.sFour x.b
              spans := spansOf asp arrA ++ spansOf bsp arrB, order := i.s.nextId }
          { s := { i.s.setCluster i.w.cluster { c with steps := c.steps ++ [st] } with nextId := i.s.nextId + 1 } }

def execMmaStep (x : LE) (f : MFmt) (asp bsp : Bool) (s : State) : Result :=
  issue (.mmaStep x f asp bsp) (fun i => once i (mmaStepEff i x f asp bsp)) s

/-- The abort of a step as mma.wait reports it (R196). -/
def MStep.report (m : MStep) : Option (Nat × BitVec 32) :=
  match m.state with
  | .aborted code => some (m.order, statusWord code (BitVec.ofNat 24 (m.chunk % 64 * 8 + m.handle)))
  | _ => none

/-- Keep the first aborted step of a batch, in issue order. -/
def Wave.noteAbort (w : Wave) (b : Nat) (r : Option (Nat × BitVec 32)) : Wave :=
  match r, w.aborts.getD b none with
  | some x, some y => if x.1 < y.1 then { w with aborts := w.aborts.set b (some x) } else w
  | some x, none => { w with aborts := w.aborts.set b (some x) }
  | none, _ => w

/-- mma.commit (R196). -/
def execMmaCommit (x : LE) (s : State) : Result :=
  issue (.mmaCommit x) (fun i => once i (
    let b := (x.f10.extractLsb' 0 2).toNat
    let c := i.s.cluster i.w.cluster
    let mine (m : MStep) : Bool := m.wave = i.w.key && m.batch.isNone
    let s := i.s.setCluster i.w.cluster { c with steps := c.steps.map fun m => if mine m then { m with batch := some b } else m }
    { s := s.updWave i.w.key fun w => (c.steps.filter mine).foldl (fun w m => w.noteAbort b m.report) w })) s

/-- Every step assigned to a batch is complete. -/
def State.batchDone (s : State) (k key b : Nat) : Bool :=
  (s.cluster k).steps.all fun m => !(m.wave = key && m.batch = some b) || (match m.state with
    | .done | .aborted _ => true
    | _ => false)

/-- A completed wait covers the batch's steps; its status word (R196, R197). -/
def State.coverBatch (s : State) (k key b : Nat) : State × Word :=
  (s.updCluster k fun c => { c with steps := c.steps.filter fun m => !(m.wave = key && m.batch = some b) },
   match (s.wave? key).bind fun w => w.aborts.getD b none with
   | some (_, word) => word
   | none => 0)

/-- mma.wait (R196): at once when the batch is complete, else its lanes block. -/
def execMmaWait (x : LE) (st : Bool) (s : State) : Result :=
  issue (.mmaWait x st) (fun i => once i (
    let b := (x.f10.extractLsb' 0 2).toNat
    if i.s.batchDone i.w.cluster i.w.key b then
      let (s, word) := i.s.coverBatch i.w.cluster i.w.key b
      if st then
        let (vw, sw) := onceWrite i 1 x.d (word.setWidth 64)
        { s := s, vw := vw, sw := sw }
      else { s := s }
    else
      { s := i.s.updWave i.w.key fun w => w.updLanes i.act fun _ y =>
          { y with block := .mmaWait b (if st && !i.h.ws then some x.d else none) } })) s

/-- Wake the lanes that a completed batch lets go, with their status (R196, R251). -/
def State.wakeBatch (s : State) (k key b : Nat) : State :=
  match s.wave? key with
  | none => s
  | some w =>
    let waiting := laneIds.filter fun l => match (w.lane l).block with
      | .mmaWait c _ => c = b
      | _ => false
    if waiting.isEmpty || !s.batchDone k key b then s
    else
      let (s, word) := s.coverBatch k key b
      { s.updWave key (fun w => waiting.foldl (fun w l =>
          let w := match (w.lane l).block with
            | .mmaWait _ (some (.v r)) => w.setV [(32 * r.toNat + l, word)]
            | .mmaWait _ (some (.s r)) => w.setS r.toNat (word.setWidth 64)
            | _ => w
          w.updLanes [l] fun _ y => { y with block := .none }) w) with held := [] }

/-- mma.zero (R200): an unbound handle waits for a tile (R190). -/
def execMmaZero (x : LE) (f64 : Bool) (s : State) : Result :=
  issue (.mmaZero x f64) (fun i => once i (
    let (m, n) := shapeOf x.f10
    let h := selM x.d
    match i.s.tileFor i.w h with
    | none => { s := i.s, hold := true, want := true }
    | some t =>
      if (i.w.handle h).isSome && i.s.tileOpen i.w.cluster t i.w.key then engineTrap i 0x21 0
      else match i.s.settleTile i.w.cluster t i.s.nextId with
        | none => { s := i.s, hold := true }
        | some s => { s := s.bindTile i.w h t f64 m n [] false })) s

/-- mma.zero.free (R200). -/
def execMmaZeroFree (x : LE) (s : State) : Result :=
  issue (.mmaZeroFree x) (fun i => once i (
    let h := selM x.d
    match i.w.handle h with
    | none => { s := i.s }
    | some t =>
      if i.s.tileOpen i.w.cluster t i.w.key then engineTrap i 0x21 0
      else match i.s.settleTile i.w.cluster t i.s.nextId with
        | none => { s := i.s, hold := true }
        | some s => { s := (s.updWave i.w.key fun w => w.setHandle h none).setTile i.w.cluster t {} })) s

/-- What the probe of mma.ld and mma.st finds: orders 4 to 7 of R201. -/
inductive MoveAt where
  | ok (s : State) (base : Nat) (stride : Int) (pages : Pages)
  | trap (s : State) (code : BitVec 8) (detail : BitVec 16) (va : Option DWord)
  | window
  | far
  deriving DecidableEq, Repr

/-- Orders 4 to 7 of R201.  A line that another phase holds raises ORDER_MIX beside order 7 (R344; log entry 86). -/
def moveCheck (i : Issue) (x : LE) (sp : Bool) (rows len : Nat) (wr : Bool) : MoveAt :=
  let base := if sp then ((engineOp i true x.a).setWidth 32).toNat else (engineOp i true x.a).toNat
  let stride := (engineOp i true x.b).toInt
  let arr : Int × Int × Nat × Nat := ((base : Int), stride, rows, len)
  if base % 16 != 0 || stride % 16 != 0 then .trap i.s 0x04 0 none
  else match rangeCheck sp (i.s.crewBytes i.w.crew) [arr] with
    | some d => .trap i.s 0x06 d none
    | none =>
      if sp then .ok i.s base stride []
      else
        let p := (rowRanges arr).foldl (fun (p : Probe) r =>
          p.range i.agent { r := !wr, w := wr } r.1.toNat r.2) { s := i.s }
        if p.far then .far else match p.fails with
        | .page d va :: _ => .trap p.s 0x05 d (some (BitVec.ofNat 64 va))
        | .protect va :: _ => .trap p.s 0x06 0x02 (some (BitVec.ofNat 64 va))
        | .window :: _ => .window
        | [] =>
          if Pages.mixed p.pages then .trap p.s 0x07 0 (some (Pages.mixedAt p.pages))
          else match (if wr then p.s.heldAway i.agent p.pages ((rowRanges arr).map fun r => (r.1.toNat, r.2)) else none) with
            | some va => .trap p.s 0x07 1 (some (BitVec.ofNat 64 va))
            | none => .ok p.s base stride p.pages

/-- Accept a move of a tile. -/
def acceptMove (i : Issue) (s : State) (t : Nat) (store : Bool) (sty : StFmt) (sp : Bool) (base : Nat) (stride : Int)
    (pages : Pages) (opened : Bool) (c : Sel) : Eff :=
  let m : MMove := ⟨s.nextId, i.w.key, i.w.crew, t, store, sty, sp, base, stride, pages, opened⟩
  { s := { s.updCluster i.w.cluster (fun k => { k with moves := k.moves ++ [m] }) with nextId := s.nextId + 1 }
    pend := some (enginePend i s.nextId c) }

def execMmaLd (x : LE) (f64 sp : Bool) (s : State) : Result :=
  issue (.mmaLd x f64 sp) (fun i => once i (
    let (m, n) := shapeOf x.f10
    let h := selM x.d
    if i.s.waveLogged i.w.core i.w.key then { s := i.s, hold := true }
    else if match i.w.handle h with
      | some t => i.s.tileOpen i.w.cluster t i.w.key
      | none => false
    then engineTrap i 0x21 0
    else match moveCheck i x sp m (n * (if f64 then 8 else 4)) false with
      | .window => { s := i.s, stop := some .deviceWindow }
      | .far => i.linkHeld
      | .trap s c d va => { trapAll i c d va with s := s }
      | .ok s base stride pages =>
        match s.tileFor i.w h with
        | none => { s := i.s, hold := true, want := true }
        | some t => match s.settleTile i.w.cluster t s.nextId with
          | none => { s := i.s, hold := true }
          | some s => acceptMove i (s.bindTile i.w h t f64 m n [] false) t false .f32 sp base stride pages false x.c)) s

/-- mma.st (R199, R201): a poisoned tile is POISON after the checks 1 to 7, with DETAIL 0 (log entry 91). -/
def execMmaSt (x : LE) (t : StFmt) (sp : Bool) (s : State) : Result :=
  issue (.mmaSt x t sp) (fun i => once i (
    match i.w.handle (selM x.d) with
    | none => engineTrap i 0x22 0x01
    | some k => match i.s.settleTile i.w.cluster k i.s.nextId with
    | none => { s := i.s, hold := true }
    | some s =>
      let tile := s.tile i.w.cluster k
      if tile.wide != (t = .f64) then engineTrap i 0x22 0x02
      else match moveCheck { i with s := s } x sp tile.m (tile.n * t.bytes) true with
        | .window => { s := i.s, stop := some .deviceWindow }
        | .far => i.linkHeld
        | .trap s c d va => { trapAll i c d va with s := s }
        | .ok s base stride pages =>
          if tile.poison then { engineTrap i 0x08 0 with s := s }
          else acceptMove i s k true t sp base stride pages (s.tileOpen i.w.cluster k i.w.key) x.c)) s

/-- The progress word of a tile (R202, R314); an aborted tile stays so until mma.zero or mma.ld (R198). -/
def State.progress (s : State) (k t : Nat) : Word :=
  let tile := s.tile k t
  let q := (s.cluster k).steps.filter fun m => m.tile = t && (match m.state with
    | .queued | .suspended .. => true
    | _ => false)
  let susp := q.any fun m => match m.state with
    | .suspended .. => true
    | _ => false
  let st : BitVec 2 := if tile.aborted then 3 else if susp then 2 else if !q.isEmpty then 1 else 0
  let chunk := match q.head? with
    | some m => BitVec.ofNat 6 m.chunk
    | none => 0
  st ++ (if tile.poison then 1#1 else 0#1) ++ tile.summary ++ 0#8 ++ BitVec.ofNat 8 q.length ++ 0#2 ++ chunk

def execMmaProg (x : LE) (s : State) : Result :=
  issue (.mmaProg x) (fun i => onceInto i 1 x.d (
    let found := match i.w.handle (selM x.a) with
      | none => some (i.s, 0)
      | some t => (i.s.settleTile i.w.cluster t i.s.nextId).map fun s => (s, s.progress i.w.cluster t)
    match found with
    | none => { s := i.s, hold := true }
    | some (s, word) =>
      let (vw, sw) := onceWrite i 1 x.d (word.setWidth 64)
      { s := s, vw := vw, sw := sw, entry := laneEntry 1 x.d (i.act.map fun l => (l, word.setWidth 64)) })) s

/-! ### Chunk arithmetic (R85-R88, R313) -/

/-- The exact sum of a chunk's products. -/
inductive ChunkSum where
  | nan (iv : Bool)
  | inf (neg : Bool)
  | fin (x : Dyad)
  deriving DecidableEq, Repr

def chunkSum (ps : List (Val × Val)) : ChunkSum :=
  let nan := ps.any fun p => p.1.isNan || p.2.isNan
  let snan := ps.any fun p => p.1.isSnan || p.2.isSnan
  let zi := ps.any fun p => (p.1.isInf && p.2.isZero) || (p.1.isZero && p.2.isInf)
  let infs := ps.filterMap fun p =>
    if (p.1.isInf || p.2.isInf) && !p.1.isNan && !p.2.isNan && !p.1.isZero && !p.2.isZero then some (p.1.neg != p.2.neg) else none
  let both := infs.contains true && infs.contains false
  if nan || zi || both then .nan (snan || zi || both)
  else match infs with
    | n :: _ => .inf n
    | [] => .fin (ps.foldl (fun x p => x.add (p.1.dyad.mul p.2.dyad)) ⟨0, 0⟩)

/-- The quiet NaN that an accumulator holds (R86). -/
def accNan : Nat := 0x7FC00000

/-- A chunk into an f32 accumulator (R86, R313). -/
def addChunk (acc : Nat) (x : ChunkSum) : Res :=
  match x with
  | .nan iv => ⟨accNan, if iv then flIV else 0⟩
  | .inf neg => if (fF32.unpack acc).isNan then ⟨accNan, 0⟩ else fF32.add .rne acc (fF32.signBit neg + fF32.infBits)
  | .fin d =>
    if d.m = 0 then ⟨acc, 0⟩
    else match fF32.unpack acc with
      | .nan .. => ⟨accNan, 0⟩
      | .inf _ => ⟨acc, 0⟩
      | v => fF32.roundDyad .rne (v.dyad.add d) false

/-- A chunk of the fused chain of R85. -/
def fuseChunk (f : Fmt) (acc : Nat) (ps : List (Nat × Nat)) : Res :=
  ps.foldl (fun r p =>
    let q := f.fma .rne p.1 p.2 r.bits
    ⟨q.bits, r.flags ||| q.flags⟩) ⟨acc, 0⟩

/-! ### Fetching a chunk (R311) -/

/-- Why a chunk is not fetched. -/
inductive FetchStop where
  | page (va : Nat) (detail : BitVec 16)
  | abort (code : BitVec 8)
  | window
  | far
  deriving DecidableEq, Repr

/-- A fetch under way: the kind of the global pages so far, and whether a poisoned line was met (R199, R274). -/
structure Fetching where
  s    : State
  ds   : Option Bool
  bad  : Bool := false
  stop : Option FetchStop := none
  deriving DecidableEq, Repr

/-- Bytes of one array within one page; the link may hold the walk or the read (R385). -/
def Fetching.seg (f : Fetching) (g : Agent) (va n : Nat) : Fetching × Marked :=
  if f.s.walkHeld (g.core / 96) g.launch va then ({ f with stop := some .far }, [])
  else match f.s.translate (g.core / 96) g.launch va with
  | (s, .fault d) => ({ f with s := s, stop := some (.page va d) }, [])
  | (s, .ok pa kind leaf) =>
    let isDs : Bool := kind = .ds
    if denies leaf g.priv { r := true } then ({ f with s := s, stop := some (.abort 0x06) }, [])
    else if isWindow pa then ({ f with s := s, stop := some .window }, [])
    else if f.ds = some (!isDs) then ({ f with s := s, stop := some (.abort 0x07) }, [])
    else if !s.reaches (g.core / 96) pa then ({ f with stop := some .far }, [])
    else
      let (s, bs) := s.enginePa g kind pa n
      ({ f with s := s, ds := some isDs }, bs)

/-- Bytes of an array. -/
def Fetching.get (f : Fetching) (g : Agent) (sp : Bool) (crew va n : Nat) : Fetching × Marked :=
  if f.stop.isSome then (f, [])
  else if sp then (f, f.s.engineScratch crew va n)
  else (cut 4096 va n).foldl (fun acc seg =>
    if acc.1.stop.isSome then acc
    else
      let (f, bs) := acc.1.seg g seg.1 seg.2
      (f, acc.2 ++ bs)) (f, [])

/-- One element of a chunk: its position in the chunk, its bits, its exact value. -/
structure Term where
  k    : Nat
  bits : Nat
  val  : Val
  deriving DecidableEq, Repr

/-- Nibble p of a row that starts at byte p0 / 2. -/
def nibble (bs : Marked) (p0 p : Nat) : Nat × Bool :=
  let b := bs.getD (p / 2 - p0 / 2) (0, false)
  ((if p % 2 = 0 then b.1.toNat % 16 else b.1.toNat / 16), b.2)

/-- The value of an element under its block's scale (R66, R87). -/
def scaled (v : Val) (e : Nat) : Val :=
  match v with
  | .fin n m x => .fin n m (x + e - 127)
  | v => v

def quietNan : Val := .nan false true 0

/-- The elements of row r in a chunk: sparse rows by their metadata, e2m1 rows under their block's scale; elements of a
poisoned line are quiet NaNs (R193, R199).  A pruned position gives no term (R88; log entry 72). -/
def Fetching.row (f : Fetching) (g : Agent) (q : MStep) (isA : Bool) (r : Nat) : Fetching × List Term :=
  let sp := if isA then q.aSp else q.bSp
  let d := descOf sp (if isA then q.a else q.b)
  let sparse := if isA then q.sparse else 0
  let t := q.fmt.terms
  let k0 := q.chunk * t
  let (p0, p1) := if sparse = 0 then (k0, k0 + t) else (k0 / 16 * sparse, ((k0 + t - 1) / 16 + 1) * sparse)
  let fm := q.fmt.fmt
  let off := if q.fmt = .e2m1 then p0 / 2 else q.fmt.rowLen p0
  let len := if q.fmt = .e2m1 then (p1 - 1) / 2 - p0 / 2 + 1 else q.fmt.rowLen (p1 - p0)
  let (f, es) := f.get g sp q.crew (rowAt d.base d.stride r + off) len
  let (f, sc) := if q.fmt = .e2m1 then f.get g sp q.crew (d.sbase + r * d.sstride + q.chunk) 1 else (f, [])
  let (f, md) := if sparse = 0 then (f, []) else
    f.get g sp q.crew (d.mbase + r * d.mstride + p0 / 2) ((p1 - 1) / 2 - p0 / 2 + 1)
  let scale := sc.getD 0 (127, false)
  let elem (p : Nat) : Nat × Bool :=
    if q.fmt = .e2m1 then nibble es p0 p
    else
      let w := q.fmt.rowLen 1
      let bs := (es.drop ((p - p0) * w)).take w
      (ofBytes (bs.map (·.1)), bs.any (·.2))
  let terms := (List.range (p1 - p0)).filterMap fun n =>
    let p := p0 + n
    let (bits, bad) := elem p
    let meta_ := nibble md p0 p
    let k := if sparse = 0 then p else 16 * (p / sparse) + meta_.1
    let bad := bad || scale.2 || (sparse != 0 && meta_.2)
    if k < k0 || k0 + t ≤ k then none
    else
      let v := if bad || (q.fmt = .e2m1 && scale.1.toNat = 255) then quietNan
        else if q.fmt = .e2m1 then scaled (fm.unpack bits) scale.1.toNat else fm.unpack bits
      some (bad, (⟨k - k0, if bad then fm.defaultNan else bits, v⟩ : Term))
  ({ f with bad := f.bad || terms.any (·.1) }, terms.map (·.2))

/-- All rows of an operand. -/
def Fetching.rows (f : Fetching) (g : Agent) (q : MStep) (isA : Bool) : Fetching × List (List Term) :=
  (List.range (if isA then q.m else q.n)).foldl (fun acc r =>
    if acc.1.stop.isSome then acc
    else
      let (f, ts) := acc.1.row g q isA r
      (f, acc.2 ++ [ts])) (f, [])

/-- The element of B at position k of the chunk. -/
def termAt (ts : List Term) (k : Nat) : Term := (ts.find? fun t => t.k = k).getD ⟨k, 0, .fin false 0 0⟩

/-- One element of the tile after a chunk. -/
def chunkElem (fmt : MFmt) (acc : Nat) (a b : List Term) : Res :=
  match fmt with
  | .f64 | .f32 => fuseChunk fmt.fmt acc (a.map fun t => (t.bits, (termAt b t.k).bits))
  | _ => addChunk acc (chunkSum (a.map fun t => (t.val, (termAt b t.k).val)))

/-- The tile after a chunk. -/
def Tile.chunk (t : Tile) (fmt : MFmt) (a b : List (List Term)) (bad : Bool) : Tile :=
  let cells := (a.mapIdx fun i ra => b.mapIdx fun j rb =>
    (128 * i + j, chunkElem fmt (SMap.get t.elems (128 * i + j)).toNat ra rb)).flatten
  { t with
    elems := (cells.filter fun c => c.2.bits != 0).map fun c => (c.1, BitVec.ofNat 64 c.2.bits)
    summary := cells.foldl (fun fl c => fl ||| c.2.flags) t.summary
    poison := t.poison || bad }

/-! ### MMA_CHUNK_APPLY (R195, R198, R311) -/

def State.setStep (s : State) (k : Nat) (m : MStep) : State :=
  s.updCluster k fun c => { c with steps := c.steps.map fun x => if x.order = m.order then m else x }

/-- A step ends: its batch's first abort is noted, and waiting lanes wake. -/
def State.endStep (s : State) (k : Nat) (m : MStep) : State :=
  let s := { s.setStep k m with held := [] }
  match m.batch with
  | some b => (s.updWave m.wave fun w => w.noteAbort b m.report).wakeBatch k m.wave b
  | none => s

/-- The step may run: queued, with every earlier step on its tile complete (R195, R310). -/
def State.stepRuns (s : State) (k : Nat) (m : MStep) : Bool :=
  m.state = .queued && (s.cluster k).steps.all fun x =>
    !(x.tile = m.tile && x.order < m.order) || (match x.state with
      | .done | .aborted _ => true
      | _ => false)

/-- Abort a step, or drop the rest of it: the tile keeps the sum so far (R198). -/
def State.abortStep (s : State) (k : Nat) (m : MStep) (code : BitVec 8) : State :=
  (s.setTile k m.tile { s.tile k m.tile with aborted := true }).endStep k { m with state := .aborted code }

/-- The next chunk of a step whose tile is settled; a fetch that the link holds is made later (R385). -/
def State.applyChunk (s : State) (cluster : Nat) (m : MStep) (g : Agent) : Result :=
  let tile := s.tile cluster m.tile
  let (f, a) := ({ s := s, ds := m.ds } : Fetching).rows g m true
  let (f, b) := f.rows g m false
  match f.stop with
  | some (.page va d) =>
    .next { f.s.setStep cluster { m with state := .suspended (BitVec.ofNat 64 va) d, ds := f.ds } with held := [] }
  | some (.abort code) => .next (f.s.abortStep cluster m code)
  | some .window => .refused .deviceWindow
  | some .far => .next s
  | none =>
    let s := f.s.setTile cluster m.tile (tile.chunk m.fmt a b f.bad)
    let m := { m with chunk := m.chunk + 1, ds := f.ds }
    if m.k ≤ m.chunk * m.fmt.terms then .next (s.endStep cluster { m with state := .done })
    else .next (s.setStep cluster m)

def execMmaChunkApply (cluster idx : Nat) (s : State) : Result :=
  match (s.cluster cluster).steps[idx]? with
  | none => .next s
  | some m =>
    if !s.stepRuns cluster m then .next s
    else match s.settleTile cluster m.tile m.order with
      | none => .next s
      | some s =>
        if (s.tile cluster m.tile).aborted then .next (s.endStep cluster { m with state := .done })
        else match s.opAgent m.wave with
          | none => .next (s.endStep cluster { m with state := .done })
          | some g => s.applyChunk cluster m g

/-! ### The end of a wave (R190, R196) -/

/-- Every step and move of a wave is complete. -/
def State.matrixIdle (s : State) (w : Wave) : Bool :=
  let c := s.cluster w.cluster
  (c.steps.all fun m => m.wave != w.key || (match m.state with
    | .done | .aborted _ => true
    | _ => false)) && c.moves.all fun m => m.wave != w.key

/-- A wave's tiles are freed, and its steps, moves and requests dropped (R190, R220). -/
def State.dropMatrix (s : State) (w : Wave) : State :=
  { s.updCluster w.cluster (fun c =>
      { c with
        tiles := c.tiles.map fun t => if t.owner = some w.key then {} else t
        tileReqs := c.tileReqs.filter fun r => r.wave != w.key
        steps := c.steps.filter fun m => m.wave != w.key
        moves := c.moves.filter fun m => m.wave != w.key }) with held := [] }

end Sys2Proof.Machine
end

