-- ==== Sys2Proof/Machine/Negative.lean ====
section
/-!
DEFINITION. The Negative store: expose (07 R218, R219), insertion (16 R378, in Mem), band gathers (R379) and its clear
(R380).
-/
namespace Sys2Proof.Machine

def recView (r : BitVec 256) : BitVec 8 := r.extractLsb' 216 8
def recX (r : BitVec 256) : Nat := (r.extractLsb' 0 20).toNat
def recY (r : BitVec 256) : Nat := (r.extractLsb' 32 20).toNat

/-- The record with its reserved bits 0 (R218, R219). -/
def cleanRecord (r : BitVec 256) : BitVec 256 :=
  (0#32 ++ r.extractLsb' 56 168) ++ 0#4 ++ r.extractLsb' 24 28 ++ 0#4 ++ r.extractLsb' 0 20

/-- The record is discarded (R219). -/
def recordBad (r : BitVec 256) : Bool :=
  recView r = 0 || (recView r).extractLsb' 2 6 != 0 || 0xF000 ≤ recX r || 0xF000 ≤ recY r

/-- The copy of a record that goes to the other site: FLAGS bit 1 set (R219). -/
def overlapCopy (r : BitVec 256) : BitVec 256 := r ||| ((1 : BitVec 256) <<< 209)

/-- A count in 16 bits that saturates. -/
def satAdd16 (x : BitVec 16) (n : Nat) : BitVec 16 := BitVec.ofNat 16 (min 0xFFFF (x.toNat + n))

def Site.addDisc (t : Site) (n : Nat) : Site :=
  { t with neg := { t.neg with
      stat := t.neg.stat.extractLsb' 32 32 ++ satAdd16 (t.neg.stat.extractLsb' 16 16) n ++ t.neg.stat.extractLsb' 0 16 } }
def Site.addSkip (t : Site) (n : Nat) : Site :=
  { t with neg := { t.neg with
      stat := t.neg.stat.extractLsb' 16 48 ++ satAdd16 (t.neg.stat.extractLsb' 0 16) n } }

/-- A record names a site's store. -/
def recSite (r : BitVec 256) (x : Nat) : Bool := (recView r).getLsbD x

/-- One lane exposes a record (R219): its own site's copy is stored, the other's travels on the unordered class. -/
def State.exposeOne (s : State) (w : Wave) (r : BitVec 256) : State :=
  let r := cleanRecord r
  let x := w.core / 96
  if recordBad r then s.updSite x fun t => t.addDisc 1
  else
    let s := if recSite r x then s.insertRecord x (some w.key) r else s
    if recSite r (1 - x) then s.sendPacket ⟨w.core, .core, 1 - x, false⟩ (.record w.key (overlapCopy r)) else s

/-- The eight words of a lane's record. -/
def laneRecord (w : Wave) (r l : Nat) : BitVec 256 :=
  BitVec.ofNat 256 (ofBytes ((List.range 8).flatMap fun k => toBytes (w.vreg (r + k) l) 4))

/-- A lane's record travels to the other site. -/
def recFar (w : Wave) (r l : Nat) : Bool :=
  let q := laneRecord w r l
  !recordBad (cleanRecord q) && recSite q (1 - w.core / 96)

/-- expose acts per lane, in ascending order (R219).  Where the link gives no numbers it holds the lanes whose records
travel (R385); the wave waits while the flow's window is full (R288). -/
def execExpose (x : LE) (s : State) : Result :=
  issue (.expose x) (fun i =>
    match x.a with
    | .v r =>
      let far := i.act.countP (recFar i.w r.toNat)
      let held := if i.s.numbers then [] else i.act.filter (recFar i.w r.toNat)
      let sent := (i.s.flow ⟨i.w.core, .core, 1 - i.w.core / 96, false⟩).unacked.length
      if far != 0 && i.s.numbers && 4096 < sent + far then { s := i.s, hold := true }
      else
        { s := (i.act.filter fun l => !held.contains l).foldl (fun s l => s.exposeOne i.w (laneRecord i.w r.toNat l)) i.s
          held := held }
    | _ => { s := i.s }) s

/-! ### Band gathers (R379) -/

/-- The records of a band, newest first, with insertion numbers in [lo, hi). -/
def NegStore.band (n : NegStore) (b lo hi : Nat) : List NegRec :=
  ((n.rings.filter fun r => r.1 = b && lo ≤ r.2.order && r.2.order < hi).map (·.2)).foldl (fun l r =>
    (l.filter fun q => r.order < q.order) ++ [r] ++ l.filter fun q => !(r.order < q.order)) []

/-- A record is selected by the mask and the age limit. -/
def recSelected (mask : BitVec 8) (age now : Word) (r : BitVec 256) : Bool :=
  (recView r &&& mask) != 0 && (now - r.extractLsb' 64 32).toInt ≤ age.toNat

/-- Where a record of a ring lies (R292, R377). -/
def negAddr (site b order : Nat) : Nat := (if site = 0 then 0x010040000000 else 0x0100C0000000) + 0x200000 * b + 32 * (order % 65536)

/-- A record as a gather reads it: its bytes, marked when its line is poisoned and they are free values (R207, R404). -/
def State.negBytes (s : State) (site b : Nat) (r : NegRec) (draw : Nat) : Marked :=
  if s.lineBad (negAddr site b r.order) then (List.range 32).map fun k => (Config.freeByte (s.fresh + 32 * draw + k), true)
  else (toBytes r.words 32).map fun x => (x, false)

/-- A gather that was accepted at (M, low, now): the records written, and the slots it skips.  A record that is not yet
visible, or that a later clear has made ungatherable, may be returned or not (R380, R381), and so may one whose line is
poisoned. -/
def State.gather (s : State) (site b : Nat) (mask : BitVec 8) (age : Word) (limit : Nat) (m low : Nat) (now : Word) :
    List Marked × Nat :=
  let n := (s.site site).neg
  let lo := max low (m - 65536)
  let cleared := (SMap.get n.clears b).toNat
  let fold := (n.band b lo m).foldl (fun (acc : List Marked × Nat × Nat) r =>
    if limit ≤ acc.1.length then acc
    else
      let bad := s.lineBad (negAddr site b r.order)
      let free := !r.visible || r.order < cleared || bad
      let take := (bad || recSelected mask age now r.words) && (!free || Config.choice (s.fresh + (m - r.order)))
      (if take then acc.1 ++ [s.negBytes site b r (m - r.order)] else acc.1, acc.2.1 + 1, r.order)) ([], 0, m)
  let last := if limit ≤ fold.1.length then fold.2.2 else lo
  (fold.1, (m - last) - fold.2.1)

/-! ### ST_NEGCLR (R380) -/

/-- A write of ST_NEGCLR. -/
def State.writeNegClear (s : State) (site : Nat) (v : DWord) : State :=
  if v.getLsbD 0 then
    s.updSite site fun t => { t with neg := { t.neg with clears := t.neg.counts, stat := 0 } }
  else s

def execNegstoreClear (w : RegWrite) (s : State) : Result := .next (s.writeNegClear w.site w.value)

end Sys2Proof.Machine
end

