-- ==== Sys2Proof/Machine/Copy.lean ====
section
/-!
DEFINITION. The copy engine and circular buffers (07 R203-R211, 13 R318-R320).
-/
namespace Sys2Proof.Machine

/-! ### Templates (R203, R204) -/

def Tmpl.kind (t : Tmpl) : Nat := (t.extractLsb' 0 8).toNat
def Tmpl.dims (t : Tmpl) : Nat := (t.extractLsb' 8 2).toNat
def Tmpl.elem (t : Tmpl) : Nat := 2 ^ (t.extractLsb' 14 2).toNat
def Tmpl.srct (t : Tmpl) : BitVec 5 := t.extractLsb' 16 5
def Tmpl.dstt (t : Tmpl) : BitVec 5 := t.extractLsb' 21 5
def Tmpl.rm (t : Tmpl) : BitVec 3 := t.extractLsb' 26 3
def Tmpl.sat (t : Tmpl) : Bool := t.getLsbD 29
def Tmpl.srcSp (t : Tmpl) : Bool := t.getLsbD 32
def Tmpl.dstSp (t : Tmpl) : Bool := t.getLsbD 34
def Tmpl.be (t : Tmpl) : Bool := t.getLsbD 36
def Tmpl.cb (t : Tmpl) : Bool := t.getLsbD 37
def Tmpl.count0 (t : Tmpl) : Nat := (t.extractLsb' 64 32).toNat
def Tmpl.count1 (t : Tmpl) : Nat := (t.extractLsb' 96 16).toNat
def Tmpl.count2 (t : Tmpl) : Nat := (t.extractLsb' 112 16).toNat
def Tmpl.ss1 (t : Tmpl) : Int := (t.extractLsb' 128 32).toInt
def Tmpl.ss2 (t : Tmpl) : Int := (t.extractLsb' 160 32).toInt
def Tmpl.ds1 (t : Tmpl) : Int := (t.extractLsb' 192 32).toInt
def Tmpl.ds2 (t : Tmpl) : Int := (t.extractLsb' 224 32).toInt
def Tmpl.bar (t : Tmpl) : Nat := (t.extractLsb' 256 32).toNat
def Tmpl.cbuf (t : Tmpl) : Nat := (t.extractLsb' 288 32).toNat
def Tmpl.aux (t : Tmpl) : DWord := t.extractLsb' 320 64
def Tmpl.band (t : Tmpl) : Nat := (t.extractLsb' 320 8).toNat
def Tmpl.mask (t : Tmpl) : BitVec 8 := t.extractLsb' 328 8
def Tmpl.age (t : Tmpl) : Word := t.extractLsb' 352 32
/-- Counts above DIMS are 1 (R206). -/
def Tmpl.n1 (t : Tmpl) : Nat := if 1 ≤ t.dims then t.count1 else 1
def Tmpl.n2 (t : Tmpl) : Nat := if 2 ≤ t.dims then t.count2 else 1
def Tmpl.raw (t : Tmpl) : Bool := t.srct = 31

/-- The rounding code of a template (R54, R203). -/
def rmOf (c : BitVec 3) : Rm :=
  match c.toNat with
  | 1 => .rne | 2 => .rtz | 3 => .rup | 4 => .rdn | 5 => .rna | _ => .dyn

/-- The type pair of a template: both raw, or unpacked types that R140 lists. -/
def Tmpl.typesOk (t : Tmpl) : Bool :=
  if t.srct = 31 || t.dstt = 31 then t.srct = t.dstt
  else match decodeCvtTy t.srct, decodeCvtTy t.dstt with
    | some st, some dt => cvtPairOk st dt && !st.isPacked
    | _, _ => false

/-- A nonzero count or stride above DIMS (R206). -/
def Tmpl.aboveDims (t : Tmpl) : Bool :=
  (t.dims < 1 && (t.count1 != 0 || t.ss1 != 0 || t.ds1 != 0)) || (t.dims < 2 && (t.count2 != 0 || t.ss2 != 0 || t.ds2 != 0))

/-- The template is valid (step 2 of R206, R204, R211, R379). -/
def Tmpl.valid (t : Tmpl) : Bool :=
  t.extractLsb' 384 128 = 0 && t.extractLsb' 38 26 = 0 && t.extractLsb' 30 2 = 0 && t.extractLsb' 10 4 = 0 &&
  t.kind ≤ 2 && t.dims ≤ 2 && !t.getLsbD 33 && !t.getLsbD 35 && t.rm.toNat ≤ 5 &&
  (t.cb || t.cbuf = 0) && (t.be || t.bar = 0) && (!t.cb || t.dstSp) &&
  t.count0 != 0 && t.n1 != 0 && t.n2 != 0 && !t.aboveDims && t.typesOk &&
  (t.kind != 0 || t.aux = 0) &&
  (t.kind != 2 || (t.extractLsb' 336 16 = 0 && t.band ≤ 239 && t.raw && t.dims = 0 && !t.srcSp))

/-- Width in bits of an element of a type code, or of a raw element. -/
def typeBits (elem : Nat) (c : BitVec 5) : Nat :=
  match decodeCvtTy c with
  | none => 8 * elem
  | some t =>
    match t with
    | .f64 | .i64 | .n64 => 64
    | .f32 | .i32 | .n32 | .f16x2 | .bf16x2 => 32
    | .f16 | .bf16 | .i16 | .n16 => 16
    | .e2m1 => 4
    | .e4m3 | .e5m2 | .e8m0 | .i8 | .n8 => 8

def Tmpl.srcBits (t : Tmpl) : Nat := typeBits t.elem t.srct
def Tmpl.dstBits (t : Tmpl) : Nat := typeBits t.elem t.dstt
/-- Bytes of a run of dimension 0 on each side. -/
def Tmpl.srcRun (t : Tmpl) : Nat := (t.count0 * t.srcBits + 7) / 8
def Tmpl.dstRun (t : Tmpl) : Nat := if t.kind = 2 then 32 * t.count0 else (t.count0 * t.dstBits + 7) / 8

/-- The runs of a copy in the order of its loop: source offset, unless its index is unreadable, and destination offset
(R206). -/
def Tmpl.runs (t : Tmpl) (index : List (Option Word)) : List (Option Int × Int) :=
  if t.kind = 2 then [(none, 0)]
  else
    (List.range t.n2).flatMap fun (i2 : Nat) => (List.range t.n1).map fun (i1 : Nat) =>
      let r1 : Option Int := if t.kind = 1 then (index.getD i1 none).map fun x => (x.toNat : Int) else some (i1 : Int)
      (r1.map fun r => r * t.ss1 + (i2 : Int) * t.ss2, (i1 : Int) * t.ds1 + (i2 : Int) * t.ds2)

/-! ### Circular buffers (R209-R211) -/

def BarObj.base (b : BarObj) : Nat := (b.extractLsb' 0 32).toNat
def BarObj.size (b : BarObj) : Nat := (b.extractLsb' 32 16).toNat
def BarObj.num (b : BarObj) : Nat := (b.extractLsb' 48 8).toNat
def BarObj.fill (b : BarObj) : Nat := (b.extractLsb' 56 8).toNat
def BarObj.take (b : BarObj) : Nat := (b.extractLsb' 64 8).toNat
def BarObj.free (b : BarObj) : Nat := (b.extractLsb' 72 8).toNat
def BarObj.full (b : BarObj) : Nat := (b.extractLsb' 80 8).toNat
/-- A circular buffer object; reserved bits are 0. -/
def cbufObj (base size num fill take free full : Nat) : BarObj :=
  0#40 ++ BitVec.ofNat 8 full ++ BitVec.ofNat 8 free ++ BitVec.ofNat 8 take ++ BitVec.ofNat 8 fill ++ BitVec.ofNat 8 num ++
    BitVec.ofNat 16 size ++ BitVec.ofNat 32 base

/-- The tagged circular buffer at an offset. -/
def Crew.cbufAt (c : Crew) (off : Nat) : Option BarObj :=
  match c.slotAt off with
  | some b => if b.cbuf then some (c.barWord off) else none
  | none => none

/-- Slots that copies have claimed and not yet filled. -/
def State.filling (s : State) (c : Crew) (off : Nat) : Nat :=
  (s.cluster c.cluster).copies.countP fun y => y.crew = c.key && y.cbuf = some off && y.slot.isSome

/-- cbuf.init (R210). -/
def execCbufInit (x : LE) (s : State) : Result :=
  issue (.cbufInit x) (fun i => once i (
    match i.s.crew? i.w.crew with
    | none => { s := i.s }
    | some c =>
      let off := ((engineOp i false x.a).setWidth 32).toNat
      let g := engineOp i true x.b
      let base := (g.extractLsb' 0 32).toNat
      let size := (g.extractLsb' 32 16).toNat
      let num := (g.extractLsb' 48 8).toNat
      if c.scratchBytes ≤ off || c.scratchBytes < base + num * size then trapAll i 0x06 0x04
      else if off % 16 != 0 then trapAll i 0x04 0
      else if (c.slotAt off).isSome || 16 ≤ c.bars.length || num = 0 || size = 0 || size % 64 != 0 || base % 64 != 0 ||
          meet off 16 base (num * size) then trapAll i 0x2A 0
      else
        { s := i.s.setCrew { c.setBarWord off (cbufObj base size num 0 0 num 0) with
            bars := c.bars ++ [{ off := off, cbuf := true }] } })) s

/-- Take the oldest full slot: its base, and the object after it. -/
def takeSlot (b : BarObj) : Nat × BarObj :=
  (b.base + b.take * b.size, cbufObj b.base b.size b.num b.fill ((b.take + 1) % b.num) b.free (b.full - 1))

/-- cbuf.take (R210): its lanes take one slot, or block while none is full. -/
def execCbufTake (x : LE) (s : State) : Result :=
  issue (.cbufTake x) (fun i => once i (
    let off := ((engineOp i false x.a).setWidth 32).toNat
    match (i.s.crew? i.w.crew).bind fun c => (c.cbufAt off).map fun b => (c, b) with
    | none => trapAll i 0x2A 0
    | some (c, b) =>
      if b.full = 0 then
        { s := { i.s.updWave i.w.key (fun w => w.updLanes i.act fun _ y => { y with block := .cbuf off (if i.h.ws then none else some x.d) i.s.nextId }) with
            nextId := i.s.nextId + 1 } }
      else
        let (a, b) := takeSlot b
        let (vw, sw) := onceWrite i 1 x.d (BitVec.ofNat 64 a)
        { s := i.s.setCrew (c.setBarWord off b), vw := vw, sw := sw })) s

/-- The lanes that wait in cbuf.take for a buffer: wave, order of issue, lanes and destination. -/
def State.takers (s : State) (crew off : Nat) : List (Nat × Nat × Nat × Option Sel) :=
  (s.waves.filter fun w => w.crew = crew).flatMap fun w => laneIds.filterMap fun l => match (w.lane l).block with
    | .cbuf o d n => if o = off then some (n, w.key, l, d) else none
    | _ => none

/-- A full slot goes to the lanes that have waited longest (R211, R251). -/
def State.wakeTaker (s : State) (crew off : Nat) : State :=
  match s.crew? crew with
  | none => s
  | some c =>
    match c.cbufAt off with
    | none => s
    | some b =>
      let ts := s.takers crew off
      match ts.foldl (fun m t => match m with
          | none => some t.1
          | some n => some (min n t.1)) (none : Option Nat) with
      | none => s
      | some n =>
        if b.full = 0 then s
        else
          let (a, b) := takeSlot b
          let s := s.setCrew (c.setBarWord off b)
          let s := (ts.filter fun t => t.1 = n).foldl (fun s t => s.updWave t.2.1 fun w =>
            let w := match t.2.2.2 with
              | some (.v r) => w.setV [(32 * r.toNat + t.2.2.1, BitVec.ofNat 32 a)]
              | some (.s r) => w.setS r.toNat (BitVec.ofNat 64 a)
              | _ => w
            w.updLanes [t.2.2.1] fun _ y => { y with block := .none }) s
          { s with held := [] }

/-- cbuf.give (R210): release at crew scope, then a slot is free again. -/
def execCbufGive (x : LE) (s : State) : Result :=
  issue (.cbufGive x) (fun i => once i (
    let off := ((engineOp i false x.a).setWidth 32).toNat
    match i.s.releasePoint i.w .crew with
    | none => { s := i.s, hold := true }
    | some s =>
      match (s.crew? i.w.crew).bind fun c => (c.cbufAt off).map fun b => (c, b) with
      | none => trapAll { i with s := s } 0x2A 0
      | some (c, b) =>
        if b.num ≤ b.free + b.full + s.filling c off then trapAll { i with s := s } 0x2A 0
        else { s := s.setCrew (c.setBarWord off (cbufObj b.base b.size b.num b.fill b.take (b.free + 1) b.full)) })) s

/-! ### The checks of a copy (step 3 of R206) -/

/-- A range that a copy touches, in elements of `u` bytes. -/
structure CRange where
  sp : Bool
  a  : Int
  n  : Nat
  wr : Bool
  u  : Nat
  deriving DecidableEq, Repr

def CRange.need (r : CRange) : Need := { r := !r.wr, w := r.wr }

/-- The address of the element of a range that holds byte x, or of its first. -/
def CRange.elemAt (r : CRange) (x : Nat) : DWord :=
  BitVec.ofInt 64 (if (x : Int) < r.a then r.a else r.a + ((x : Int) - r.a) / (r.u : Int) * (r.u : Int))

/-- PROTECT for a range beyond its limits: its detail, and the address of the first element that fails. -/
def CRange.beyond (r : CRange) (scratch : Nat) (win : Nat × Nat) : Option (BitVec 16 × DWord) :=
  let limit := if r.sp then scratch else 2 ^ 52
  if !r.sp && r.wr && 0 ≤ r.a && meet r.a.toNat r.n win.1 win.2 then some (0x03, r.elemAt win.1)
  else if r.a < 0 || (limit : Int) < r.a + r.n then
    some (if r.sp then 0x04 else 0x01, if r.a < 0 then BitVec.ofInt 64 r.a else r.elemAt limit)
  else none

/-- What the checks come to. -/
inductive CopyAt where
  | ok (p : Probe)
  | trap (s : State) (code : BitVec 8) (detail : BitVec 16) (addr : Option DWord)
  | window
  | far
  deriving DecidableEq, Repr

/-- Order 1: the first element beyond its limits. -/
def firstBeyond (rs : List CRange) (scratch : Nat) (win : Nat × Nat) : Option (BitVec 16 × DWord) :=
  rs.findSome? fun r => r.beyond scratch win

/-- A failure on a page, at the first element of a range that touches it. -/
def ProbeFail.onElem (r : CRange) : ProbeFail → ProbeFail
  | .page d va => .page d (r.elemAt va).toNat
  | .protect va => .protect (r.elemAt va).toNat
  | .window => .window

/-- Probe the pages of a range. -/
def Probe.elems (p : Probe) (g : Agent) (r : CRange) : Probe :=
  let q := p.range g r.need r.a.toNat r.n
  { q with fails := p.fails ++ (q.fails.drop p.fails.length).map (ProbeFail.onElem r) }

/-- The first element that touches a page. -/
def firstIn (rs : List CRange) (page : DWord) : DWord :=
  match rs.find? fun r => !r.sp && meet r.a.toNat r.n page.toNat 4096 with
  | some r => r.elemAt page.toNat
  | none => page

/-- Orders 2 to 4. -/
def probePages (p : Probe) (g : Agent) (rs : List CRange) : CopyAt :=
  let p := (rs.filter fun r => !r.sp).foldl (fun p r => p.elems g r) p
  let page := p.fails.findSome? fun f => match f with
    | .page d va => some (d, va)
    | _ => none
  let prot := p.fails.findSome? fun f => match f with
    | .protect va => some va
    | _ => none
  if p.far then .far else match page, prot with
  | some (d, va), _ => .trap p.s 0x05 d (some (BitVec.ofNat 64 va))
  | none, some va => .trap p.s 0x06 0x02 (some (BitVec.ofNat 64 va))
  | none, none =>
    if !p.fails.isEmpty then .window
    else if p.pages.mixed then .trap p.s 0x07 0 (some (firstIn rs p.pages.mixedAt))
    else .ok p

/-- The address of the first element of some ranges that meets a condition, given by offset and length. -/
def firstElem (rs : List CRange) (bad : Nat → Nat → Bool) : Option DWord :=
  rs.findSome? fun r =>
    if !bad r.a.toNat r.n then none
    else ((List.range (r.n / r.u)).find? fun k => bad (r.a.toNat + k * r.u) r.u).map fun k => BitVec.ofInt 64 (r.a + (k * r.u : Nat))

/-- Orders 5 and 6, over the destination ranges in scratchpad. -/
def scratchHazard (s : State) (c : Crew) (dst : List CRange) : Option (BitVec 8 × DWord) :=
  let d := dst.filter fun r => r.sp
  match firstElem d (s.armed c) with
  | some a => some (0x20, a)
  | none => (firstElem d c.tagged).map fun a => (0x28, a)

/-- Whole bytes of an element. -/
def elemBytes (bits : Nat) : Nat := max 1 (bits / 8)

/-- Bytes of a destination element; a record of a band gather is one. -/
def Tmpl.dstElem (t : Tmpl) : Nat := if t.kind = 2 then 32 else elemBytes t.dstBits

/-- A copy's destination ranges: its runs, or the whole slot area byte by byte; none when no buffer is named (R211). -/
def dstRanges (t : Tmpl) (c : Crew) (dst : Nat) (runs : List (Option Int × Int)) : List CRange :=
  if t.cb then
    match c.cbufAt t.cbuf with
    | some b => [⟨true, b.base, b.num * b.size, true, 1⟩]
    | none => []
  else runs.map fun r => ⟨t.dstSp, (dst : Int) + r.2, t.dstRun, true, t.dstElem⟩

def srcRanges (t : Tmpl) (src : Nat) (runs : List (Option Int × Int)) : List CRange :=
  runs.filterMap fun r => r.1.map fun o => ⟨t.srcSp, (src : Int) + o, t.srcRun, false, elemBytes t.srcBits⟩

/-- The first destination element that does not fit within a slot, as it would lie in slot 0 (R211). -/
def overSlot (t : Tmpl) (c : Crew) (runs : List (Option Int × Int)) : Option DWord :=
  match c.cbufAt t.cbuf with
  | some b =>
    if t.cb then (firstBeyond (runs.map fun r => ⟨true, r.2, t.dstRun, true, t.dstElem⟩) b.size (0, 0)).map fun e =>
      BitVec.ofNat 64 b.base + e.2
    else none
  | none => none

/-- The first destination element in a DS line that another phase holds (R344; log entry 86). -/
def State.heldElem (s : State) (g : Agent) (ps : Pages) (rs : List CRange) : Option DWord :=
  (rs.filter fun r => !r.sp).findSome? fun r => (s.heldAway g ps [(r.a.toNat, r.n)]).map r.elemAt

/-- All checks over ranges whose probe stands at p. -/
def copyCheck (p : Probe) (g : Agent) (c : Crew) (t : Tmpl) (dst : Nat) (pre src : List CRange)
    (runs : List (Option Int × Int)) : CopyAt :=
  let win := p.s.codeWindow g.launch
  let ds := dstRanges t c dst runs
  match firstBeyond (pre ++ src) c.scratchBytes win with
  | some (d, a) => .trap p.s 0x06 d (some a)
  | none =>
    match overSlot t c runs with
    | some a => .trap p.s 0x06 0x04 (some a)
    | none =>
      match firstBeyond ds c.scratchBytes win with
      | some (d, a) => .trap p.s 0x06 d (some a)
      | none =>
        match probePages p g (pre ++ src ++ ds) with
        | .ok p =>
          match p.s.heldElem g p.pages ds with
          | some a => .trap p.s 0x07 1 (some a)
          | none =>
          match scratchHazard p.s c ds with
          | some (code, a) => .trap p.s code 0 (some a)
          | none => if t.cb && (c.cbufAt t.cbuf).isNone then .trap p.s 0x2A 0 (some (BitVec.ofNat 64 t.cbuf)) else .ok p
        | r => r

/-- The index array of KIND 1, once its pages are found: its entries, those of a poisoned line left out. -/
def readIndex (p : Probe) (g : Agent) (t : Tmpl) : State × List (Option Word) :=
  let (s, bs) := p.s.engineRead g p.pages t.aux.toNat (4 * t.n1)
  (s, (List.range t.n1).map fun k =>
    let e := (bs.drop (4 * k)).take 4
    if e.any (·.2) then none else some (BitVec.ofNat 32 (ofBytes (e.map (·.1)))))

/-! ### Accepting a copy (steps 1 to 3 of R206) -/

/-- A source run's bytes. -/
def State.readRun (s : State) (g : Agent) (crew : Nat) (t : Tmpl) (src : Nat) (ps : Pages) (o : Option Int) :
    State × Marked :=
  match o with
  | none => (s, List.replicate t.srcRun (0, true))
  | some o =>
    let a := ((src : Int) + o).toNat
    if t.srcSp then (s, s.engineScratch crew a t.srcRun) else s.engineRead g ps a t.srcRun

/-- All source runs. -/
def State.readRuns (s : State) (g : Agent) (crew : Nat) (t : Tmpl) (src : Nat) (ps : Pages)
    (runs : List (Option Int × Int)) : State × List Marked :=
  runs.foldl (fun acc r =>
    let (s, bs) := acc.1.readRun g crew t src ps r.1
    (s, acc.2 ++ [bs])) (s, [])

/-- The mode of a template that names none is fpcr.RM at issue (R203). -/
def rmAtIssue (t : Tmpl) (fpcr : Word) : Rm :=
  if t.rm != 0 then rmOf t.rm
  else match modeOfFpcr fpcr with
    | .rne => .rne | .rtz => .rtz | .rup => .rup | .rdn => .rdn | .rna => .rna

/-- The engine holds an accepted copy.  What its source rows hold now is kept, for what may be seen of a row that changes while
it is pending (R207); that sends no packet. -/
def acceptCopy (i : Issue) (x : LE) (t : Tmpl) (c : Crew) (src dst : Nat) (index : List (Option Word)) (p : Probe) : Eff :=
  let runs := t.runs index
  let (s, old) := if t.kind = 2 then (p.s, []) else
    let r := p.s.readRuns { i.agent with unit := .copy } c.key t src p.pages runs
    ({ p.s with fresh := r.1.fresh }, r.2)
  let neg := (s.site c.site).neg
  let y : Copy :=
    { id := s.nextId, wave := i.w.key, crew := c.key, tmpl := t, src := src, dst := dst
      scope := scopeOf (x.f10.extractLsb' 7 3), rm := rmAtIssue t i.w.fpcr, index := index, pages := p.pages
      old := old, cbuf := if t.cb then some t.cbuf else none
      gather := if t.kind = 2 then
          some ((SMap.get neg.counts t.band).toNat, (SMap.get neg.clears t.band).toNat,
            (s.timer - (s.site c.site).meter.epoch).setWidth 32)
        else none }
  { s := { s.updCluster c.cluster (fun k => { k with copies := k.copies ++ [y] }) with nextId := s.nextId + 1 }
    pend := some (enginePend i s.nextId x.d) }

def copyEff (i : Issue) (x : LE) : Eff :=
  match i.s.crew? i.w.crew with
  | none => { s := i.s }
  | some c =>
    let idx := ((engineOp i false x.c).setWidth 32).toNat
    let l := i.s.launch? c.launch
    if i.s.waveLogged i.w.core i.w.key || Config.copyEntries ≤ (i.s.cluster c.cluster).copies.length then
      { s := i.s, hold := true }
    else if (l.map fun l => l.bankBytes).getD 0 ≤ 64 * idx then trapAll i 0x06 0x04
    else
      let t : Tmpl := match l with
        | some l => BitVec.ofNat 512 (ofBytes (SMap.getRun l.bank (64 * idx) 64))
        | none => 0
      if !t.valid then { s := i.s, pend := some ((enginePend i 0 x.d).ready (statusWord 0x01 0)) }
      else
        let a := engineOp i true x.a
        let b := engineOp i true x.b
        let src := if t.srcSp then (a.setWidth 32).toNat else a.toNat
        let dst := if t.dstSp then (b.setWidth 32).toNat else b.toNat
        let finish (idxs : List (Option Word)) (pre : List CRange) (p : Probe) : Eff :=
          match copyCheck p i.agent c t dst pre (srcRanges t src (t.runs idxs)) (t.runs idxs) with
          | .window => { s := i.s, stop := some .deviceWindow }
          | .far => i.linkHeld
          | .trap s code d a => { trapAll i code d a with s := s }
          | .ok p => acceptCopy i x t c src dst idxs p
        if t.kind = 1 then
          let pre : List CRange := [⟨false, t.aux.toNat, 4 * t.n1, false, 4⟩]
          match firstBeyond pre c.scratchBytes (0, 0) with
          | some (d, a) => trapAll i 0x06 d (some a)
          | none =>
            let none' := List.replicate t.n1 (none : Option Word)
            match probePages { s := i.s } i.agent pre with
            | .far => i.linkHeld
            | .ok p => if !p.s.reachesAll (i.w.core / 96) p.pages then i.linkHeld else
              let (s, idxs) := readIndex p { i.agent with unit := .copy } t
              finish idxs pre { p with s := s }
            | .window => { s := i.s, stop := some .deviceWindow }
            | .trap s .. => finish none' pre { s := s }
        else finish [] [] { s := i.s }

/-- copy (R205, R206). -/
def execCopy (x : LE) (s : State) : Result := issue (.copy x) (fun i => once i (copyEff i x)) s

/-! ### CBUF_SLOT_CLAIM (R211) -/

/-- The copy may claim a slot: it wants one, no earlier copy to the buffer does, and one is free. -/
def State.mayClaim (s : State) (k : Nat) (y : Copy) : Bool :=
  match y.cbuf with
  | none => false
  | some off =>
    y.slot.isNone &&
      ((s.cluster k).copies.all fun z => !(z.crew = y.crew && z.cbuf = some off && z.slot.isNone && z.id < y.id)) &&
      (match (s.crew? y.crew).bind fun c => c.cbufAt off with
        | some b => b.free != 0
        | none => false)

def State.setCopy (s : State) (k : Nat) (y : Copy) : State :=
  s.updCluster k fun c => { c with copies := c.copies.map fun z => if z.id = y.id then y else z }

def execCbufSlotClaim (cluster idx : Nat) (s : State) : Result :=
  match (s.cluster cluster).copies[idx]? with
  | none => .next s
  | some y =>
    if !s.mayClaim cluster y then .next s
    else match s.crew? y.crew, y.cbuf with
      | some c, some off =>
        let b := c.barWord off
        let s := s.setCrew (c.setBarWord off
          (cbufObj b.base b.size b.num ((b.fill + 1) % b.num) b.take (b.free - 1) b.full))
        .next (s.setCopy cluster { y with slot := some (b.base + b.fill * b.size) })
      | _, _ => .next s

/-! ### COPY_COMPLETE (steps 4 and 5 of R206, R207, R208) -/

/-- Element k of a run, of n bits, and whether it lies in a poisoned line. -/
def runElem (bs : Marked) (n k : Nat) : Nat × Bool :=
  if n = 4 then
    let b := bs.getD (k / 2) (0, false)
    (if k % 2 = 0 then b.1.toNat % 16 else b.1.toNat / 16, b.2)
  else
    let e := (bs.drop (k * (n / 8))).take (n / 8)
    (ofBytes (e.map (·.1)), e.any (·.2))

/-- An element that changed while the copy was pending has its old or its new value (R207). -/
def chooseElem (fresh : Nat) (old new : Nat × Bool) : Nat × Bool :=
  if old != new && Config.choice fresh then old else new

/-- One element of a copy: the bits written and the flags raised. -/
def Copy.convert (y : Copy) (v : Nat) : Res :=
  let t := y.tmpl
  match decodeCvtTy t.srct, decodeCvtTy t.dstt with
  | some st, some dt =>
    let r := cvtVal st dt (y.rm.mode 0) (t.sat && cvtSatOk st dt) v
    ⟨r.bits % 2 ^ t.dstBits, r.flags⟩
  | _, _ => ⟨v, 0⟩

/-- The elements of a run: values, poison marks and flags. -/
def Copy.elems (y : Copy) (fresh : Nat) (old new : Marked) : List (Nat × Bool) × Flags :=
  (List.range y.tmpl.count0).foldl (fun acc k =>
    let (v, bad) := chooseElem (fresh + k) (runElem old y.tmpl.srcBits k) (runElem new y.tmpl.srcBits k)
    if bad then (acc.1 ++ [((Config.freeWord (fresh + k)).toNat % 2 ^ y.tmpl.dstBits, true)], acc.2)
    else
      let r := y.convert v
      (acc.1 ++ [(r.bits, false)], acc.2 ||| r.flags)) ([], 0)

/-- The runs that a copy writes: where each goes, and its elements. -/
abbrev Parts := List (Nat × List (Nat × Bool))

/-- The elements of n bits that hold a nibble of the destination: the draw that places each in the order of writes, its
four bits and its mark. -/
def Parts.at_ (ps : Parts) (n fresh q : Nat) : List (Nat × Nat × Bool) :=
  (ps.mapIdx fun k p => (k, p)).filterMap fun p =>
    let off := 4 * (q - 2 * p.2.1)
    if q < 2 * p.2.1 then none
    else (p.2.2[off / n]?).map fun e => (fresh + p.1 * p.2.2.length + off / n, e.1 / 2 ^ (off % n) % 16, e.2)

/-- The nibble that stands at the end: that of the element written last, in an order that no rule fixes (R207). -/
def Parts.nibble (ps : Parts) (n fresh q : Nat) : Option (Nat × Bool) :=
  ((ps.at_ n fresh q).foldl (fun best c => match best with
    | none => some c
    | some b => if (Config.freeWord b.1).toNat ≤ (Config.freeWord c.1).toNat then some c else some b) none).map (·.2)

/-- The bytes of a run; `last` supplies the high nibble that an odd run of e2m1 elements leaves unchanged. -/
def Parts.bytes (ps : Parts) (n fresh a len : Nat) (last : Byte) : Marked :=
  (List.range len).map fun k =>
    let lo := (ps.nibble n fresh (2 * (a + k))).getD (0, false)
    let hi := (ps.nibble n fresh (2 * (a + k) + 1)).getD (last.toNat / 16, false)
    (BitVec.ofNat 8 (lo.1 + 16 * hi.1), lo.2 || hi.2)

/-- Where a byte of a copy lies: scratchpad or memory. -/
def Copy.spot (y : Copy) (sp : Bool) (a : Nat) : Bool × Nat :=
  if sp then (true, a) else (false, ((y.pages.at a).map (·.1)).getD 0)

/-- The base of a copy's destination. -/
def Copy.dstBase (y : Copy) : Nat :=
  match y.slot with
  | some b => b
  | none => y.dst

/-- A destination byte that the source also holds is unpredictable (R207, R8). -/
def Copy.contested (y : Copy) (runs : List (Option Int × Int)) (a : Nat) : Bool :=
  let p := y.spot y.tmpl.dstSp a
  let n := y.tmpl.srcRun
  y.tmpl.kind != 2 && runs.any fun r => match r.1 with
    | some o =>
      let b := ((y.src : Int) + o).toNat
      if y.tmpl.srcSp then p.1 && b ≤ p.2 && p.2 < b + n
      else !p.1 && (cut 4096 b n).any fun seg =>
        let q := (y.spot false seg.1).2
        q ≤ p.2 && p.2 < q + seg.2
    | none => false

/-- Write one run at its destination. -/
def State.writeRun (s : State) (g : Agent) (y : Copy) (a : Nat) (bs : List Byte) : State :=
  if y.tmpl.dstSp then s.engineWriteScratch y.crew a bs else s.engineWrite g y.pages a bs

/-- Poison the lines of a run's bytes that are marked, once their elements stand there (R207). -/
def State.poisonRun (s : State) (y : Copy) (a : Nat) (bs : Marked) : State :=
  (bs.mapIdx fun k b => (a + k, b.2)).foldl (fun s p =>
    if !p.2 then s
    else if y.tmpl.dstSp then s.updCrew y.crew fun c =>
      if c.badLines.contains (p.1 / 64) then c else { c with badLines := c.badLines ++ [p.1 / 64] }
    else
      let pa := (y.spot false p.1).2
      (s.flushRange (y.crew / 128) (pa / 64 * 64) 64).poisonLine pa) s

/-- The old value of the last byte of a destination run. -/
def State.lastByte (s : State) (g : Agent) (y : Copy) (a : Nat) : State × Byte :=
  if y.tmpl.dstSp then (s, ((s.engineScratch y.crew a 1).map (·.1)).getD 0 0)
  else
    let (s, bs) := s.engineRead g y.pages a 1
    (s, (bs.map (·.1)).getD 0 0)

/-- A move under way: the state, the flags, the bytes written, and the runs with their poison marks. -/
structure Moving where
  s     : State
  flags : Flags := 0
  bytes : Nat := 0
  done  : List (Nat × Marked) := []
  deriving DecidableEq, Repr

/-- Write the bytes of one run, contested bytes as free values. -/
def Moving.put (m : Moving) (g : Agent) (y : Copy) (runs : List (Option Int × Int)) (ps : Parts) (fresh a : Nat) : Moving :=
  let t := y.tmpl
  let (s, last) := if t.dstBits = 4 && t.count0 % 2 = 1 then m.s.lastByte g y (a + t.dstRun - 1) else (m.s, 0)
  let bs := ps.bytes t.dstBits fresh a t.dstRun last
  let out := bs.mapIdx fun k b => if y.contested runs (a + k) then Config.freeByte (s.fresh + k) else b.1
  { m with s := { s.writeRun g y a out with fresh := s.fresh + bs.length }, bytes := m.bytes + bs.length, done := m.done ++ [(a, bs)] }

/-- What the runs of KIND 0 and KIND 1 write, and the flags of their conversions. -/
def Copy.parts (y : Copy) (fresh : Nat) (runs : List (Option Int × Int)) (now : List Marked) : Parts × Flags :=
  (runs.mapIdx fun k r => (k, r)).foldl (fun (acc : Parts × Flags) p =>
    let (es, fl) := y.elems (fresh + p.1 * y.tmpl.count0) (y.old.getD p.1 []) (now.getD p.1 [])
    (acc.1 ++ [(((y.dstBase : Int) + p.2.2).toNat, es)], acc.2 ||| fl)) ([], 0)

/-- Move the runs of KIND 0 and KIND 1. -/
def moveRuns (s : State) (g : Agent) (y : Copy) : Moving :=
  let runs := y.tmpl.runs y.index
  let (s, now) := s.readRuns g y.crew y.tmpl y.src y.pages runs
  let n := runs.length * y.tmpl.count0
  let (ps, fl) := y.parts s.fresh runs now
  let m := ps.foldl (fun m p => m.put g y runs ps (s.fresh + n) p.1) ({ s := { s with fresh := s.fresh + 2 * n }, flags := fl } : Moving)
  { m with s := m.done.foldl (fun s d => s.poisonRun y d.1 d.2) m.s }

/-- Move the records of a band gather, in the order of their selection (R379). -/
def moveRecords (s : State) (g : Agent) (y : Copy) (q : Nat × Nat × Word) : Moving × Nat :=
  let site := g.core / 96
  let (rs, skip) := s.gather site y.tmpl.band y.tmpl.mask y.tmpl.age y.tmpl.count0 q.1 q.2.1 q.2.2
  let s := { (s.updSite site fun t => t.addSkip skip) with fresh := s.fresh + 32 * 65537 }
  let bs := rs.flatten
  let s := if bs.isEmpty then s else (s.writeRun g y y.dstBase (bs.map (·.1))).poisonRun y y.dstBase bs
  ({ s := s, bytes := bs.length, done := [(y.dstBase, bs)] }, rs.length)

/-- The destination ranges of a copy. -/
def Copy.dstExtents (y : Copy) : List (Nat × Nat) :=
  (y.tmpl.runs y.index).map fun r => (((y.dstBase : Int) + r.2).toNat, y.tmpl.dstRun)

/-- The copy engine acts for the copy's crew. -/
def State.copyAgent (s : State) (y : Copy) : Option Agent := (s.opAgent y.wave).map fun g => { g with unit := .copy }

/-- The copy can complete now. -/
def State.copyReady (s : State) (g : Agent) (y : Copy) : Bool :=
  (y.cbuf.isNone || y.slot.isSome) && s.reachesAll (g.core / 96) y.pages &&
    (y.tmpl.dstSp || s.dsRoom g y.pages y.dstExtents)

/-- The barrier's count, the buffer's slot and the status of a copy whose bytes are performed at crew scope.  `away`: a line
that another phase holds was left out (R344; log entry 86). -/
def State.endCopy (s : State) (g : Agent) (y : Copy) (m : Moving) (detail : BitVec 24) (away : Bool) : State :=
  let (s, c1) := if y.tmpl.be then s.expectLess y.crew y.tmpl.bar m.bytes else (s, none)
  let s := match y.cbuf, s.crew? y.crew with
    | some off, some c =>
      match c.cbufAt off with
      | some b =>
        (s.setCrew (c.setBarWord off (cbufObj b.base b.size b.num b.fill b.take b.free (b.full + 1)))).wakeTaker y.crew off
      | none => s
    | _, _ => s
  let bad := m.done.any fun d => d.2.any (·.2)
  let code : BitVec 8 := if bad then 0x08 else if away then 0x07 else c1.getD 0
  (s.acquireAt g.core y.wave y.scope).deliver y.wave y.id (statusWord code detail)

def execCopyComplete (cluster idx : Nat) (s : State) : Result :=
  match (s.cluster cluster).copies[idx]? with
  | none => .next s
  | some y =>
    match s.copyAgent y with
    | none => .next s
    | some g =>
      if !s.copyReady g y then .next s
      else
        let away := !y.tmpl.dstSp && (s.heldAway g y.pages y.dstExtents).isSome
        let (m, detail) := match y.gather with
          | some q =>
            let (m, n) := moveRecords s g y q
            (m, BitVec.ofNat 24 n)
          | none =>
            let m := moveRuns s g y
            (m, m.flags.setWidth 24)
        let m := { m with s := m.s.updCluster cluster fun c => { c with copies := c.copies.filter fun z => z.id != y.id } }
        .next { m.s.endCopy g y m detail away with held := [] }

end Sys2Proof.Machine
end

