-- ==== Sys2Proof/Machine/Draw.lean ====
section
/-!
DEFINITION. Random draws: Philox-4x32 with 10 rounds and the counters of a lane (03 R90-R93).
-/
namespace Sys2Proof.Machine

/-- Upper and lower halves of a product of two words. -/
def mulHi (a b : Word) : Word := (a.setWidth 64 * b.setWidth 64).extractLsb' 32 32
def mulLo (a b : Word) : Word := a * b

/-- The counter words. -/
structure Ctr where
  c0 : Word
  c1 : Word
  c2 : Word
  c3 : Word
  deriving DecidableEq, Repr

/-- One round (R90). -/
def philoxRound (k0 k1 : Word) (c : Ctr) : Ctr :=
  ⟨mulHi 0xCD9E8D57 c.c2 ^^^ c.c1 ^^^ k0, mulLo 0xCD9E8D57 c.c2, mulHi 0xD2511F53 c.c0 ^^^ c.c3 ^^^ k1, mulLo 0xD2511F53 c.c0⟩

/-- n rounds, the key advancing between them. -/
def philoxRounds : Nat → Word → Word → Ctr → Ctr
  | 0, _, _, c => c
  | n + 1, k0, k1, c => philoxRounds n (k0 + 0x9E3779B9) (k1 + 0xBB67AE85) (philoxRound k0 k1 c)

/-- The output block of a seed and a counter. -/
def philox (seed : DWord) (c : Ctr) : Ctr := philoxRounds 10 (seed.extractLsb' 0 32) (seed.extractLsb' 32 32) c

/-- The counter of a draw (R91). -/
def drawCtr (idx : Word) (stream : BitVec 16) (crewLane : Nat) (tindex : DWord) : Ctr :=
  ⟨idx, stream ++ BitVec.ofNat 16 (crewLane % 1024), tindex.extractLsb' 0 32, tindex.extractLsb' 32 32⟩

end Sys2Proof.Machine
end

