-- ==== Sys2Proof/Machine/Record.lean ====
section
/-!
DEFINITION. Continuation records (08 R221, R222), the crews that a core accepts (01 R20), and the start of a task (R223).
-/
namespace Sys2Proof.Machine

/-! ### Validity (R222) -/

/-- The record is valid for a launch that allows gangs of `gmax` crews and, with `priv`, privileged tasks. -/
def recordValid (gmax : Nat) (priv : Bool) (r : BitVec 512) : Bool :=
  r.extractLsb' 96 2 = 0 && r.extractLsb' 77 3 = 0 && r.extractLsb' 32 16 = 0 &&
  (recScratch r).toNat ≤ 2048 && (recFrame r).toNat % 64 = 0 && (recJoin r).toNat % 32 = 0 &&
  (if recGang r then (recGrank r).toNat ≤ (recGsize r).toNat && (recGsize r).toNat + 1 ≤ gmax
   else recGangId r = 0 && recGsize r = 0 && recGrank r = 0) &&
  (!recPriv r || priv)

/-- The record is valid, judged by its launch; a launch that is not open allows no gang and no privilege. -/
def State.recordOk (s : State) (r : BitVec 512) : Bool :=
  match s.launch? (recLaunch r).toNat with
  | some l => recordValid l.gmax l.priv r
  | none => recordValid 0 false r

/-! ### What a core accepts (R20) -/

/-- Waves of a record. -/
def recWaveCount (r : BitVec 512) : Nat := (recWaves r).toNat + 1
/-- Blocks of 16 registers per lane. -/
def recBlocks (r : BitVec 512) : Nat := (recRblk r).toNat + 1

def State.coreWaves (s : State) (core : Nat) : List Wave := s.waves.filter fun w => w.core = core
def State.coreCrews (s : State) (core : Nat) : List Crew := s.crews.filter fun c => c.core = core

/-- Register blocks in use on a core, of 2,048. -/
def State.coreBlocks (s : State) (core : Nat) : Nat :=
  (s.coreWaves core).foldl (fun n w => n + (match s.crew? w.crew with
    | some c => recBlocks c.record
    | none => 16)) 0

/-- Resident waves of each quarter. -/
def State.quarterLoad (s : State) (core : Nat) : List Nat :=
  (List.range 4).map fun q => (s.coreWaves core).countP fun w => w.quarter = q

/-- The quarter with the fewest waves, the lowest of equals. -/
def fewest (load : List Nat) : Nat :=
  (List.range 4).foldl (fun b q => if load.getD q 0 < load.getD b 0 then q else b) 0

/-- The quarters of n new waves: round-robin from the quarter with the fewest. -/
def quartersFor (load : List Nat) (n : Nat) : List Nat := (List.range n).map fun k => (fewest load + k) % 4

/-- The core can hold n more waves of a shape and more scratchpad. -/
def State.hasRoom (s : State) (core n blocks kib : Nat) : Bool :=
  let load := s.quarterLoad core
  let qs := quartersFor load n
  (s.coreWaves core).length + n ≤ Config.wavesPerCore &&
  ((List.range 4).all fun q => load.getD q 0 + qs.countP (fun x => x = q) ≤ 32) &&
  s.coreBlocks core + n * blocks ≤ 2048 &&
  (s.coreCrews core).foldl (fun k c => k + (recScratch c.record).toNat) 0 + kib ≤ 2048

/-- A core that is not retired accepts the record's crew (R20, R406); a crew slot is always free where a wave slot is, since
every crew has a wave. -/
def State.fits (s : State) (core : Nat) (r : BitVec 512) : Bool :=
  !(s.core core).retired && s.hasRoom core (recWaveCount r) (recBlocks r) (recScratch r).toNat &&
  decide ((s.coreCrews core).length < 128)

/-! ### The start of a task (R223) -/

/-- A wave as its task starts (R223): slot, quarter, crew, number, entry and s registers. -/
def newWave (core slot quarter crew num : Nat) (entry : Word) (sregs : SMap 64) : Wave :=
  { core := core, slot := slot, quarter := quarter, crew := crew, num := num
    lanes := List.replicate 32 { pc := entry }, s := sregs }

/-- The lowest n numbers below `cap` that are not used. -/
def lowestFree (used : List Nat) (cap n : Nat) : List Nat := ((List.range cap).filter fun k => !used.contains k).take n

/-- s0, s1 and s2 hold ARGS, s3 FRAME. -/
def startRegs (r : BitVec 512) : SMap 64 :=
  SMap.setAll [] [(0, (recArgs r).extractLsb' 0 64), (1, (recArgs r).extractLsb' 64 64), (2, (recArgs r).extractLsb' 128 64),
    (3, recFrame r)]

/-- New waves of a crew: numbers, slots and quarters by position; their entry and s registers. -/
def State.addWaves (s : State) (core crew : Nat) (nums : List Nat) (entry : Word) (regs : SMap 64) : State :=
  let slots := lowestFree ((s.coreWaves core).map (·.slot)) Config.wavesPerCore nums.length
  let qs := quartersFor (s.quarterLoad core) nums.length
  let new := nums.mapIdx fun k n => newWave core (slots.getD k 0) (qs.getD k 0) crew n entry regs
  { s with waves := s.waves ++ new, held := [] }

/-- Timers of ST_SCHED (R338), in ns. -/
def Site.prewaitNs (t : Site) : Nat := (t.sched.extractLsb' 32 16).toNat
def Site.gangLimitNs (t : Site) : Nat := (t.sched.extractLsb' 16 16).toNat * 100000
def Site.gangWaitNs (t : Site) : Nat := (t.sched.extractLsb' 0 16).toNat * 100000

/-- A record starts as a crew on a core, in the lowest crew slot, with an acquire at the scope it was posted with. -/
def State.startCrew (s : State) (core : Nat) (p : Popped) (phase : Option Nat) : State :=
  let slot := (lowestFree ((s.coreCrews core).map (·.slot)) 128 1).headD 0
  let c : Crew := { core := core, slot := slot, record := p.record, phase := phase, queue := some p.queue, popped := p.order
                    scope := p.scope, since := s.elapsed, hangNs := (s.site (core / 96)).hangNs }
  let s := { s with crews := s.crews ++ [c] }
  (s.addWaves core c.key (List.range (recWaveCount p.record)) (recEntry p.record) (startRegs p.record)).dropNarrower core p.scope

end Sys2Proof.Machine
end

