-- ==== Sys2Proof/Machine/Ring.lean ====
section
/-!
DEFINITION. The queues of the schedulers: descriptors, rings, pushes and pops (14 R325-R328), the commands of ST_QCMD
(R326), and what the end of a record frees at the Light meter and at scanout (15 R353, R358).
-/
namespace Sys2Proof.Machine

/-! ### Accesses of the device's units (R417) -/

/-- The number of no wave and of no crew: the agent of what the device does. -/
def noWave : Nat := 2 ^ 32

/-- What a unit's access to an aligned range within one page comes to: its address, a page that the system controller is
asked for, a refusal by the page with its trap, a device window, or a translation that the link holds (R385). -/
inductive UnitAt where
  | ok (s : State) (pa : Nat)
  | page (s : State) (detail : BitVec 16)
  | bad (s : State) (code : BitVec 8) (detail : BitVec 16)
  | window
  | held
  deriving DecidableEq, Repr

/-- Translate n bytes, aligned to n, for a unit of a site; a read of a poisoned line is POISON. -/
def State.unitAt (s : State) (site launch va n : Nat) (priv : Bool) (need : Need) : UnitAt :=
  if 2 ^ 52 ≤ va then .bad s 0x06 1
  else if va % n != 0 then .bad s 0x04 0
  else if s.walkHeld site launch va priv need then .held
  else match (if need.w then s.translateWrite site launch va priv need else s.translate site launch va) with
    | (s, .fault d) => .page s d
    | (s, .ok pa _ leaf) =>
      if denies leaf priv need then .bad s 0x06 2
      else if isWindow pa then .window
      else if need.r && s.rangeBad pa n then .bad s 0x08 1
      else .ok (if need.w then s.markDirty site launch va else s) pa

/-! ### Queues by their descriptor -/

/-- The queue whose descriptor lies at a physical address, with its site; an inactive one has none. -/
def State.queue? (s : State) (pa : Nat) : Option (Nat × Queue) :=
  match s.siteA.queues.find? fun q => q.desc = pa with
  | some q => some (0, q)
  | none => (s.siteB.queues.find? fun q => q.desc = pa).map fun q => (1, q)

def QState.code : QState → BitVec 2
  | .opened => 1 | .closed => 2 | .faulted => 3

/-- The scheduler of a site, as the agent of its stores to a queue's descriptor. -/
def Queue.agent (q : Queue) (site : Nat) : Agent :=
  { core := 96 * site, wave := noWave, crew := noWave, launch := q.owner, priv := true, tindex := 0, phase := none
    unit := .scheduler }

/-- Store HEAD, TAIL and STATE into a descriptor, as a plain store (R325, R309).  Where the link does not take packets now, the
stores wait on the scheduler's site (R385), and they come before later ones. -/
def State.storeDesc (s : State) (site : Nat) (q : Queue) (st : BitVec 2) : State :=
  let first : Byte := st ++ (s.homeByte q.desc).extractLsb' 0 6
  let ends := toBytes q.head 4 ++ toBytes q.tail 4
  if s.lineBad q.desc then s.failLaunch q.owner 0 (BitVec.ofNat 64 q.desc) 0 0 1 0x08
  else if !s.reaches site q.desc then
    (s.storeAt (q.agent site) .rc q.desc [first] .site { launch := q.owner, va := BitVec.ofNat 64 q.desc }).storeAt
      (q.agent site) .rc (q.desc + 48) ends .site { launch := q.owner, va := BitVec.ofNat 64 q.desc }
  else
    let s := match s.inflight.filter fun x => x.unit = .scheduler && x.touches q.desc 64 with
      | [] => s
      | xs => s.performAll xs .device
    ((s.unitTrip .scheduler site q.desc).pokeHome q.desc [first]).pokeHome (q.desc + 48) ends

/-- Change a queue that holds a slot, and its descriptor. -/
def State.putQueue (s : State) (site : Nat) (q : Queue) : State :=
  (s.updSite site fun t => { t with queues := t.queues.map fun x => if x.desc = q.desc then q else x }).storeDesc site q q.state.code

/-- Change a queue alone. -/
def State.updQueue (s : State) (pa : Nat) (f : Queue → Queue) : State :=
  let g (t : Site) : Site := { t with queues := t.queues.map fun x => if x.desc = pa then f x else x }
  { s with siteA := g s.siteA, siteB := g s.siteB }

/-- Slot n of the ring. -/
def Queue.slot (q : Queue) (n : Word) : Nat := (q.base + BitVec.ofNat 64 (64 * (n.toNat % 2 ^ q.log2cap))).toNat

def Queue.full (q : Queue) : Bool := (q.tail - q.head).toNat = 2 ^ q.log2cap

/-- A queue fault: the state becomes faulted, and the owner hears of it (R328, R323). -/
def State.faultQueue (s : State) (site : Nat) (q : Queue) (detail : BitVec 16) : State :=
  (s.putQueue site { q with state := .faulted }).event q.owner 0 (BitVec.ofNat 64 q.desc) 0 0 detail 0x38

/-- A core has freed resources: a waiting record may trigger pre-emption again (R336). -/
def State.freedRoom (s : State) : State :=
  let f (t : Site) : Site :=
    { t with queues := t.queues.map fun q => { q with triggered := false }
             gangWait := t.gangWait.map fun g => { g with triggered := false } }
  { s with siteA := f s.siteA, siteB := f s.siteB }

/-! ### Push (R327, R328) -/

/-- What a push comes to: the status of R226, a device window, or a ring of the other site while the link does not take
packets (R385). -/
inductive PushRes where
  | done (s : State) (status : Nat)
  | window
  | held
  deriving DecidableEq, Repr

def State.pushQueue (s : State) (pa : Nat) (r : BitVec 512) (sc : Scope) (cont : Option (Nat × DWord × DWord) := none) :
    PushRes :=
  match s.queue? pa with
  | none => .done s 5
  | some (site, q) =>
    match q.state with
    | .closed => .done s 2
    | .faulted => .done s 3
    | .opened =>
      if q.full then .done s 1
      else match s.unitAt site q.owner (q.slot q.tail) 64 true { w := true } with
        | .ok s p => if !s.reaches site p then .held else
          let s := ((s.unitTrip .scheduler site p).clearLine p).pokeHome p (toBytes r 64)
          .done { s.putQueue site { q with tail := q.tail + 1, entries := q.entries ++ [{ record := r, scope := sc, cont := cont }] } with
            held := [] } 0
        | .page s _ | .bad s _ _ => .done (s.faultQueue site q 2) 3
        | .window => .window
        | .held => .held

/-- A queue's scheduler can be reached from a site. -/
def State.queueReach (s : State) (site pa : Nat) : Bool :=
  match s.queue? pa with
  | some (x, _) => x = site || s.linkOpen
  | none => true

/-- The packets of a push to the other site, in the ordered class: the record, and the status in the reverse flow (R287,
R327). -/
def State.pushPacket (s : State) (core pa : Nat) : State :=
  match s.queue? pa with
  | some (x, _) =>
    if x = core / 96 then s
    else (s.passIn (accessFlow core .rc)).passPacket { accessFlow core .rc with dst := core / 96 }
  | none => s

/-- The same for a record that a unit of a site offers. -/
def State.offerTrip (s : State) (u : FlowUnit) (site pa : Nat) : State :=
  match s.queue? pa with
  | some (x, _) => if x = site then s else s.siteTrip site u
  | none => s

/-! ### The end of a record (R353, R358) -/

/-- The task of a record has completed, or the record will never run: its sample block may be freed, and its band's
Developer task is no longer outstanding. -/
def State.recordDone (s : State) (r : BitVec 512) : State :=
  let f (t : Site) : Site :=
    { t with
      meter := { t.meter with
        freed := t.meter.freed ++ (t.meter.busy.filter fun b => b.2 = r && !t.meter.freed.contains b.1).map (·.1) }
      scan := { t.scan with developers := t.scan.developers.filter fun d => d.2 != r } }
  { s with siteA := f s.siteA, siteB := f s.siteB }

/-! ### Pop (R328) -/

/-- The record that stands at the head, the pop order of a requeued one, and whether the close of its launch has dropped it
(R322); a ring that cannot be read, or not now (R385); a device window. -/
inductive HeadAt where
  | empty (s : State)
  | found (s : State) (q : Queue) (record : BitVec 512) (scope : Scope) (order : Option Nat) (dropped : Bool)
  | window
  deriving DecidableEq, Repr

/-- The queue without its head record; its successor has not yet waited. -/
def Queue.pop (q : Queue) : Queue :=
  let q := { q with wait := none, triggered := false }
  match q.front with
  | _ :: fs => { q with front := fs }
  | [] => { q with head := q.head + 1, entries := q.entries.drop 1 }

def State.readHead (s : State) (site : Nat) (q : Queue) : HeadAt :=
  match q.front, q.entries with
  | p :: _, _ => .found s q p.record p.scope (some p.order) false
  | [], [] => .empty s
  | [], e :: _ =>
    match s.unitAt site q.owner (q.slot q.head) 64 true { r := true } with
    | .ok s p =>
      if !s.reaches site p then .empty s
      else .found (s.unitTrip .scheduler site p) q (BitVec.ofNat 512 (ofBytes (s.homeBytes p 64))) e.scope none e.dropped
    | .page s _ | .bad s _ _ => .empty (s.faultQueue site q 1)
    | .window => .window
    | .held => .empty s

/-! ### The commands of ST_QCMD (R326) -/

def descReserved (v : BitVec 512) : Bool :=
  v.extractLsb' 64 320 != 0 || v.extractLsb' 37 11 != 0 || v.extractLsb' 8 24 != 0 || v.extractLsb' 4 2 != 0 || v.getLsbD 2

/-- A queue as a descriptor describes it. -/
def descQueue (pa : Nat) (v : BitVec 512) : Queue :=
  { desc := pa, state := .opened, owner := (v.extractLsb' 48 16).toNat, prio := (v.extractLsb' 0 2).toNat
    log2cap := (v.extractLsb' 32 5).toNat, base := v.extractLsb' 448 64 }

/-- Open: a 64-byte snapshot at device scope; false when it fails, with RAS event QUEUE_OPEN. -/
def State.openQueue (s : State) (pa : Nat) : State × Bool :=
  let v := BitVec.ofNat 512 (ofBytes (s.homeBytes pa 64))
  let site := if v.getLsbD 3 then 1 else 0
  let q := descQueue pa v
  let old := s.queue? pa
  if old.any fun o => o.2.state = .opened then (s, true)
  else
    let owned := match s.launch? q.owner with
      | some l => !l.closed
      | none => false
    let slots := ((s.site site).queues.filter fun x => x.desc != pa).length
    if descReserved v || q.log2cap < 2 || 20 < q.log2cap || !owned || Config.queueSlots ≤ slots then
      (s.ras 0x08 site (addr := BitVec.ofNat 64 pa), false)
    else
      let q := match old with
        | some (_, o) => { q with head := o.head, tail := o.tail, entries := o.entries, front := o.front }
        | none => q
      let drop (t : Site) : Site := { t with queues := t.queues.filter fun x => x.desc != pa }
      let s := { s with siteA := drop s.siteA, siteB := drop s.siteB }.unitTrip .scheduler site pa
      ((s.updSite site fun t => { t with queues := t.queues ++ [q] }).putQueue site q, true)

def State.closeQueue (s : State) (pa : Nat) : State × Bool :=
  match s.queue? pa with
  | some (site, q) => (s.putQueue site { q with state := .closed }, true)
  | none => (s, false)

/-- The queue that a policy header names, in virtual bits [51:6] (R347). -/
def hdrQueue (h : BitVec 512) : Nat := (h.extractLsb' 292 46).toNat * 64

/-- A site's Light meter has adopted a header that names the queue. -/
def State.meterNames (s : State) (site pa : Nat) : Bool :=
  match (s.site site).meter.adopted with
  | some h => match s.xlat site h.launch (hdrQueue h.hdr) with
    | .ok p _ _ => p = pa
    | .fault _ => false
  | none => false

/-- Remove: a closed or faulted queue becomes inactive; sample blocks of its unpopped records are freed (R353). -/
def State.removeQueue (s : State) (pa : Nat) : State × Bool :=
  match s.queue? pa with
  | none => (s, false)
  | some (site, q) =>
    if q.state = .opened then (s, false)
    else
      let rs := q.front.map (·.record) ++ q.entries.map (·.record)
      let s := if s.meterNames 0 pa || s.meterNames 1 pa then rs.foldl State.recordDone s else s
      ((s.updSite site fun t => { t with queues := t.queues.filter fun x => x.desc != pa }).storeDesc site q 0, true)

/-- The command OP of ST_QCMD on the descriptor at a physical address; false when it fails. -/
def State.queueCmd (s : State) (op : BitVec 2) (pa : Nat) : State × Bool :=
  if op = 1 then s.openQueue pa
  else if op = 2 then s.closeQueue pa
  else if op = 3 then s.removeQueue pa
  else (s, true)

/-- A site reaches what a command needs: the descriptor, the scheduler that holds the queue, and for an open the one that the
descriptor names (R325, R385). -/
def State.qcmdReach (s : State) (site : Nat) (op : BitVec 2) (pa : Nat) : Bool :=
  s.reaches site pa && s.queueReach site pa && (op != 1 || (if (s.homeByte pa).getLsbD 3 then 1 else 0) = site || s.linkOpen)

/-- The descriptor that a value of ST_QCMD names. -/
def qcmdDesc (v : DWord) : Nat := (v.extractLsb' 6 46).toNat * 64

end Sys2Proof.Machine
end

