-- ==== Sys2Proof/Machine/Discard.lean ====
section
/-!
DEFINITION. What ends a task or a fragment early: a killed fragment (08 R236), a discarded task (14 R337), a failed launch
(14 R324).
-/
namespace Sys2Proof.Machine

/-! ### A killed fragment (R236) -/

/-- The lanes exit, the code joins the crew's CC, and the entry is freed. -/
def State.killFrag (s : State) (core e : Nat) (code : BitVec 8) : State :=
  let b := (s.core core).bivouac.getD e {}
  let s := match s.wave? b.wave with
    | some w => (s.exitLanes b.wave b.lanes).updCrew w.crew fun c => { c with cc := c.cc ||| code }
    | none => s
  { s.freeEntry core e with held := [] }

/-! ### A discarded task (R337) -/

/-- The destination cells of a copy: the bytes that it would write, with the marks of poisoned ones. -/
def State.copyCells (s : State) (g : Agent) (y : Copy) : List (Nat × Byte × Bool) :=
  let m := match y.gather with
    | some q => (moveRecords s g y q).1
    | none => moveRuns s g y
  m.done.flatMap fun d => d.2.mapIdx fun k b => (d.1 + k, b)

/-- An interrupted copy has written some of its destination bytes (R337 step 4). -/
def State.interruptCopy (s : State) (y : Copy) : State :=
  match s.copyAgent y with
  | none => s
  | some g =>
    if y.tmpl.dstSp || !s.copyReady g y then s
    else
      let cs := s.copyCells g y
      let done := ((cs.mapIdx fun k c => (k, c)).filter fun p => Config.choice (s.fresh + p.1)).map (·.2)
      let s' := done.foldl (fun t p => t.engineWrite g y.pages p.1 [p.2.1]) s
      { done.foldl (fun t p => t.poisonRun y p.1 [p.2]) s' with fresh := s.fresh + cs.length }

/-- A fragment of a discarded task: its entry is freed, and a handler task that still waits for its queue is not offered
(R237, R271). -/
def State.dropEntry (s : State) (core e : Nat) : State :=
  let gen := ((s.core core).bivouac.getD e {}).gen
  let mine (o : Offer) : Bool := match o.src with
    | .handler k n g _ => k = core && n = e && g = gen
    | .join .. => false
  let s := (s.offers.filter mine).foldl (fun s o => match o.src with
    | .handler _ _ _ slot => s.updLaunch o.launch fun l => { l with slots := l.slots.filter fun x => x != slot }
    | .join .. => s) s
  { s with offers := s.offers.filter fun o => !mine o }.freeEntry core e

/-- No quarter of a core holds a chain of one of the waves (R247): they have left it. -/
def State.unchain (s : State) (core : Nat) (ks : List Nat) : State :=
  s.updCore core fun c => { c with chained := c.chained.map fun x => match x with
    | some k => if ks.contains k then none else some k
    | none => none }

/-- A crew leaves the machine: its waves, fragments, side-log entries, engine work, slots and DS buffers are dropped, its
writes that have left the core stand, and its exposed records stay in the store (R220, R337, R344, R360). -/
def State.dropCrew (s : State) (c : Crew) : State :=
  let ws := s.waves.filter fun w => w.crew = c.key
  let s := ((s.cluster c.cluster).copies.filter fun y => y.crew = c.key).foldl State.interruptCopy s
  let s := s.dsDiscard c
  let s := ws.foldl (fun s w => (s.dropMatrix w).showRecords w.core w.key .device) s
  let s := s.updCluster c.cluster fun k => { k with copies := k.copies.filter fun y => y.crew != c.key }
  let s := s.updCore c.core fun k => { k with sideLog := k.sideLog.filter fun e => e.crew != c.key }
  let s := { s with waves := s.waves.filter (fun w => w.crew != c.key), crews := s.crews.filter (fun d => d.key != c.key)
                    held := [] }
  let s := (s.unchain c.core (ws.map Wave.key)).freedRoom
  (List.range Config.bivouacEntries).foldl (fun s e =>
    let b := (s.core c.core).bivouac.getD e {}
    if b.state != .free && ws.any (fun w => w.key = b.wave) then s.dropEntry c.core e else s) s

/-- A requeued record stands before the ring's, in pop order (R337). -/
def insertPopped (p : Popped) : List Popped → List Popped
  | [] => [p]
  | q :: qs => if p.order < q.order then p :: q :: qs else q :: insertPopped p qs

/-- A queue with a record returned to its head; the wait of a head that stays goes on (R336). -/
def Queue.putBack (q : Queue) (p : Popped) : Queue :=
  let front := insertPopped p q.front
  if front.head? = q.front.head? then { q with front := front } else { q with front := front, wait := none, triggered := false }

/-- Return a record to the head of its queue; an inactive queue never runs it. -/
def State.requeue (s : State) (p : Popped) : State :=
  match s.queue? p.queue with
  | some _ => s.updQueue p.queue fun q => q.putBack p
  | none => s.recordDone p.record

/-- A gang leaves the tables; a failed one stays known (R335), and so do the members that have completed. -/
def State.endGang (s : State) (launch gid : Nat) : State :=
  { s with
    gangs := s.gangs.filter fun g => !(g.launch = launch && g.gid = gid) || g.failed
    clusters := s.clusters.map fun c => if c.reserved = some (launch, gid) then { c with reserved := none } else c }

/-- Nothing of a gang is known any more. -/
def State.forgetGang (s : State) (launch gid : Nat) : State :=
  let s := s.endGang launch gid
  { s with gangs := s.gangs.filter fun g => !(g.launch = launch && g.gid = gid)
           gangDone := s.gangDone.filter fun d => !(d.1 = launch && d.2.1 = gid) }

/-- A crew's record as it was popped. -/
def Crew.item (c : Crew) : Option Popped := c.queue.map fun q => ⟨c.record, q, c.popped, c.scope⟩

/-- Discard a task, with every started member of its gang; the records return to their queues or are done with (R337). -/
def State.discardTask (s : State) (key : Nat) (requeue : Bool) : State :=
  match s.crew? key with
  | none => s
  | some c =>
    let cs := s.gangCrews c
    let s := cs.foldl State.dropCrew s
    let s := if recGang c.record then s.endGang c.launch (recGangId c.record).toNat else s
    cs.foldl (fun s d => match d.item with
      | some p => if requeue then s.requeue p else s.recordDone d.record
      | none => s) s

/-! ### A failed launch (R324) -/

/-- The units drop everything of a launch that waits: gang members, placements, joins, offers and page requests. -/
def State.dropWaiting (s : State) (n : Nat) : State :=
  let of (r : BitVec 512) : Bool := (recLaunch r).toNat = n
  let rs (t : Site) : List (BitVec 512) :=
    (t.gangWait.map (·.item.record) ++ t.placing.map (·.item.record)).filter of
  let f (t : Site) : Site :=
    { t with gangWait := t.gangWait.filter fun g => !of g.item.record
             placing := t.placing.filter fun p => !of p.item.record }
  let s := (rs s.siteA ++ rs s.siteB).foldl State.recordDone s
  { s with
    siteA := f s.siteA, siteB := f s.siteB
    gangs := s.gangs.filter fun g => g.launch != n
    gangDone := s.gangDone.filter fun d => d.1 != n
    clusters := s.clusters.map fun c => match c.reserved with
      | some (l, _) => if l = n then { c with reserved := none } else c
      | none => c
    offers := s.offers.filter fun o => o.launch != n
    joins := s.joins.filter fun j => j.launch != n
    fires := s.fires.filter fun j => j.launch != n
    waiters := s.waiters.filter fun w => w.launch != n }

/-- The queues that a launch owns close. -/
def State.closeOwned (s : State) (n : Nat) : State :=
  [0, 1].foldl (fun s x => ((s.site x).queues.filter fun q => q.owner = n && q.state = .opened).foldl (fun s q =>
    s.putQueue x { q with state := .closed }) s) s

/-- A failed launch's running tasks are discarded, without requeuing, and the rest is dropped. -/
def State.sweepLaunch (s : State) (n : Nat) : State :=
  let s := (s.crews.filter fun c => c.launch = n).foldl (fun s c => s.discardTask c.key false) s
  (s.dropWaiting n).closeOwned n

def State.sweepFailed (s : State) : State :=
  (s.launches.filter (·.failed)).foldl (fun s l => s.sweepLaunch l.num) s

end Sys2Proof.Machine
end

