-- ==== Sys2Proof/Machine/Link.lean ====
section
/-!
DEFINITION. The link between the sites: the LNK_ registers (17 R384), pausing and retraining (R385, R386), and packets and
their acknowledgements (11 R287-R289).
-/
namespace Sys2Proof.Machine

/-! ### The LNK_ registers (R384) -/

/-- A direction of a module is not off. -/
def LinkMod.up (m : LinkMod) : Bool := m.width != 0

def Site.mod (t : Site) (m : Nat) : LinkMod := t.link.getD m {}
def State.updMod (s : State) (site m : Nat) (f : LinkMod → LinkMod) : State :=
  s.updSite site fun t => { t with link := t.link.set m (f (t.mod m)) }

/-- Bits of a list of flags, the first lowest. -/
def flagBits (n : Nat) (f : Nat → Bool) : BitVec n :=
  (List.range n).foldl (fun b k => if f k then b ||| ((1 : BitVec n) <<< k) else b) 0

def LinkState.code : LinkState → BitVec 4
  | .reset => 0 | .training => 1 | .active => 2 | .failed => 3

/-- Every packet of every flow is acknowledged as applied. -/
def State.linkIdle (s : State) : Bool := s.flows.all fun f => f.unacked.isEmpty

def State.lnkStat (s : State) : Word :=
  let up : BitVec 4 := flagBits 4 fun m => (s.siteA.mod m).up || (s.siteB.mod m).up
  0x20#8 ++ 0#4 ++ up ++ 0#10 ++ BitVec.ofBool s.linkIdle ++ BitVec.ofBool s.paused ++ s.linkState.code

/-- The end that LNK_SEL names, and the module. -/
def State.lnkEnd (s : State) (site : Nat) : Nat := if (s.site site).lnkSel.getLsbD 2 then 1 - site else site
/-- A window access names the far end while the sideband is down (R384). -/
def State.farDown (s : State) (site : Nat) : Bool := (s.site site).lnkSel.getLsbD 2 && !s.sideband
def State.lnkMod (s : State) (site : Nat) : Nat := ((s.site site).lnkSel.extractLsb' 0 2).toNat

def LinkMod.wmod (m : LinkMod) : DWord := m.retry ++ 0#18 ++ m.wreq ++ 0#2 ++ m.width ++ 0#1 ++ m.spused ++ 0#4

/-- LNK_WMOD: WREQ, and CLR. -/
def State.writeWmod (s : State) (site : Nat) (v : DWord) : State :=
  if s.farDown site then s
  else s.updMod (s.lnkEnd site) (s.lnkMod site) fun m =>
    let m := { m with wreq := v.extractLsb' 12 2 }
    if v.getLsbD 0 then { m with retry := 0, wbad := 0 } else m

def State.writeWmap (s : State) (site : Nat) (v : DWord) : State :=
  if s.farDown site then s else s.updMod (s.lnkEnd site) (s.lnkMod site) fun m => { m with wmap := v }

def State.writeLnkSel (s : State) (site : Nat) (v : Word) : State := s.updSite site fun t => { t with lnkSel := v &&& 7 }

/-- A retrain takes WREQ and WMAP of every module that trains (R386). -/
def Site.latchMods (t : Site) (mods : BitVec 4) : Site :=
  { t with link := t.link.mapIdx fun k m => if mods.getLsbD k then { m with treq := m.wreq, tmap := m.wmap } else m }

/-- A retrain of a link that carries flits drops those in flight (R383). -/
def State.dropFlits (s : State) : State :=
  if s.linkState = .active then { s with flows := s.flows.map fun f => { f with transit := [] } } else s

/-- LNK_CTL: PAUSE, and the modules to retrain. -/
def State.writeLnkCtl (s : State) (v : Word) : State :=
  let s := { s with pause := v.getLsbD 0, paused := s.paused && v.getLsbD 0, held := [] }
  let r := v.extractLsb' 8 4
  if r = 0 then s
  else
    let mods := s.training ||| r
    { s.dropFlits with training := mods, linkState := .training, siteA := s.siteA.latchMods mods, siteB := s.siteB.latchMods mods }

/-- A write of LNK_CTL with PAUSE = 1. -/
def execLinkPause (w : RegWrite) (s : State) : Result :=
  .next (if w.value.getLsbD 0 then s.writeLnkCtl (w.value.setWidth 32) else s)
/-- A write of LNK_CTL with PAUSE = 0. -/
def execLinkResume (w : RegWrite) (s : State) : Result :=
  .next (if w.value.getLsbD 0 then s else s.writeLnkCtl (w.value.setWidth 32))
/-- A write of LNK_CTL with a RETRAIN bit set. -/
def execLinkRetrain (w : RegWrite) (s : State) : Result :=
  .next (if w.value.extractLsb' 8 4 = 0 then s else s.writeLnkCtl (w.value.setWidth 32))
/-- A write of LNK_WMOD with CLR = 1. -/
def execLinkClr (w : RegWrite) (s : State) : Result :=
  .next (if w.value.getLsbD 0 then s.writeWmod w.site w.value else s)

/-- Both ends have stopped giving numbers (R385). -/
def execLinkPaused (s : State) : Result := .next (if s.pause then { s with paused := true } else s)

/-! ### Resends (R289) -/

/-- The packets that a sender resends: those not acknowledged that are not on their way. -/
def Flow.lost (f : Flow) : List (BitVec 16) := (f.unacked.map (·.1)).filter fun n => !f.transit.contains n

/-- Every sender of flows to a site resends what is not acknowledged. -/
def State.resendTo (s : State) (dst : Nat) : State :=
  let n := (s.flows.filter fun f => f.id.dst = dst).foldl (fun n f => n + f.lost.length) 0
  let flows := s.flows.map fun (f : Flow) => if f.id.dst = dst then { f with transit := f.transit ++ f.lost } else f
  { s with flows := flows }.updSite (1 - dst) fun t =>
    { t with lnkRs := (t.lnkRs.extractLsb' 32 32 + BitVec.ofNat 32 n) ++ t.lnkRs.extractLsb' 0 32 }

/-! ### LINK_TRAIN_COMPLETE (R386) -/

/-- The lanes that a width names. -/
def widthLanes (w : BitVec 2) : DWord :=
  if w = 0 then 0 else if w = 1 then 0xFFFFFFFF else if w = 2 then 0xFFFFFFFF00000000 else 0xFFFFFFFFFFFFFFFF

def bitCount (x : DWord) : Nat := (List.range 64).countP fun k => x.getLsbD k

/-- Lanes of a module that its training carries on spares. -/
def LinkMod.spares (m : LinkMod) : Nat := bitCount (m.tmap &&& widthLanes m.treq)

/-- A direction after its training. -/
def LinkMod.trained (m : LinkMod) : LinkMod :=
  if 4 < m.spares then { m with width := 0, spused := 0 }
  else { m with width := m.treq, spused := BitVec.ofNat 3 m.spares }

/-- DATA of a link event: the end and the module. -/
def linkData (site m : Nat) : BitVec 192 := BitVec.ofNat 192 (site % 2 + 2 * (m % 4))

/-- Train one received direction. -/
def State.trainMod (s : State) (site m : Nat) : State :=
  if s.training.getLsbD m then
    let t := s.updMod site m LinkMod.trained
    if 4 < ((s.site site).mod m).spares then t.ras 0x0A site (data := linkData site m) else t
  else s

/-- A direction with every module off. -/
def Site.deaf (t : Site) : Bool := t.link.all fun m => !m.up

def execLinkTrainComplete (s : State) : Result :=
  if s.linkState != .training then .next s
  else
    let s := [0, 1].foldl (fun s x => (List.range 4).foldl (fun s m => s.trainMod x m) s) s
    let s := { s with training := 0, held := [] }
    if s.siteA.deaf || s.siteB.deaf then
      .next ([0, 1].foldl (fun s x => if (s.site x).deaf then s.ras 0x0B x (data := linkData x 0) else s)
        { s with linkState := .failed })
    else .next (({ s with linkState := .active }.resendTo 0).resendTo 1)

/-! ### FLIT_CRC_ERROR (R383, R384) -/

/-- A flit received by a site on a module fails its check in some lanes; the adapter replays it, which no flow sees. -/
def execFlitCrcError (site modn : Nat) (lanes : BitVec 64) (s : State) : Result :=
  let m := (s.site site).mod modn
  if site ≤ 1 && modn < 4 && m.up && s.linkState = .active then
    .next (s.updMod site modn fun m =>
      { m with retry := if m.retry = 0xFFFFFFFF then m.retry else m.retry + 1
               wbad := m.wbad ||| (lanes &&& widthLanes m.width) })
  else .next s

/-! ### PACKET_RECEIVE and LINK_ACK_RECEIVE (R288, R289) -/

/-- The destination applies a numbered packet: the write is performed, the record stored. -/
def State.applyPayload (s : State) (f : FlowId) (n : BitVec 16) : Payload → State
  | .access id => s.performAll (s.inflight.filter fun x => x.id = id) .device
  | .record w words => (s.insertRecord f.dst (some w) words).applyPacket f n

/-- A packet's payload, while its sender keeps it. -/
def Flow.payload (x : Flow) (n : BitVec 16) : Option Payload := (x.unacked.find? fun p => p.1 = n).map (·.2)

/-- A copy of packet `seq` arrives, or the reorder buffer's next packet is applied. -/
def execPacketReceive (flow : FlowId) (seq : BitVec 16) (s : State) : Result :=
  let x := s.flow flow
  let next := flow.ordered && x.held.contains seq && seq = x.expected
  if s.linkState != .active || !(x.transit.contains seq || next) then .next s
  else if !next && (x.applied seq || x.held.contains seq) then
    .next ((s.setFlow { x with transit := x.transit.erase seq }).updSite flow.dst fun t =>
      { t with lnkRs := t.lnkRs.extractLsb' 32 32 ++ (t.lnkRs.extractLsb' 0 32 + 1) })
  else if flow.ordered && seq != x.expected then
    .next (s.setFlow { x with transit := x.transit.erase seq, held := x.held ++ [seq] })
  else match x.payload seq with
    | some p => .next { s.applyPayload flow seq p with held := [] }
    | none => .next s

/-- A cumulative acknowledgement arrives: the sender forgets the applied packets up to `seq`. -/
def execLinkAckReceive (flow : FlowId) (seq : BitVec 16) (s : State) : Result :=
  let x := s.flow flow
  if s.linkState != .active || !((x.expected - seq - 1).toNat < 32768) then .next s
  else .next { s.setFlow { x with unacked := x.unacked.filter fun p => !((seq - p.1).toNat < 32768) } with held := [] }

end Sys2Proof.Machine
end

