-- ==== Sys2Proof/Machine/Errors.lean ====
section
/-!
DEFINITION. Errors and what repair does (18 R404, R406, R407), RAS_CLR (R410), the security alarm (R414), and what the
system controllers hear from outside: the time base (17 R389, R390), headset records (R399), the display (R400) and
throttling (R403).
-/
namespace Sys2Proof.Machine

/-! ### The configuration record (R412) -/

/-- The 64-byte body of the record. -/
def Site.cfg (t : Site) : BitVec 512 := BitVec.ofNat 512 (ofBytes (t.config.take 64))
def cfgHostKey (r : BitVec 512) : BitVec 384 := r.extractLsb' 128 384
def cfgErase (r : BitVec 512) : Bool := r.getLsbD 25
def cfgSnapUser (r : BitVec 512) : Bool := r.getLsbD 24
def cfgTjMax (r : BitVec 512) : Nat := (r.extractLsb' 16 8).toNat
def cfgMinVer (r : BitVec 512) : BitVec 16 := r.extractLsb' 32 16

/-! ### Memory errors (R404) -/

/-- A single-bit error is corrected and counted. -/
def execCorrectedError (site addr : Nat) (s : State) : Result :=
  .next (s.ras 0x01 (site % 2) (addr := BitVec.ofNat 64 (addr / 64 * 64)))

/-! ### Lasting faults (R406, R407) -/

/-- A crew of a retired core is discarded: requeued when it is idempotent, else its launch fails. -/
def State.discardOnFault (s : State) (c : Crew) : State :=
  if (s.crew? c.key).isNone then s
  else if recIdem c.record then s.discardTask c.key true
  else (s.failLaunch c.launch (recTindex c.record) 0 0 0 2 0x08).discardTask c.key false

/-- A core is retired. -/
def State.retireCore (s : State) (core : Nat) : State :=
  if (s.core core).retired then s
  else
    let s := s.updCore core fun c => { c with retired := true }
    let cs := s.coreCrews core
    let s := ((cs.filter fun c => !recIdem c.record) ++ cs.filter fun c => recIdem c.record).foldl State.discardOnFault s
    s.ras 0x05 (core / 96) (some core) (some (core / 8))

def execLastingLaneFault (core : Nat) (s : State) : Result := .next (if core < 192 then s.retireCore core else s)

/-- The ratio of a register pole. -/
def Core.pole (c : Core) (p : Nat) : BitVec 2 := c.poles.extractLsb' (2 * p) 2

/-- Register poles that carry traffic. -/
def Core.workingPoles (c : Core) : Nat := (List.range 16).countP fun p => c.pole p != 3

/-- DATA of event 0x06. -/
def poleData (core pole : Nat) (st : BitVec 2) : BitVec 192 :=
  BitVec.ofNat 192 (core % 96 + 2 ^ 8 * (pole % 256) + 2 ^ 16 * st.toNat)

/-- The counts of ST_POLELOFT with one pole moved from a ratio to the next (R409). -/
def poleMoved (v : DWord) (st : BitVec 2) : DWord :=
  if st = 0 then v - 1 + 0x400 else if st = 1 then v - 0x400 + 0x100000 else v - 0x100000 + 0x40000000

/-- A pole's ratio is lowered one step; at 4:1 it is retired. -/
def execLastingPoleFault (core : Nat) (pole : PoleRef) (s : State) : Result :=
  if 192 ≤ core then .next s
  else match pole with
    | .reg p =>
      let st := (s.core core).pole p
      if 16 ≤ p || st = 3 then .next s
      else
        let s := s.updCore core fun c => { c with poles := c.poles + ((1 : Word) <<< (2 * p)) }
        let s := s.ras 0x06 (core / 96) (some core) (some (core / 8)) (data := poleData core p (st + 1))
        .next (if (s.core core).workingPoles < 8 then s.retireCore core else s)
    | .loft p =>
      let site := core / 96
      let st := SMap.get (s.site site).loftPoles p
      if 512 ≤ p || st = 3 then .next s
      else
        .next ((s.updSite site fun t =>
          { t with loftPoles := SMap.set t.loftPoles p (st + 1), poleLoft := poleMoved t.poleLoft st }).ras 0x06 site
          (some core) (some (core / 8)) (data := poleData core p (st + 1)))

/-! ### Uncorrectable errors (R404) -/

/-- A memory read, repeated once; `second`: the repeat fails too, and the line is poisoned. -/
def State.readError (s : State) (addr : Nat) (second : Bool) : State :=
  match Config.homeSite addr with
  | none => s
  | some site =>
    if isWindow addr then s
    else
      let a : DWord := BitVec.ofNat 64 (addr / 64 * 64)
      if second then (s.poisonLine addr).ras 0x03 site (addr := a) else s.ras 0x02 site (addr := a)

/-- A read of a scratchpad, repeated once; a lasting error poisons the line (R207, R309). -/
def State.scratchError (s : State) (crew off : Nat) (second : Bool) : State :=
  match s.crew? crew with
  | none => s
  | some c =>
    if c.scratchBytes ≤ off then s
    else
      let event (s : State) (code : BitVec 8) : State :=
        s.ras code c.site (some c.core) (some c.cluster) c.launch (recTindex c.record) (BitVec.ofNat 64 (off / 64 * 64))
      if second then event (s.updCrew crew fun c =>
        { c with badLines := if c.badLines.contains (off / 64) then c.badLines else c.badLines ++ [off / 64] }) 0x03
      else event s 0x02

/-- A transient error in a core. -/
def State.transient (s : State) (core : Nat) : State :=
  if core < 192 then s.ras 0x02 (core / 96) (some core) (some (core / 8)) else s

/-- An uncorrectable error: the unit repeats the operation once, and `second` says that the repeat fails too. -/
def execUncorrectableError (at_ : ErrAt) (second : Bool) (s : State) : Result :=
  match at_, second with
  | .line addr, b => .next (s.readError addr b)
  | .scratch crew off, b => .next (s.scratchError crew off b)
  | .lane core, false | .pole core _, false => .next (s.transient core)
  | .lane core, true => execLastingLaneFault core s
  | .pole core pole, true => execLastingPoleFault core pole s

/-! ### RAS_CLR (R410) -/

/-- RAS_CLR: counter k clears for each bit k of the value. -/
def State.rasClear (s : State) (site : Nat) (v : Word) : State :=
  s.updSite site fun t => { t with rasCnt := t.rasCnt.mapIdx fun k n => if v.getLsbD k then 0 else n }

def execRasClr (w : RegWrite) (s : State) : Result := .next (s.rasClear w.site (w.value.setWidth 32))

/-! ### SECURITY_ALARM (R414) -/

/-- The alarm stands on both sites: waves stop, the display is black, and with ERASE the key stores are erased. -/
def execSecurityAlarm (site : Nat) (s : State) : Result :=
  let f (t : Site) : Site := { t with keys := t.keys && !cfgErase t.cfg, scan := { t.scan with out := [] } }
  .next ({ s with alarm := true, siteA := f s.siteA, siteB := f s.siteB }.ras 0x0E (site % 2))

/-! ### The time base (R389, R390) -/

/-- TMR_STAT. -/
def tmrStatWord (m : PtpMsg) : Word :=
  0#16 ++ m.interval ++ 0#5 ++ BitVec.ofBool m.port ++ BitVec.ofBool m.gm ++ BitVec.ofBool m.sync

/-- A rate correction within ±100,000 parts per 10^9. -/
def clampRate (v : Word) : Word := if v.toInt < -100000 then BitVec.ofInt 32 (-100000) else if 100000 < v.toInt then 100000 else v

/-- A gPTP message: the registers of a site, and a forward step of the timer before the first launch. -/
def execPtpSync (m : PtpMsg) (s : State) : Result :=
  let s := s.updSite m.site fun t =>
    { t with tmrStat := tmrStatWord m, tmrOffset := m.offset, tmrRate := clampRate m.rate, tmrGmid := m.gmid, tmrSkew := m.skew }
  let now := s.timer + BitVec.ofNat 64 (min m.forward (2 ^ 64 - 1 - s.timer.toNat))
  .next (if s.launched || m.forward = 0 then s else { s with timer := now, snapFrom := now })

/-! ### HEADSET_FRAME (R399) -/

def hsKind (r : BitVec 256) : BitVec 8 := r.extractLsb' 64 8
def hsEye (r : BitVec 256) : BitVec 8 := r.extractLsb' 72 8
def hsTime (r : BitVec 256) : Nat := (r.extractLsb' 0 64).toNat

/-- A record without a nonzero reserved bit, of a known kind. -/
def hsAccepted (r : BitVec 256) : Bool :=
  r.extractLsb' 80 16 = 0 &&
  ((hsKind r = 1 && r.extractLsb' 144 112 = 0 && (hsEye r).extractLsb' 2 6 = 0) || (hsKind r = 2 && hsEye r = 0))

/-- The gaze record that a site's Light meter uses. -/
def newGaze (site : Nat) (old : Option (BitVec 256)) (r : BitVec 256) : Option (BitVec 256) :=
  if hsKind r = 1 && (hsEye r).getLsbD site then
    match old with
    | some o => if hsTime o ≤ hsTime r then some r else old
    | none => some r
  else old

/-- One accepted record: the ring's next slot, which may lie in a spare frame (R405), the count, and the gaze. -/
def State.hsAppend (s : State) (r : BitVec 256) : State :=
  let f (x : Nat) (t : Site) : Site := { t with gaze := newGaze x t.gaze r }
  let s := { s with siteA := f 0 s.siteA, siteB := f 1 s.siteB }
  match s.hsRing with
  | none => s
  | some (base, n) =>
    let pa := s.nowAt (base + 32 * (s.hsCount.toNat % n))
    let s := if s.lineBad pa then s else s.pokeHome pa (toBytes r 32)
    { s with hsCount := s.hsCount + 1 }

/-- A frame of 1 to 45 records. -/
def execHeadsetFrame (_port : Nat) (records : List (BitVec 256)) (s : State) : Result :=
  if records.isEmpty || 45 < records.length then .next s
  else .next ((records.filter hsAccepted).foldl State.hsAppend s)

/-! ### DP_HOTPLUG (R400) and throttling (R403) -/

/-- A display comes or goes; the controller trains the link of one that comes. -/
def execDpHotplug (site : Nat) (present : Bool) (s : State) : Result :=
  .next (s.updSite site fun t => { t with dpPresent := present, dpTrains := if present then t.dpTrains + 1 else t.dpTrains })

/-- The junction limit: the configuration record's, or its greatest value where none is held. -/
def Site.tjMax (t : Site) : Nat := if t.config.isEmpty then 105 else cfgTjMax t.cfg

/-- The site's power or the cluster's temperature exceeds its limit. -/
def State.hot (s : State) (cluster watts tj : Nat) : Bool := 250 < watts || (s.site (cluster / 12)).tjMax < tj

/-- The clock is lowered one step of 25 MHz. -/
def execThrottle (cluster watts tj : Nat) (s : State) : Result :=
  .next (if s.hot cluster watts tj then
    s.updCluster cluster fun c => { c with thr := true, mhz := max 200 (c.mhz - 25) } else s)

/-- The limits hold again: the cluster returns to its class's clock. -/
def execThrottleEnd (cluster watts tj : Nat) (s : State) : Result :=
  .next (if s.hot cluster watts tj then s
    else s.updCluster cluster fun c =>
      if c.thr then { c with thr := false, mhz := c.nominal } else c)

end Sys2Proof.Machine
end

