-- ==== Sys2Proof/Machine/Fetch.lean ====
section
/-!
DEFINITION. Fetching an instruction's parcels from the launch's code window (02 R29-R31, 12 R309).
-/
namespace Sys2Proof.Machine

/-- Why a parcel cannot be fetched: a trap, or a packet that the link does not take (R385). -/
inductive NoFetch where
  | trap (code : BitVec 8) (detail : BitVec 16) (addr : DWord)
  | far
  deriving DecidableEq, Repr

/-- What a fetch gives: two parcels (the second read only for a long instruction), a trap, or a wait for the link. -/
inductive Fetched where
  | ok (p0 p1 : Parcel)
  | trap (insn : LongWord) (code : BitVec 8) (detail : BitVec 16) (addr : DWord)
  | far
  deriving DecidableEq, Repr

/-- One byte of code, or why it cannot be fetched. -/
def State.fetchByte (s : State) (site : Nat) (c : Crew) (va : Nat) : State × Except NoFetch Byte :=
  if s.walkHeld site c.launch va then (s, .error .far)
  else match s.translate site c.launch va with
  | (s, .fault d) => (s, .error (.trap 0x05 d (BitVec.ofNat 64 va)))
  | (s, .ok pa _ leaf) =>
    if denies leaf c.priv { x := true } then (s, .error (.trap 0x06 2 (BitVec.ofNat 64 va)))
    else if !s.reaches site pa then (s, .error .far)
    else if s.lineBad pa then (s, .error (.trap 0x08 1 (BitVec.ofNat 64 va)))
    else (s, .ok (s.homeByte pa))

/-- n bytes of code. -/
def State.fetchBytes (s : State) (site : Nat) (c : Crew) (va : Nat) : Nat → State × Except NoFetch (List Byte)
  | 0 => (s, .ok [])
  | n + 1 =>
    match s.fetchByte site c va with
    | (s, .error e) => (s, .error e)
    | (s, .ok b) =>
      match s.fetchBytes site c (va + 1) n with
      | (s, .error e) => (s, .error e)
      | (s, .ok bs) => (s, .ok (b :: bs))

/-- The read of a page of the other site for n bytes of code: its request and its response (R287). -/
def State.fetchTrip (s : State) (site : Nat) (c : Crew) (va n : Nat) : State :=
  let last := (va + n - 1) / 4096 * 4096
  (if last ≤ va then [va] else [va, last]).foldl (fun s a => match s.xlat site c.launch a with
    | .ok pa kind _ =>
      if Config.homeSite pa = some (1 - site) then
        (s.passIn (accessFlow c.core kind)).passPacket { accessFlow c.core kind with dst := site }
      else s
    | .fault _ => s) s

/-- Parcel n of the launch's window (R29, R30); a free value once the window was modified under a running launch (R31). -/
def State.fetchParcel (s : State) (site : Nat) (c : Crew) (l : Launch) (n : Nat) : State × Except NoFetch Parcel :=
  if l.window ≤ n then (s, .error (.trap 0x06 0x0008 (BitVec.ofNat 64 (l.codeBase + 5 * l.window))))
  else
    match s.fetchBytes site c (l.codeBase + 5 * n) 5 with
    | (s, .error e) => (s, .error e)
    | (s, .ok bs) =>
      let s := s.fetchTrip site c (l.codeBase + 5 * n) 5
      if l.codeFree then ({ s with fresh := s.fresh + 1 }, .ok ((Config.freeWord s.fresh).setWidth 40))
      else (s, .ok (BitVec.ofNat 40 (ofBytes bs)))

/-- The instruction at a PC of a wave. -/
def State.fetch (s : State) (w : Wave) (pc : Word) : State × Fetched :=
  match s.crew? w.crew with
  | none => (s, .trap 0 0x06 0x0008 0)
  | some c =>
    match s.launch? c.launch with
    | none => (s, .trap 0 0x06 0x0008 0)
    | some l =>
      match s.fetchParcel w.site c l pc.toNat with
      | (s, .error .far) => (s, .far)
      | (s, .error (.trap code d a)) => (s, .trap 0 code d a)
      | (s, .ok p0) =>
        if isLong p0 then
          match s.fetchParcel w.site c l (pc.toNat + 1) with
          | (s, .error .far) => (s, .far)
          | (s, .error (.trap code d a)) => (s, .trap (p0.setWidth 80) code d a)
          | (s, .ok p1) => (s, .ok p0 p1)
        else (s, .ok p0 0)

/-! ### A window that is modified while a launch runs from it (R31) -/

/-- The physical ranges that a virtual range maps to through the tables at a root, leaf by leaf, or page by page once a frame
has moved (R405); what is not mapped is left out. -/
def State.mapped (s : State) (root : Nat) : Nat → Nat → Nat → List (Nat × Nat)
  | 0, _, _ => []
  | fuel + 1, va, n =>
    if n = 0 then []
    else match walkFrom s va 3 root with
      | .fail _ _ =>
        let m := min n (4096 - va % 4096)
        s.mapped root fuel (va + m) (n - m)
      | .leaf e _ vpage pages =>
        let m := min n (if s.retired.isEmpty then 4096 * (vpage + pages) - va else 4096 - va % 4096)
        (s.nowAt (entryPa e + (va - 4096 * vpage)), m) :: s.mapped root fuel (va + m) (n - m)

/-- The physical ranges of a launch's code window. -/
def State.codeAt (s : State) (l : Launch) : List (Nat × Nat) :=
  s.mapped l.root (5 * l.window / 4096 + 2) l.codeBase (5 * l.window)

/-- The addresses at which two memories differ. -/
def changedCells : Nat → SMap 8 → SMap 8 → List Nat
  | 0, _, _ => []
  | _ + 1, [], b => b.map (·.1)
  | _ + 1, a, [] => a.map (·.1)
  | fuel + 1, x :: a, y :: b =>
    if x = y then changedCells fuel a b
    else if x.1 = y.1 then x.1 :: changedCells fuel a b
    else if x.1 < y.1 then x.1 :: changedCells fuel a (y :: b)
    else y.1 :: changedCells fuel (x :: a) b

/-- A byte of the window of a launch with a running crew changed between s and t, at addresses `ch`, in frames that the
window kept. -/
def State.codeHit (s t : State) (ch : List Nat) (l : Launch) : Bool :=
  (t.crews.any fun c => c.launch = l.num) && decide (s.codeAt l = t.codeAt l) &&
  ch.any fun pa => (t.codeAt l).any fun p => p.1 ≤ pa && pa < p.1 + p.2

/-- The state t after a step from s, with every launch marked whose window the step modified while the launch ran from it
(R31; log entry 9). -/
def State.noteCode (s t : State) : State :=
  if t.mem = s.mem then t
  else
    let ch := changedCells (s.mem.length + t.mem.length) s.mem t.mem
    { t with launches := t.launches.map fun l => if s.codeHit t ch l then { l with codeFree := true } else l }

/-- The outcome of a step from s, with the launches marked. -/
def State.noteStep (s : State) : Result → Result
  | .next t => .next (s.noteCode t)
  | .fault f => .fault f
  | .refused r => .refused r

end Sys2Proof.Machine
end

