-- ==== Sys2Proof/Machine/Queue.lean ====
section
/-!
DEFINITION. Queue registers and their ports (07 R212-R216): qbind, qstat, pushes and pops, and the delivery of records.
-/
namespace Sys2Proof.Machine

/-- The pair of a queue register. -/
def selPair : Sel → Nat
  | .q k => k.toNat / 2
  | _ => 0

def Port.inFlight (p : Port) (l : Nat) : Nat := p.flight.countP fun x => x.lane = l
def Port.ready (p : Port) (l : Nat) : Nat := p.outs.countP fun x => x.lane = l
/-- The port takes a push of a lane now (R213). -/
def Port.room (p : Port) (l : Nat) : Bool := p.inFlight l < 8 && p.ready l < 8

/-! ### qbind and qstat (R212) -/

/-- Bind a pair, or unbind it: unpopped records are discarded. -/
def State.bindPort (s : State) (key k code : Nat) (desc : BitVec 512) : State :=
  s.updWave key fun w => (w.dropHeld k).setPort k { code := code, desc := desc }

/-- Accept a binding once the pair has no push in flight; until then qbind waits, its held pushes discarded. -/
def acceptBind (i : Issue) (s : State) (k code : Nat) (desc : BitVec 512) : Eff :=
  if (i.w.port k).flight.isEmpty then { s := s.bindPort i.w.key k code desc }
  else { s := i.s, hold := true, unheld := some k }

/-- A 64-byte control block that an instruction names: its snapshot, or how the read fails (R171, R212, R217); `far`: it needs
a packet that the link does not take (R385). -/
inductive BlockAt where
  | ok (s : State) (pa : Nat) (kind : PKind)
  | trap (s : State) (code : BitVec 8) (detail : BitVec 16)
  | wait
  | far
  | window
  deriving DecidableEq, Repr

def State.blockAt (s : State) (g : Agent) (va : Nat) : BlockAt :=
  if 2 ^ 52 ≤ va then .trap s 0x06 0x01
  else if va % 64 != 0 then .trap s 0x04 0
  else if s.walkHeld (g.core / 96) g.launch va then .far
  else match s.translate (g.core / 96) g.launch va with
    | (s, .fault d) => .trap s 0x05 d
    | (s, .ok pa kind leaf) =>
      if denies leaf g.priv { r := true } then .trap s 0x06 0x02
      else if isWindow pa then .window
      else if s.readBad g.core pa 64 then .trap s 0x08 1
      else if !s.reaches (g.core / 96) pa then .far
      else if s.logCovers g.core g.wave va 64 then .wait
      else .ok s pa kind

/-- The engine behind a port of a code (R213). -/
def portUnit (code : Nat) : FlowUnit := if code = 5 then .haze else .rangefinder

def execQbind (x : LE) (s : State) : Result :=
  issue (.qbind x) (fun i => once i (
    let k := selPair x.d
    let code := match x.a with
      | .inl j => (inlValue j).toNat
      | _ => (engineOp i true x.a).toNat
    if 5 < code then trapAll i 0x06 0x04
    else if code = 0 then acceptBind i i.s k 0 0
    else
      let va := engineOp i true x.b
      match i.s.blockAt i.agent va.toNat with
      | .trap s c d => { trapAll i c d (some va) with s := s }
      | .wait => { s := i.s, hold := true }
      | .far => i.linkHeld
      | .window => { s := i.s, stop := some .deviceWindow }
      | .ok s pa kind =>
        let (s, desc, cached) := s.readBlock (s.cluster i.w.cluster).blocks { i.agent with unit := portUnit code } kind pa
        acceptBind i (s.updCluster i.w.cluster fun c => { c with blocks := cached }) k code desc)) s

/-- The word of qstat for a lane; a count above 255 is a free value in its field. -/
def qstatWord (fresh : Nat) (p : Port) (l : Nat) : Word :=
  let n := p.ready l
  BitVec.ofNat 8 p.code ++ 0#8 ++ (if n < 256 then BitVec.ofNat 8 n else Config.freeByte (fresh + l)) ++
    BitVec.ofNat 8 (p.inFlight l)

def execQstat (x : LE) (s : State) : Result :=
  issue (.qstat x) (fun i =>
    let p := i.w.port (selPair x.a)
    let vals := i.act.map fun l => (l, (qstatWord i.s.fresh p l).setWidth 64)
    let s := { i.s with fresh := i.s.fresh + 32 }
    match x.d with
    | .v r => { s := s, vw := vals.map (fun q => (32 * r.toNat + q.1, q.2.setWidth 32)), entry := laneEntry 1 x.d vals }
    | .s r => { s := s, sw := vals.head?.map fun q => (r.toNat, q.2) }
    | _ => { s := s }) s

/-! ### Pushes and pops (R213) -/

/-- A push of a lane, with its binding and what memory holds now. -/
def mkPush (s : State) (p : Port) (l : Nat) (words : List Word) : Push :=
  { order := s.nextId, lane := l, words := words, code := p.code, desc := p.desc, mem := s.mem, fly := s.inflight
    dsLines := s.siteA.dsLines ++ s.siteB.dsLines, dsWrites := s.dsWrites }

/-- A lane pushes: the port takes the push, or holds it and the lane blocks. -/
def State.pushOne (s : State) (key k l : Nat) (words : List Word) : State :=
  match s.wave? key with
  | none => s
  | some w =>
    let p := w.port k
    let q := mkPush s p l words
    let w' := if p.room l then w.setPort k { p with flight := p.flight ++ [q] }
      else (w.setPort k { p with held := p.held ++ [q] }).updLanes [l] fun _ x => { x with block := .qpush k }
    { s.setWave w' with nextId := s.nextId + 1 }

/-- Pushing to a pair that is not bound is ILLEGAL 0x06. -/
def unboundTrap (l : Nat) : LaneTrap := { lane := l, code := 0x01, detail := 0x06 }

/-- The words of an element of n registers, low word first (R98). -/
def elemRecord (n : Nat) (x : DWord) : List Word := (List.range n).map fun k => x.extractLsb' (32 * k) 32

/-- Each acting lane pushes a record: the words of the nine elements that `f` gives, in row-major order.  A record has nine
words; what elements of 64 bits hold beyond them is not moved (log entry 68). -/
def pushBody (d : Sel) (n : Nat) (f : Nat → Nat → Except (BitVec 16) DWord) (i : Issue) : Eff :=
  let k := selPair d
  if (i.w.port k).code = 0 then { s := i.s, traps := i.act.map unboundTrap }
  else
    i.act.foldl (fun e l =>
      let rs := (List.range 9).map (f l)
      match lowestLost rs with
      | some d => { e with traps := e.traps ++ [{ lane := l, code := 0x02, detail := d }] }
      | none => { e with s := e.s.pushOne i.w.key k l ((rs.flatMap fun r => match r with
          | .ok v => elemRecord n v
          | .error _ => []).take 9) }) ({ s := i.s } : Eff)

def execMovQPush (x : LR) (t : ITy) (s : State) : Result :=
  issue (.movQPush x t) (fun i => pushBody x.d t.regs (fun l k => readSrc i.w x.extent l k (.int t.regs) x.a) i) s

/-- A mov of an immediate (R98): to the elements of a block, to an s register, or to a record. -/
def immBody (d : Sel) (e : Ext) (t : ITy) (v : Nat) (i : Issue) : Eff :=
  match d with
  | .q _ => pushBody d t.regs (fun _ _ => .ok (BitVec.ofNat 64 v)) i
  | _ => elemEff i e t.regs (sxOf t) false d fun _ _ => ok1 v

def execMovLi (x : LI) (t : ITy) (s : State) : Result :=
  issue (.movLi x t) (immBody x.d x.extent t ((immOf x.imm).toNat % 2 ^ wOf t)) s
/-- The literal of LK: sign-extended for .i64, zero-extended for .n64 (R98). -/
def literalOf (t : ITy) (imm : BitVec 32) : Nat :=
  match t with
  | .i64 => (imm.signExtend 64).toNat
  | _ => imm.toNat
def execMovLk (x : LK) (t : ITy) (s : State) : Result :=
  issue (.movLk x t) (immBody x.d x.extent t (literalOf t x.imm)) s

/-- The words that a pop writes to a lane, given the record's eight: a block of 64-bit elements has sixteen registers, of
which the record gives no value to the last eight (log entry 68). -/
def popWords (fresh : Nat) (wide : Bool) (ws : List Word) : List Word :=
  (List.range (if wide then 16 else 8)).map fun k =>
    if k < 8 then ws.getD k 0 else (Config.freeWord (fresh + k)).setWidth 32

/-- Write a pop's words to consecutive registers of a lane. -/
def recordWords (r l : Nat) (ws : List Word) : List (Nat × Word) :=
  (List.range ws.length).map fun k => (32 * (r + k) + l, ws.getD k 0)

/-- Element n of a pop's words. -/
def popElem (wide : Bool) (ws : List Word) (n : Nat) : DWord :=
  if wide then ws.getD (2 * n + 1) 0 ++ ws.getD (2 * n) 0 else (ws.getD n 0).setWidth 64

/-- A lane pops: the oldest record, a block while pushes are in flight, or an EMPTY record. -/
def State.popOne (s : State) (key k l : Nat) (reg : BitVec 8) (wide ws : Bool) : State × Option (List Word) :=
  match s.wave? key with
  | none => (s, none)
  | some w =>
    let p := w.port k
    match p.outs.find? fun o => o.lane = l with
    | some o => (s.setWave (w.setPort k { p with outs := p.outs.erase o }), some (popWords (s.fresh + 16 * l) wide o.words))
    | none =>
      if p.inFlight l = 0 then (s, some (popWords (s.fresh + 16 * l) wide (List.replicate 8 0)))
      else (s.setWave (w.updLanes [l] fun _ x => { x with block := .qpop k reg wide ws }), none)

/-- The destination and the queue register of a pop, and whether its elements have 64 bits. -/
def popRegs : PopForm → Sel × Sel × Bool
  | .long x t => (x.d, x.a, t.regs = 2)
  | .short x => (.v x.da, x.b, false)

/-- A draw of free values is spent on a block of 64-bit elements. -/
def spendPop (wide : Bool) (s : State) : State := if wide then { s with fresh := s.fresh + 512 } else s

def popBody (d a : Sel) (wide : Bool) (i : Issue) : Eff :=
  let k := selPair a
  let reg : BitVec 8 := match d with
    | .v r => r
    | _ => 0
  if (i.w.port k).code = 0 then { s := i.s, traps := i.act.map unboundTrap }
  else
    let (s, got) := i.act.foldl (fun acc l =>
      let (s, r) := acc.1.popOne i.w.key k l reg wide i.h.ws
      (s, match r with
        | some ws => acc.2 ++ [(l, ws)]
        | none => acc.2)) (i.s, ([] : List (Nat × List Word)))
    { s := spendPop wide s, vw := got.flatMap fun p => recordWords reg.toNat p.1 p.2
      entry := some { wide := wide, count := 8, elems := got.flatMap fun p =>
        (List.range 8).map fun n => (32 * n + p.1, popElem wide p.2 n) } }

def execMovQPop (x : PopForm) (s : State) : Result :=
  issue (.movQPop x) (popBody (popRegs x).1 (popRegs x).2.1 (popRegs x).2.2) s

/-! ### PORT_TAKE_PUSH, and the end of a push (R213, R251) -/

/-- The port takes a held push, and its lane wakes. -/
def execPortTakePush (wave pair lane : Nat) (s : State) : Result :=
  match s.wave? wave with
  | none => .next s
  | some w =>
    let p := w.port pair
    match p.held.find? fun x => x.lane = lane with
    | none => .next s
    | some q =>
      if !p.room lane then .next s
      else
        let w := w.setPort pair { p with held := p.held.erase q, flight := p.flight ++ [q] }
        .next { s.setWave (w.updLanes [lane] fun _ x => { x with block := .none }) with held := [] }

/-- A push ends with its out records: they become ready, and a lane blocked in a pop takes the first. -/
def State.endPush (s : State) (key k : Nat) (q : Push) (recs : List (List Word)) : State :=
  match s.wave? key with
  | none => s
  | some w =>
    let p := w.port k
    let outs := p.outs ++ recs.map fun r => { lane := q.lane, words := r }
    let p := { p with flight := p.flight.erase q, outs := outs }
    let w' := match (w.lane q.lane).block, outs.find? fun o => o.lane = q.lane with
      | .qpop pk reg wide ws, some o =>
        if pk = k then
          let w := w.setPort k { p with outs := outs.erase o }
          let w := if ws then w else w.setV (recordWords reg.toNat q.lane (popWords (s.fresh + 16 * q.lane) wide o.words))
          w.updLanes [q.lane] fun _ x => { x with block := .none }
        else w.setPort k p
      | _, _ => w.setPort k p
    let wide := match (w.lane q.lane).block with
      | .qpop _ _ wide _ => wide
      | _ => false
    { spendPop wide (s.setWave w') with held := [] }

/-- The push that a port runs next for a lane: its oldest on the pair, with one of the port codes. -/
def Wave.running (w : Wave) (k l code : Nat) : Option Push :=
  match (w.port k).flight.find? fun q => q.lane = l with
  | some q => if q.code = code && q.wait.isNone then some q else none
  | none => none

/-! ### Reads of a port's engine (R189, R213, R372) -/

/-- What a port's read of memory comes to. -/
inductive PortRead where
  | ok (bs : List Byte)
  | page (va : Nat) (detail : BitVec 16)
  | refused
  | bad
  | window
  | wait
  deriving DecidableEq, Repr

/-- Bytes within one page; `no`: the system controller has refused the page that fails. -/
def State.portSeg (s : State) (g : Agent) (no : Bool) (va n : Nat) : State × PortRead :=
  if s.walkHeld (g.core / 96) g.launch va then (s, .wait)
  else match s.translate (g.core / 96) g.launch va with
    | (s, .fault d) => (s, if no then .refused else .page va d)
    | (s, .ok pa kind leaf) =>
      if denies leaf g.priv { r := true } then (s, .refused)
      else if isWindow pa then (s, .window)
      else if s.readBad g.core pa n then (s, .bad)
      else if !s.reaches (g.core / 96) pa then (s, .wait)
      else
        let (s, bs) := s.readGlobal g kind none pa n
        (s, .ok bs)

/-- Bytes of a record. -/
def State.portRead (s : State) (g : Agent) (no : Bool) (va n : Nat) : State × PortRead :=
  if 2 ^ 52 < va + n then (s, .refused)
  else
    (cut 4096 va n).foldl (fun acc seg =>
      match acc.2 with
      | .ok bs =>
        match acc.1.portSeg g no seg.1 seg.2 with
        | (s, .ok more) => (s, .ok (bs ++ more))
        | r => r
      | _ => acc) (s, .ok [])

/-- The words of bytes. -/
def wordsOf (bs : List Byte) : List Word :=
  (List.range (bs.length / 4)).map fun k => BitVec.ofNat 32 (ofBytes ((bs.drop (4 * k)).take 4))

/-- What a push comes to: its records and the state, a page that the system controller is asked for, a wait for the link,
or a device window. -/
inductive PushEnd where
  | done (s : State) (recs : List (List Word))
  | page (s : State) (va : Nat) (detail : BitVec 16)
  | wait
  | window
  deriving DecidableEq, Repr

/-- Memory, the writes in flight and the DS phases stand as they did at a push. -/
def State.sincePush (s : State) (q : Push) : Bool :=
  s.mem = q.mem && s.inflight = q.fly && s.dsWrites = q.dsWrites && s.siteA.dsLines ++ s.siteB.dsLines = q.dsLines

/-- The machine with what memory held at a push, and the translations that stand after a run of it now: a page that has become
valid since is no write of what the push reads (R416). -/
def State.asPushed (s t : State) (q : Push) : State :=
  let home (k : Nat) : List DsLine := q.dsLines.filter fun d => (Config.homeSite (64 * d.line)).getD 0 = k
  { s with
    mem := q.mem, inflight := q.fly, dsWrites := q.dsWrites
    siteA := { s.siteA with dsLines := home 0, tlb := t.siteA.tlb }
    siteB := { s.siteB with dsLines := home 1, tlb := t.siteB.tlb } }

/-- A record of free values (R8). -/
def freeRecord (fresh : Nat) : List Word := (List.range 8).map fun k => (Config.freeWord (fresh + k)).setWidth 32

/-- The Haze unit starts a lane's march only after the lane's earlier ones have ended (R216). -/
def Wave.marchTurn (w : Wave) (q : Push) : Bool :=
  q.code != 5 || w.ports.all fun p => p.flight.all fun x => !(x.lane = q.lane && x.code = 5 && x.order < q.order)

/-- The lane's stream-1 counter advances by the draws that a march's record names (R92, R216). -/
def State.tookDraws (s : State) (key : Nat) (q : Push) (recs : List (List Word)) : State :=
  if q.code = 5 then
    s.updWave key fun w => w.updLanes [q.lane] fun _ x =>
      { x with draws1 := x.draws1 + ((recs.headD []).headD 0) >>> 8 }
  else s

/-- A push in flight asks the system controller for a page. -/
def State.askPush (s : State) (key k : Nat) (q : Push) (va : Nat) (detail : BitVec 16) : State :=
  s.updWave key fun w =>
    let p := w.port k
    w.setPort k { p with flight := p.flight.map fun x => if x = q then { x with wait := some (BitVec.ofNat 64 va, detail) } else x }

/-- A push ends with its records. -/
def State.finishPush (s : State) (key k : Nat) (q : Push) (recs : List (List Word)) : State :=
  ({ s with fresh := s.fresh + 8 * recs.length }.tookDraws key q recs).endPush key k q recs

/-- The push has run on memory as it is now, which may have changed since it was made.  A march takes its record from memory
as it stood at the push, as its loads do (R213, R376).  A Rangefinder push that software has changed in flight gives
unpredictable records, as many as it gives now (R372; log entry 94). -/
def State.ranPush (s t : State) (key k : Nat) (q : Push) (g : Agent) (recs : List (List Word)) (old : PushEnd) : Result :=
  if q.code = 5 then
    match old with
    | .done _ rs => .next (t.finishPush key k q rs)
    | .page _ va d => match (s.translate (g.core / 96) g.launch va) with
      | (s, .ok ..) => .next { s with held := [] }
      | (_, .fault _) => .next (s.askPush key k q va d)
    | .wait => .next s
    | .window => .refused .deviceWindow
  else
    match old with
    | .done _ rs => if rs = recs then .next (t.finishPush key k q recs)
      else .next (t.finishPush key k q (recs.mapIdx fun n _ => freeRecord (t.fresh + 8 * n)))
    | _ => .next (t.finishPush key k q (recs.mapIdx fun n _ => freeRecord (t.fresh + 8 * n)))

/-- Run the next push of a lane on a pair. -/
def State.runPush (s : State) (key k l code : Nat) (f : Push → Wave → Agent → State → PushEnd) : Result :=
  match s.wave? key with
  | none => .next s
  | some w =>
    match w.running k l code, s.crew? w.crew with
    | some q, some c =>
      let g := { agentOf w c with unit := portUnit code }
      let run := f q w g
      if !w.marchTurn q then .next s
      else match run s with
      | .window => .refused .deviceWindow
      | .wait => .next s
      | .page s va d => .next (s.askPush key k q va d)
      | .done t recs =>
        if s.sincePush q then .next (t.finishPush key k q recs)
        else s.ranPush t key k q g recs (run (s.asPushed t q))
    | _, _ => .next s

end Sys2Proof.Machine
end

