-- ==== Sys2Proof/Machine/Join.lean ====
section
/-!
DEFINITION. Join counters (08 R227, R228), what follows a join that fires, the offers that a full queue delays (R228, R233),
the joins that the device makes (R229, R335), and the completion of a task (R229).
-/
namespace Sys2Proof.Machine

/-! ### The counter (R227, R228) -/

/-- What a join comes to; `far`: it needs a packet that the link does not take (R385). -/
inductive JoinRes where
  | done (s : State) (fire : Option Fire)
  | trap (s : State) (code : BitVec 8) (detail : BitVec 16)
  | wait
  | far
  | window
  deriving DecidableEq, Repr

/-- The counter after a join of n with code c: COUNT, FAIL. -/
def counterAfter (v : BitVec 256) (n : Word) (c : BitVec 8) : BitVec 256 :=
  v.extractLsb' 72 184 ++ (v.extractLsb' 64 8 ||| c) ++ v.extractLsb' 32 32 ++ (v.extractLsb' 0 32 - n)

/-- One join at a counter, as one indivisible step at its home (R154, R228). -/
def State.joinCounter (s : State) (g : Agent) (va : DWord) (n : Word) (c : BitVec 8) : JoinRes :=
  let q : GReq := { va := va.toNat, n := 32, span := 32, need := { r := true, w := true }, wr := true }
  match q.early (s.codeWindow g.launch) with
  | some (code, d) => .trap s code d
  | none =>
    if s.walkHeld (g.core / 96) g.launch q.va g.priv q.need then .far
    else match s.translateWrite (g.core / 96) g.launch q.va g.priv q.need with
    | (s, .fault d) => .trap s 0x05 d
    | (s, .ok pa kind leaf) =>
      if denies leaf g.priv q.need then .trap s 0x06 2
      else if isWindow pa then .window
      else if kind = .ds || kind = .uo then .trap s 0x2B 1
      else if !s.reaches (g.core / 96) pa then .far
      else if s.readBad g.core pa 32 then .trap s 0x08 1
      else if kind = .so && g.logged then .wait
      else match s.forceLoads g.wave allSlots (fun x => x.ofGlobal pa 32 || (kind = .so && x.onLog)) with
        | (_, false) => .wait
        | (s, true) =>
          let s := (s.markDirty (g.core / 96) g.launch q.va).flushRange g.core pa 32
          let v := BitVec.ofNat 256 (ofBytes (s.homeBytes pa 32))
          let count := v.extractLsb' 0 32
          if count.toNat < n.toNat then .trap s 0x2B 2
          else
            let v' := counterAfter v n c
            let (s, _) := s.actAtHome g kind .store pa 32 (toBytes v' 32) true
            let fire : Fire := ⟨g.launch, g.priv, g.tindex, g.core, v.extractLsb' 128 64, v.extractLsb' 192 64,
              if v.getLsbD 32 then some pa else none⟩
            .done s (if n != 0 && v'.extractLsb' 0 32 = 0 then some fire else none)

/-! ### Offers (R228, R233) -/

/-- A handler offer that finds its queue closed, faulted or inactive: the fragment is killed and its slot freed (R233). -/
def State.handlerFault (s : State) (o : Offer) (core e : Nat) (gen : BitVec 8) (slot : Nat) : State :=
  let s := s.event o.launch 0 o.va 0 0 5 0x38
  let s := s.updLaunch o.launch fun l => { l with slots := l.slots.filter fun x => x != slot }
  let b := (s.core core).bivouac.getD e {}
  if b.state != .free && b.gen = gen then s.killFrag core e b.code else s

/-- Offer a record to its queue, at device scope; the status comes back to the offering site (R287). -/
def State.offer (s : State) (o : Offer) : Result :=
  if !s.queueReach (o.core / 96) o.queue then .next { s with offers := s.offers ++ [o] }
  else
    let s0 := s
    let s := s.pushPacket o.core o.queue
    let owner := (s.queue? o.queue).map fun q => q.2.owner
    let cont := match o.src with
      | .join cont ti => some (o.launch, cont, ti)
      | .handler .. => none
    match s.pushQueue o.queue o.record .device cont with
    | .window => .refused .deviceWindow
    | .held => .next { s0 with offers := s0.offers ++ [o] }
    | .done s 0 => .next s
    | .done s 1 => .next { s with offers := s.offers ++ [o] }
    | .done s _ =>
      match o.src, owner with
      | .handler core e gen slot, _ => .next (s.handlerFault o core e gen slot)
      | .join .., some l => .next (s.event l 0 o.va 0 0 3 0x38)
      | .join .., none => .next (s.event o.launch 0 o.va 0 0 4 0x38)

/-- The offer at `idx` would not be delayed again. -/
def State.offerReady (s : State) (o : Offer) : Bool :=
  s.queueReach (o.core / 96) o.queue && (match s.queue? o.queue with
    | some (_, q) => q.state != .opened || !q.full
    | none => true)

/-- A delayed offer is made again. -/
def execDelayedOffer (idx : Nat) (s : State) : Result :=
  match s.offers[idx]? with
  | none => .next s
  | some o => if s.offerReady o then { s with offers := s.offers.eraseIdx idx }.offer o else .next s

/-! ### A join that has fired (R228) -/

/-- Wait for the system controller's service of a page. -/
def State.ask (s : State) (launch : Nat) (va : DWord) (detail : BitVec 16) (tindex : DWord) (k : WaitKind) : State :=
  { s with waiters := s.waiters ++ [⟨launch, va, detail, tindex, k⟩] }

/-- The launch may still have joins made: it is open and has not failed (R324). -/
def State.launchRuns (s : State) (n : Nat) : Bool :=
  match s.launch? n with
  | some l => !l.failed
  | none => false

/-- Read the record at CONT, for which the scheduler of the join's site sends (R287; log entry 87), and offer it to QUEUE.  What
the link does not take waits (R385). -/
def State.continueFire (s : State) (f : Fire) : Result :=
  let site := f.core / 96
  let later (s : State) : Result := .next { s with fires := s.fires ++ [{ f with phase := none }] }
  if !s.launchRuns f.launch then .next s
  else match s.unitAt site f.launch f.cont.toNat 64 f.priv { r := true } with
    | .page s d => .next (s.ask f.launch f.cont d f.tindex (.fire f))
    | .bad s c d => .next (s.failLaunch f.launch f.tindex f.cont 0 0 d c)
    | .window => .refused .deviceWindow
    | .held => later s
    | .ok s pa =>
      if !s.reaches site pa then later s
      else
        let s := (s.flushRange f.core pa 64).unitTrip .scheduler site pa
        let r := recSetLaunch (BitVec.ofNat 512 (ofBytes (s.homeBytes pa 64))) (BitVec.ofNat 16 f.launch)
        let ok := match s.launch? f.launch with
          | some l => recordValid l.gmax l.priv r
          | none => false
        if !ok then .next (s.failLaunch f.launch f.tindex f.cont 0 0 0x0100 0x01)
        else match s.unitAt site f.launch f.queue.toNat 64 f.priv { r := true } with
          | .page s d => .next (s.ask f.launch f.queue d f.tindex (.fire f))
          | .bad s c d => .next (s.failLaunch f.launch f.tindex f.queue 0 0 d c)
          | .window => .refused .deviceWindow
          | .held => later s
          | .ok s q => s.offer ⟨f.launch, f.core, q, f.queue, r, .join f.cont f.tindex⟩

/-- A join fires: a DS counter's phase commits before the record is offered (R228, R342). -/
def State.fireJoin (s : State) (f : Fire) : Result :=
  if f.phase.isSome then .next { s with fires := s.fires ++ [f] } else s.continueFire f

/-- The homes of a phase's lines can be reached. -/
def State.phaseReach (s : State) (f : Fire) (phase : Nat) : Bool :=
  s.linkOpen || !((s.site (1 - f.core / 96)).dsLines.any fun d => d.phase = phase)

/-- The commit of a phase whose counter has reached 0 (R342). -/
def execDsPhaseCommit (phase : Nat) (s : State) : Result :=
  match s.fires.find? fun f => f.phase = some phase with
  | none => .next s
  | some f =>
    if !s.phaseReach f phase then .next s
    else { s.commitPhase phase with fires := s.fires.erase f, held := [] }.continueFire { f with phase := none }

/-! ### Joins that the device makes (R229, R230, R335) -/

/-- Make a join of amount 1; its page is serviced first, and any other trap fails the launch. -/
def State.runJoin (s : State) (j : PendingJoin) : Result :=
  if !s.launchRuns j.launch then .next s
  else match s.joinCounter { core := j.core, wave := noWave, crew := noWave, launch := j.launch, priv := j.priv
                             tindex := j.tindex, phase := none } j.va 1 j.code with
    | .done s none => .next s
    | .done s (some f) => s.fireJoin f
    | .trap s c d =>
      if c = 0x05 then .next (s.ask j.launch j.va d j.tindex (.join j))
      else .next (s.failLaunch j.launch j.tindex j.va 0 0 d c)
    | .wait | .far => .next { s with joins := s.joins ++ [j] }
    | .window => .refused .deviceWindow

/-- The joins and continuations that waited for the link are made once it takes packets again. -/
def State.retryJoins (s : State) : State :=
  if !s.linkOpen then s
  else
    let keep (s : State) (r : Result) : State := match r with
      | .next t => t
      | _ => s
    let js := s.joins
    let fs := s.fires.filter fun f => f.phase.isNone
    let s := js.foldl (fun s j => keep s (s.runJoin j)) { s with joins := [] }
    fs.foldl (fun s f => keep s (s.continueFire f)) { s with fires := s.fires.filter fun f => f.phase.isSome }

/-! ### Completion (R229) -/

/-- The mark of the exposed records of a crew's retired waves. -/
def recordMark (crew : Nat) : Nat := 2 ^ 20 + crew

/-- Records exposed by one wave are known by another number. -/
def State.retagRecords (s : State) (a b : Nat) : State :=
  let one (r : Nat × NegRec) : Nat × NegRec := if r.2.wave = some a then (r.1, { r.2 with wave := some b }) else r
  let f (t : Site) : Site := { t with neg := { t.neg with rings := t.neg.rings.map one } }
  let g (x : Flow) : Flow := { x with unacked := x.unacked.map fun p => match p.2 with
    | .record w words => if w = a then (p.1, .record b words) else p
    | _ => p }
  { s with siteA := f s.siteA, siteB := f s.siteB, flows := s.flows.map g }

/-- The task index of a fault handler begins at 2^63 (R233, R267). -/
def isHandler (tindex : DWord) : Bool := tindex.getLsbD 63

/-- A member of a gang has completed; the gang is no longer known once every member has started and ended. -/
def State.gangOver (s : State) (c : Crew) : State :=
  let gid := (recGangId c.record).toNat
  if !recGang c.record then s
  else
    let s := { s with gangDone := s.gangDone ++ [(c.launch, gid, (recGrank c.record).toNat)] }
    if (s.gangCrews c).isEmpty && s.gangs.any (fun g => g.launch = c.launch && g.gid = gid && g.size ≤ (s.gangRanks g).length)
    then s.forgetGang c.launch gid else s

/-- A task completes: with a release at device scope, which takes with it what its accesses have observed (R229, R279,
R280), its resources are freed, and its completion join runs. -/
def State.completeCrew (s : State) (c : Crew) : Result :=
  let s := s.releaseAt c.core .device
  let s := s.showRecords c.core (recordMark c.key) .device
  let past (w : DsWrite) : DsWrite := if w.crew = c.key then { w with crew := noWave + s.nextId } else w
  let s := { s with dsWrites := s.dsWrites.map past, crews := s.crews.filter (fun d => d.key != c.key),
                    nextId := s.nextId + 1, held := [] }
  let s := (s.recordDone c.record).gangOver c
  let ti := recTindex c.record
  let s := if isHandler ti then s.updLaunch c.launch fun l => { l with slots := l.slots.filter fun x => x + 2 ^ 63 != ti.toNat }
    else s
  if recJoin c.record = 0 then .next s
  else s.runJoin ⟨c.launch, c.priv, ti, c.core, recJoin c.record, c.cc⟩

end Sys2Proof.Machine
end

