-- ==== Sys2Proof/Machine/Snap.lean ====
section
/-!
DEFINITION. Snapshots (18 R415): the common trigger and the registers that it sets.
-/
namespace Sys2Proof.Machine

def State.snapArmed (s : State) : Bool := s.snapCtl.getLsbD 0
def State.snapUser (s : State) : Bool := s.snapCtl.getLsbD 1
def State.snapFlt (s : State) : Bool := s.snapCtl.getLsbD 2
def State.snapTim (s : State) : Bool := s.snapCtl.getLsbD 3
def State.snapCode (s : State) : BitVec 8 := s.snapCtl.extractLsb' 8 8

/-- SRC of SNAP_CTL. -/
def State.snapSrc (s : State) : BitVec 2 := s.snapCtl.extractLsb' 16 2

/-- An event at a time of the global timer that may have passed. -/
def State.rasAt (s : State) (code : BitVec 8) (site : Nat) (at_ : DWord) : State :=
  { { s with timer := at_ }.ras code site with timer := s.timer }

/-- The common trigger of a source (1 snap, 2 fault, 3 time) at a time: ARM clears, SRC and the time are recorded, every
block's words are latched, and event 0x0F is logged.  A second one in the same nanosecond leaves the lower source. -/
def State.snapTrigger (s : State) (src : BitVec 2) (site : Nat) (at_ : DWord) : State :=
  if s.snapArmed then
    { s with
      snapCtl := 0#14 ++ src ++ s.snapCtl.extractLsb' 1 15 ++ 0#1
      snapAt := at_
      snapDraw := s.fresh
      fresh := s.fresh + 1 }.rasAt 0x0F site at_
  else { s with snapCtl := if src < s.snapSrc && s.snapAt = at_ then 0#14 ++ src ++ s.snapCtl.extractLsb' 0 16 else s.snapCtl }

/-- A write of SNAP_CTL: SRC stays, reserved bits read 0. -/
def State.writeSnapCtl (s : State) (v : Word) : State :=
  { s with snapCtl := 0#14 ++ s.snapCtl.extractLsb' 16 2 ++ v.extractLsb' 8 8 ++ 0#4 ++ v.extractLsb' 0 4, snapFrom := s.timer }

/-- A write of SNAP_TIME. -/
def State.writeSnapTime (s : State) (v : DWord) : State := { s with snapTime := v, snapFrom := s.timer }

/-- A fault record is written with a trap code (R415). -/
def State.snapFault (s : State) (code : BitVec 8) (site : Nat) : State :=
  if s.snapFlt && s.snapCode = code then s.snapTrigger 2 site s.timer else s

/-- The global timer has reached SNAP_TIME. -/
def State.snapDue (s : State) : Bool := s.snapArmed && s.snapTim && s.snapTime.toNat ≤ s.timer.toNat

/-- The first count at or after SNAP_TIME (R389). -/
def State.snapMoment (s : State) : DWord := if s.snapTime < s.snapFrom then s.snapFrom else s.snapTime

def execSnapTime (s : State) : Result := .next (if s.snapDue then s.snapTrigger 3 0 s.snapMoment else s)

/-- snap raises the trigger, once per issue; a task without privilege needs SNAP_CTL.USER (R245). -/
def execSnap (x : LR) (s : State) : Result :=
  issue (.snap x) (fun i =>
    if i.act.isEmpty then { s := i.s }
    else
      let priv := match i.s.crew? i.w.crew with
        | some c => c.priv
        | none => false
      if !priv && !i.s.snapUser then { s := i.s, traps := i.act.map fun l => { lane := l, code := 0x03 } }
      else { s := i.s.snapTrigger 1 i.w.site i.s.timer }) s

end Sys2Proof.Machine
end

