-- ==== Sys2Proof/Machine/Fragment.lean ====
section
/-!
DEFINITION. Fragment instructions (08 R231-R237), the delivery of fault records (R232, R233, 10 R267) and the rejoining of
resumed lanes (10 R269).
-/
namespace Sys2Proof.Machine

/-! ### Fragment ids (R231) -/

def fidOf (core e : Nat) (gen : BitVec 8) : Word :=
  BitVec.ofNat 32 (core / 96 * 2 ^ 23 + core % 96 * 2 ^ 16 + e * 2 ^ 8 + gen.toNat)

/-- The core and entry that a FID names. -/
def fidCore (fid : Word) : Nat := (fid.extractLsb' 23 1).toNat * 96 + (fid.extractLsb' 16 7).toNat
def fidEntry (fid : Word) : Nat := (fid.extractLsb' 8 6).toNat

/-- A FID in the form of R231. -/
def fidForm (fid : Word) : Bool :=
  fid.extractLsb' 24 8 = 0 && fid.extractLsb' 14 2 = 0 && (fid.extractLsb' 16 7).toNat < Config.coresPerSite

/-- The fragment that a FID names for an issuer (R235 status 1). -/
def State.fragOf (s : State) (g : Agent) (fid : Word) : Option Bivouac :=
  let b := (s.core (fidCore fid)).bivouac.getD (fidEntry fid) {}
  if fidForm fid && b.state != .free && b.gen = fid.extractLsb' 0 8 && (b.launch = g.launch || g.priv) then some b else none

/-! ### Targets (R234) -/

/-- The shape byte of a saved latch. -/
def metaByte (x : Latch) : BitVec 8 :=
  (if x.lost then 0x20 else 0) ||| (if x.wide then 0x10 else 0) ||| BitVec.ofNat 8 (if x.empty then 0 else x.count)

/-- Element n of a saved latch for a lane; `hi`: its upper half. -/
def savedElem (x : Latch) (n k : Nat) (hi : Bool) : Option Word :=
  if x.empty || x.lost || x.count ≤ n || (hi && !x.wide) then none
  else some ((SMap.get x.elems (32 * n + k)).extractLsb' (if hi then 32 else 0) 32)

/-- The value of a target for lane k; none is status 3. -/
def targetValue (b : Bivouac) (w : Wave) (k : Nat) (f10 : BitVec 10) : Option Word :=
  let ix := (f10.extractLsb' 0 8).toNat
  let y := w.lane k
  match (f10.extractLsb' 8 2).toNat with
  | 0 => some (w.vreg ix k)
  | 2 => some ((w.sreg (ix / 2)).extractLsb' (if ix % 2 = 1 then 32 else 0) 32)
  | _ =>
    if ix = 0 then some (y.preds.setWidth 32)
    else if ix = 1 then some y.pc
    else if ix = 2 then some y.fpsr
    else if ix = 3 then some w.fpcr
    else if ix = 4 then some y.draws0
    else if ix = 5 then some y.draws1
    else if ix = 6 then some (BitVec.ofNat 32 (ofBytes ((List.range 4).map fun n => metaByte (b.latches.getD n {}))))
    else if ix < 48 then savedElem (b.latches.getD ((ix - 16) / 8) {}) ((ix - 16) % 8) k false
    else savedElem (b.latches.getD ((ix - 48) / 8) {}) ((ix - 48) % 8) k true

/-- A target that frag.write may write. -/
def targetWritable (f10 : BitVec 10) : Bool :=
  let ix := (f10.extractLsb' 0 8).toNat
  match (f10.extractLsb' 8 2).toNat with
  | 0 => true
  | 1 => ix ≤ 2
  | _ => false

/-- The wave after a write of a target of lane k. -/
def writeTarget (w : Wave) (k : Nat) (f10 : BitVec 10) (v : Word) : Wave :=
  let ix := (f10.extractLsb' 0 8).toNat
  if (f10.extractLsb' 8 2) = 0 then w.setV [(32 * ix + k, v)]
  else w.updLanes [k] fun _ y =>
    if ix = 0 then { y with preds := v.setWidth 12 }
    else if ix = 1 then { y with pc := v }
    else { y with fpsr := writeFpsr v }

/-! ### frag.read and frag.write (R235) -/

/-- A FID's core can be reached. -/
def State.fidReach (s : State) (i : Issue) (fid : Word) : Bool :=
  !fidForm fid || fidCore fid / 96 = i.w.core / 96 || s.linkOpen

/-- A lane's word: the value and the status. -/
def fragWord (v : Word) (st : Nat) : DWord := 0#24 ++ BitVec.ofNat 8 st ++ v

/-- The status and value of a read. -/
def State.fragGet (s : State) (g : Agent) (fid k : Word) (f10 : BitVec 10) : Word × Nat :=
  match s.fragOf g fid with
  | none => (0, 1)
  | some b =>
    if 32 ≤ k.toNat then (0, 5)
    else if !b.lanes.contains k.toNat then (0, 2)
    else match s.wave? b.wave with
      | none => (0, 1)
      | some w => match targetValue b w k.toNat f10 with
        | some v => (v, 0)
        | none => (0, 3)

/-- A write and its status. -/
def State.fragPut (s : State) (g : Agent) (fid k : Word) (f10 : BitVec 10) (v : Word) : State × Nat :=
  match s.fragOf g fid with
  | none => (s, 1)
  | some b =>
    if 32 ≤ k.toNat then (s, 5)
    else if !b.lanes.contains k.toNat then (s, 2)
    else if !targetWritable f10 then (s, 4)
    else (s.updWave b.wave fun w => writeTarget w k.toNat f10 v, 0)

/-- A 32-bit operand of a lane that no check can fail: s, v or inline. -/
def laneOp (i : Issue) (l : Nat) (x : Sel) : Word :=
  match readOne i.w l false x with
  | .ok v => v.setWidth 32
  | .error _ => 0

/-- The acting lanes that name a core which the link does not let them reach (R385); with an s destination one lane's word is
for all, and all of them are. -/
def fidsFar (i : Issue) (a d : Sel) : List Nat :=
  let far := i.act.filter fun l => !i.s.fidReach i (laneOp i l a)
  match d with
  | .s _ => if far.isEmpty then [] else i.act
  | _ => far

/-- The request to the core that a FID names on the other site, and its answer (R287). -/
def State.fidTrip (s : State) (i : Issue) (fid : Word) : State :=
  if !fidForm fid || fidCore fid / 96 = i.w.core / 96 then s else s.roundTrip i.agent .rc

def execFragRead (x : LE) (s : State) : Result :=
  issue (.fragRead x) (fun i =>
    let far := fidsFar i x.a x.d
    if !far.isEmpty && i.s.numbers then { s := i.s, hold := true }
    else
      let ls := i.act.filter fun l => !far.contains l
      let vals := ls.map fun l =>
        let r := i.s.fragGet i.agent (laneOp i l x.a) (laneOp i l x.b) x.f10
        (l, fragWord r.1 r.2)
      let e : Eff := { s := ls.foldl (fun s l => s.fidTrip i (laneOp i l x.a)) i.s, held := far }
      match x.d with
      | .v d => { e with vw := vals.flatMap fun q => regWords d.toNat q.1 2 (q.2.setWidth 512)
                         entry := some { wide := true, count := 1, elems := vals } }
      | .s d => { e with sw := vals.head?.map fun q => (d.toNat, q.2) }
      | _ => e) s

def execFragWrite (x : LE) (s : State) : Result :=
  issue (.fragWrite x) (fun i =>
    let far := fidsFar i x.a x.d
    if !far.isEmpty && i.s.numbers then { s := i.s, hold := true }
    else
      let r := (i.act.filter fun l => !far.contains l).foldl (fun (r : LaneRun) l =>
        match readOne i.w l false x.c with
        | .error d => r.lost l d
        | .ok v =>
          let p := (r.s.fidTrip i (laneOp i l x.a)).fragPut i.agent (laneOp i l x.a) (laneOp i l x.b) x.f10 (v.setWidth 32)
          r.add l 0 (p.1, .done p.2)) { s := i.s, held := far }
      match x.d with
      | .v d => { r.eff with vw := r.outs.map fun p => (32 * d.toNat + p.1, BitVec.ofNat 32 p.2)
                             entry := laneEntry 1 x.d (r.outs.map fun p => (p.1, BitVec.ofNat 64 p.2)) }
      | .s d => { r.eff with sw := r.outs.head?.map fun p => (d.toNat, BitVec.ofNat 64 p.2) }
      | _ => r.eff) s

/-! ### frag.resume, frag.kill and frag.list (R236) -/

/-- A 32-bit status at D, and its latch entry. -/
def statusEff (i : Issue) (s : State) (d : Sel) (st : Nat) : Eff :=
  let (vw, sw) := onceWrite i 1 d (BitVec.ofNat 64 st)
  { s := s, vw := vw, sw := sw, entry := laneEntry 1 d (i.act.map fun l => (l, BitVec.ofNat 64 st)) }

/-- The first parcel at a PC of a wave, as a fetch finds it. -/
def State.parcelAt (s : State) (w : Wave) (pc : Word) : Except NoFetch Parcel :=
  match (s.crew? w.crew).bind fun c => (s.launch? c.launch).map fun l => (c, l) with
  | some (c, l) => (s.fetchParcel w.site c l pc.toNat).2
  | none => .error (.trap 0x06 0x0008 0)

/-- The length in parcels of the instruction at a PC of a wave, when its first parcel can be read. -/
def State.parcelLen (s : State) (w : Wave) (pc : Word) : Option Word :=
  match s.parcelAt w pc with
  | .ok p => some (if isLong p then 2 else 1)
  | .error _ => none

/-- A lane that a skip resumes needs a parcel which the link does not take (R385). -/
def State.skipFar (s : State) (b : Bivouac) (mode : Word) : Bool :=
  match s.wave? b.wave with
  | some w => mode != 0 && b.lanes.any fun k => match s.parcelAt w (w.lane k).pc with
    | .error .far => true
    | _ => false
  | none => false

/-- A resume and its status; `mode` is 0 or 1. -/
def State.fragResume (s : State) (core e : Nat) (b : Bivouac) (mode : Word) : State × Nat :=
  match s.wave? b.wave with
  | none => (s, 1)
  | some w =>
    if mode = 0 then ((s.acquireAt core b.wave .device).resume core e none, 0)
    else if b.lanes.all fun k => (s.parcelLen w (w.lane k).pc).isSome then
      ((s.acquireAt core b.wave .device).resume core e
        (some fun k => (w.lane k).pc + (s.parcelLen w (w.lane k).pc).getD 0), 0)
    else (s, 6)

def execFragResume (x : LE) (s : State) : Result :=
  issue (.fragResume x) (fun i => onceInto i 1 x.d (
    let fid := (engineOp i false x.a).setWidth 32
    let mode := (engineOp i false x.b).setWidth 32
    if !i.s.fidReach i fid then i.linkHeld
    else match i.s.fragOf i.agent fid with
      | none => statusEff i (i.s.fidTrip i fid) x.d 1
      | some b =>
        if 1 < mode.toNat then statusEff i (i.s.fidTrip i fid) x.d 5
        else if i.s.skipFar b mode then i.linkHeld
        else match i.s.releasePoint i.w .device with
          | none => { s := i.s, hold := true }
          | some s =>
            let (s, st) := (s.fidTrip i fid).fragResume (fidCore fid) (fidEntry fid) b mode
            statusEff i s x.d st)) s

def execFragKill (x : LE) (s : State) : Result :=
  issue (.fragKill x) (fun i => onceInto i 1 x.d (
    let fid := (engineOp i false x.a).setWidth 32
    if !i.s.fidReach i fid then i.linkHeld
    else match i.s.fragOf i.agent fid with
      | none => statusEff i (i.s.fidTrip i fid) x.d 1
      | some _ => statusEff i ((i.s.fidTrip i fid).killFrag (fidCore fid) (fidEntry fid) ((engineOp i false x.b).setWidth 8)) x.d 0)) s

/-- The lowest entry at or above the cursor's with a fragment of the launch. -/
def State.fragList (s : State) (g : Agent) (cur : Word) : DWord :=
  let core := fidCore cur
  if Config.coresPerSite ≤ (cur.extractLsb' 16 7).toNat then fragWord 0 1
  else
    match (List.range Config.bivouacEntries).find? fun e =>
      let b := (s.core core).bivouac.getD e {}
      fidEntry cur ≤ e && b.state != .free && b.launch = g.launch with
    | some e => fragWord (fidOf core e ((s.core core).bivouac.getD e {}).gen) 0
    | none => fragWord 0 1

def execFragList (x : LE) (s : State) : Result :=
  issue (.fragList x) (fun i => onceInto i 2 x.d (
    let cur := (engineOp i false x.a).setWidth 32
    let away := fidCore cur / 96 != i.w.core / 96 && (cur.extractLsb' 16 7).toNat < Config.coresPerSite
    if away && !i.s.linkOpen then i.linkHeld
    else
      let v := i.s.fragList i.agent cur
      let (vw, sw) := onceWrite i 2 x.d v
      { s := if away then i.s.roundTrip i.agent .rc else i.s, vw := vw, sw := sw, entry := laneEntry 2 x.d (i.act.map fun l => (l, v)) })) s

/-! ### FAULT_RECORD_DELIVERY (R232, R233, R267) -/

/-- The lowest lane of a fragment. -/
def Bivouac.low (b : Bivouac) : Nat := b.lanes.foldl min 31

/-- The address of the lowest lane. -/
def Bivouac.addr (b : Bivouac) : DWord :=
  match b.addrs.find? fun p => p.1 = b.low with
  | some p => p.2
  | none => 0

/-- The fault record of a fragment (R232). -/
def faultRecord (core e : Nat) (b : Bivouac) : BitVec 512 :=
  0#48 ++ b.insn ++ 0#48 ++ BitVec.ofNat 16 b.launch ++ b.tindex ++ b.addr ++ 0#40 ++ BitVec.ofNat 8 b.crewNum ++
    BitVec.ofNat 8 b.elem ++ BitVec.ofNat 8 b.low ++ b.lanes.foldl (fun m l => m ||| ((1 : Word) <<< l)) 0 ++ b.pc ++
    b.detail ++ 0#8 ++ b.code ++ fidOf core e b.gen

/-- The record of a handler task (R233). -/
def handlerRecord (l : Launch) (task : BitVec 512) (slot : Nat) (va : Nat) (fid : Word) : BitVec 512 :=
  0#96 ++ fid ++ BitVec.ofNat 64 va ++ BitVec.ofNat 64 (2 ^ 63 + slot) ++ 0#64 ++ 0#64 ++ 0#32 ++ l.hscr ++ l.hrblk ++ 0#10 ++
    recClass task ++ recPrio task ++ (if recDet task then 1#1 else 0#1) ++ 0#1 ++ BitVec.ofNat 16 l.num ++ 0#16 ++ l.hentry

/-- The fragment comes next into its launch's ring: no fragment of the core and launch began to wait before it. -/
def State.oldestWaiting (s : State) (core : Nat) (b : Bivouac) : Bool :=
  (s.core core).bivouac.all fun x => !(x.state = .waiting && x.launch = b.launch && x.order < b.order)

/-- The system controller has been asked for a page that the fragment's record needs. -/
def State.recordAsked (s : State) (core e : Nat) (b : Bivouac) : Bool :=
  s.waiters.any fun w => w.kind = .record core e b.gen

/-- The handler task of a fragment whose record stands in a ring slot is offered to the launch's handler queue; where the link
holds the translation, it waits as for a page (R385). -/
def State.postHandler (s : State) (core e : Nat) (gen : BitVec 8) (slot : Nat) : Result :=
  let b := (s.core core).bivouac.getD e {}
  match s.launch? b.launch with
  | none => .next s
  | some l =>
    if l.failed || b.gen != gen then .next s
    else match s.unitAt (core / 96) l.num l.hq 64 true { r := true } with
      | .page s d => .next (s.ask l.num (BitVec.ofNat 64 l.hq) d b.tindex (.post core e gen slot))
      | .bad s c d => .next (s.failLaunch l.num b.tindex (BitVec.ofNat 64 l.hq) b.low b.pc d c)
      | .window => .refused .deviceWindow
      | .held => .next (s.ask l.num (BitVec.ofNat 64 l.hq) 0 b.tindex (.post core e gen slot))
      | .ok s hq =>
        let task := match (s.wave? b.wave).bind fun w => s.crew? w.crew with
          | some c => c.record
          | none => 0
        s.offer ⟨l.num, core, hq, BitVec.ofNat 64 l.hq, handlerRecord l task slot (l.ring + 64 * slot) (fidOf core e gen),
          .handler core e gen slot⟩

/-- The record is written into a ring slot, and then the handler task is posted (R233); neither before the link takes what they
need (R385). -/
def State.deliverTo (s : State) (core e : Nat) (b : Bivouac) (l : Launch) (slot : Nat) : Result :=
  let va := l.ring + 64 * slot
  let site := core / 96
  match s.unitAt site l.num va 64 true { w := true } with
  | .page s d => .next (s.ask l.num (BitVec.ofNat 64 va) d b.tindex (.record core e b.gen))
  | .bad s c d => .next (s.failLaunch l.num b.tindex (BitVec.ofNat 64 va) b.low b.pc d c)
  | .window => .refused .deviceWindow
  | .held => .next s
  | .ok s pa =>
    if !s.reaches site pa || s.walkHeld site l.num l.hq then .next s
    else
      let s := (((s.flushRange core pa 64).dropCopies core pa 64).unitTrip .scheduler site pa).clearLine pa
      let s := s.pokeHome pa (toBytes (faultRecord core e b) 64)
      let s := s.updLaunch l.num fun l => { l with slots := l.slots ++ [slot] }
      let s := s.updCore core fun c => { c with bivouac := c.bivouac.set e { b with state := .delivered, ring := some slot } }
      (s.snapFault b.code site).postHandler core e b.gen slot

/-- A waiting fragment is delivered, in its turn; a handler task's fails the launch at once, and one without a handler is
killed (R233, R267). -/
def execFaultRecordDelivery (core entry : Nat) (s : State) : Result :=
  let b := (s.core core).bivouac.getD entry {}
  match s.launch? b.launch with
  | none => .next s
  | some l =>
    if b.state != .waiting || l.failed then .next s
    else if isHandler b.tindex then .next (s.failLaunch l.num b.tindex b.addr b.low b.pc b.detail b.code)
    else if !s.oldestWaiting core b || s.recordAsked core entry b then .next s
    else if !l.hand then .next (s.killFrag core entry b.code)
    else match lowestFree l.slots l.rslots 1 with
      | slot :: _ => s.deliverTo core entry b l slot
      | [] => .next s

/-! ### FRAGMENT_REJOIN (R269) -/

def execFragmentRejoin (wave : Nat) (s : State) : Result := .next { s.updWave wave Wave.rejoin with held := [] }

end Sys2Proof.Machine
end

