-- ==== Sys2Proof/Machine/Sema.lean ====
section
/-!
DEFINITION. Semaphores (06 R183-R185, 09 R251).
-/
namespace Sys2Proof.Machine

/-- The object of a lane: orders 1 to 5 of R154, SEMA_STATE on a DS or UO page (R185), and POISON; `logged`: an earlier access
of the wave in the side log stands before it (R282, R303). -/
inductive SemaAt where
  | ok (pa : Nat) (kind : PKind)
  | logged
  | res (r : LaneRes)
  deriving DecidableEq, Repr

/-- Find the object at va, send the request there, and bring the core's own writes to it home (R184, R287).  `until_`: the
instruction, where the wave may have gone on since. -/
def State.semaAt (s : State) (g : Agent) (va : DWord) (wr : Bool) (until_ : Option Nat := none) : State × SemaAt :=
  let q : GReq := { va := va.toNat, n := 8, span := 8, need := { r := true, w := true }, wr := wr }
  match q.early (s.codeWindow g.launch) with
  | some (c, d) => (s, .res (.trap c d))
  | none =>
    if s.logCovers g.core g.wave q.va 8 then (s, .logged)
    else if s.walkHeld (g.core / 96) g.launch q.va g.priv q.need then (s, .res .far)
    else match s.translateWrite (g.core / 96) g.launch q.va g.priv q.need with
      | (s, .fault d) => (s, .res (.trap 0x05 d))
      | (s, .ok pa kind leaf) =>
        if denies leaf g.priv q.need then (s, .res (.trap 0x06 0x02))
        else if isWindow pa then (s, .res .refuse)
        else if kind = .ds || kind = .uo then (s, .res (.trap 0x2B 0))
        else if kind = .so && g.logged then (s, .logged)
        else if !s.reaches (g.core / 96) pa then (s, .res .far)
        else match s.forceLoads g.wave allSlots (fun x => x.ofGlobal pa 8 || (kind = .so && x.onLog)) until_ with
          | (s, false) => (s, .res .wait)
          | (s, true) => (((s.flushRange g.core pa 8).dropCopies g.core pa 8), .ok pa kind)

/-- sema.take (R184): the ticket, then ticket + 1, as one step; D takes the ticket's 32 bits (log entry 79) before the wave issues
next, so that the wave waits for what stands before it in the side log (R303). -/
def execSemaTake (x : LM) (s : State) : Result :=
  issue (.semaTake x) (fun i => withRelease i x.ord x.scp fun s =>
    let r := runLanes s i.act fun r l =>
      let a := effAddr i.w x l
      match r.s.semaAt i.agent a true with
      | (s, .res y) => r.add l a (s, y)
      | (s, .logged) => r.add l a (s, .wait)
      | (s, .ok pa kind) =>
        if s.lineBad pa then r.add l a (s, .trap 0x08 1)
        else
          let (s, old) := (s.markDirty (i.w.core / 96) i.agent.launch a.toNat).actAtHome i.agent kind (.atom .add false)
            (pa + 4) 4 [1, 0, 0, 0] true
          r.add l a (s, .done old)
    let e := { r.eff with s := acquiring i x.ord x.scp r.s }
    match x.d with
    | .v d => { e with vw := r.outs.map fun p => (32 * d.toNat + p.1, BitVec.ofNat 32 p.2)
                       entry := laneEntry 1 x.d (r.outs.map fun p => (p.1, BitVec.ofNat 64 p.2)) }
    | .s d => { e with sw := r.outs.head?.map fun p => (d.toNat, BitVec.ofNat 64 p.2) }
    | _ => e) s

/-- turn has passed k (R184). -/
def turnPassed (k turn : Word) : Bool := 2 ^ 31 ≤ (k - turn).toNat

/-- The turn of an object at its home. -/
def State.turnAt (s : State) (pa : Nat) : Word := BitVec.ofNat 32 (ofBytes (s.homeBytes pa 4))

/-- What a test of turn comes to (R184). -/
inductive TurnTest where
  | go | stay | past
  deriving DecidableEq, Repr

def State.turnTest (s : State) (pa : Nat) (k : Word) : TurnTest :=
  if s.turnAt pa = k then .go else if turnPassed k (s.turnAt pa) then .past else .stay

/-- sema.wait (R184): the test at issue, after POISON (log entry 89).  A lane whose object the side log covers blocks, and is
tested once it does no more (R303). -/
def execSemaWait (x : LM) (s : State) : Result :=
  issue (.semaWait x) (fun i =>
    (runLanes i.s i.act fun r l =>
      let a := effAddr i.w x l
      match laneWord i l x.d with
      | .error t => r.lost l t.detail
      | .ok k =>
        let block (s : State) (seen : Option (Nat × Word)) : State × LaneRes :=
          let b : Block := .sema a k (acqScope x) (instrWord (.semaWait x)) (saveLatches i.w.latches [l]) i.agent.group seen
          (s.updWave i.w.key fun w => w.updLanes [l] fun _ y => { y with block := b }, .done 0)
        match r.s.semaAt i.agent a false with
        | (s, .res y) => r.add l a (s, y)
        | (s, .logged) => r.add l a (block s none)
        | (s, .ok pa kind) =>
          let s := s.toHome i.agent kind pa true
          if s.lineBad pa then r.add l a (s, .trap 0x08 1)
          else match s.turnTest pa k with
            | .go => r.add l a (acquiring i x.ord x.scp s, .done 0)
            | .past => r.add l a (s, .trap 0x2B 0)
            | .stay => r.add l a (block s (some (pa, s.turnAt pa)))).eff) s

/-! ### Waking (R184, R251) -/

/-- A blocked lane that a sweep turns away: its block's issue, instruction word and saved latches, and its trap. -/
structure SemaTrap where
  order   : Nat
  insn    : LongWord
  latches : List Latch
  trap    : LaneTrap
  deriving DecidableEq, Repr

/-- The latches that lanes of one issue saved, together. -/
def joinLatches : List (List Latch) → List Latch
  | [] => []
  | x :: xs => x.mapIdx fun n y => { y with elems := xs.foldl (fun m z => SMap.setAll m (z.getD n {}).elems) y.elems }

/-- The lanes of one issue that a sweep turns away trap together, at the sema.wait's PC, with nothing performed (R262). -/
def State.semaFail (s : State) (key : Nat) (ts : List SemaTrap) : State :=
  match s.wave? key, ts with
  | some w, t :: _ =>
    let w' := w.updLanes (ts.map (·.trap.lane)) fun _ x => { x with block := .none, pc := x.pc - 2, retired := x.retired - 1 }
    (s.setWave w').takeTraps { w with latches := joinLatches (ts.map (·.latches)) } t.insn ((w.lane t.trap.lane).pc - 2)
      (ts.map (·.trap))
  | _, _ => s

/-- The lane goes on: its acquire is performed before it is eligible (R251). -/
def State.semaGo (s : State) (core key l : Nat) (acq : Option Scope) : State :=
  let s := s.updWave key fun w => w.updLanes [l] fun _ x => { x with block := .none }
  match acq with
  | some sc => { s.acquireAt core key sc with held := [] }
  | none => { s with held := [] }

/-- The turn that a blocked lane was tested against stands unchanged: nothing wakes it. -/
def State.sleeps (s : State) (seen : Option (Nat × Word)) : Bool := seen.any fun p => s.turnAt p.1 = p.2

/-- Wake one lane of a wave whose turn has changed, or that has not yet been tested, and test it.  Its object is translated
anew, so that a page which is gone or denied is its trap (log entry 20); what the side log or the link holds back stays blocked. -/
def State.semaWake (s : State) (key l : Nat) : State × Option SemaTrap :=
  match s.wave? key with
  | none => (s, none)
  | some w =>
    match (w.lane l).block, s.crew? w.crew with
    | .sema va k acq insn latches order seen, some c =>
      if s.sleeps seen then (s, none) else
      let trap (code : BitVec 8) (d : BitVec 16) : SemaTrap :=
        ⟨order, insn, latches, { lane := l, code := code, detail := d, addr := some va }⟩
      let g := { agentOf w c with logged := s.logBefore w order }
      match s.semaAt g va false (some order) with
      | (s', .res (.trap code d)) => (s', some (trap code d))
      | (s', .ok pa kind) =>
        match s'.turnTest pa k with
        | .go => ((s'.toHome g kind pa true).semaGo w.core key l acq, none)
        | .past => (s'.toHome g kind pa true, some (trap 0x2B 0))
        | .stay => ((s'.toHome g kind pa true).updWave key fun w => w.updLanes [l] fun _ x =>
            { x with block := .sema va k acq insn latches order (some (pa, s'.turnAt pa)) }, none)
      | _ => (s, none)
    | _, _ => (s, none)

/-- Test the lanes of a wave that a semaphore blocks. -/
def State.semaWave (s : State) (w : Wave) : State :=
  let (s, ts) := laneIds.foldl (fun acc l => match (w.lane l).block with
    | .sema .. =>
      let (s, t) := acc.1.semaWake w.key l
      (s, acc.2 ++ t.toList)
    | _ => acc) (s, ([] : List SemaTrap))
  let orders := ts.foldl (fun os t => if os.contains t.order then os else os ++ [t.order]) []
  orders.foldl (fun s n => s.semaFail w.key (ts.filter fun t => t.order = n)) s

/-- Test every lane that a semaphore blocks. -/
def State.semaSweep (s : State) : State := s.waves.foldl State.semaWave s

/-- A plain sema.give to bytes that an entry of the wave covers waits in the side log, and its lane goes on (R303; log entry
85). -/
def State.logGive (s : State) (g : Agent) (va : DWord) (lane : Nat) (pc : Word) : State × LaneRes :=
  match s.forceLoads g.wave allSlots (LaneLoad.ofVirtual va.toNat 8) with
  | (s, false) => (s, .wait)
  | (s, true) =>
    let d := match s.xlat (g.core / 96) g.launch va.toNat with
      | .ok .. => pageDetail 0 4
      | .fault d => d
    (s.logAccess g.core { wave := g.wave, crew := g.crew, launch := g.launch, priv := g.priv, tindex := g.tindex
                          op := .atom .add false, bytes := 4, ord := 0, scp := 0, va := va, data := [1, 0, 0, 0], pc := pc
                          lane := lane, detail := d, group := g.group, give := true }, .done 0)

/-- sema.give (R184): release, then turn + 1 for each lane; waiting lanes are tested at each change. -/
def execSemaGive (x : LM) (s : State) : Result :=
  issue (.semaGive x) (fun i => withRelease i x.ord x.scp fun s =>
    (runLanes s i.act fun r l =>
      let a := effAddr i.w x l
      match r.s.semaAt i.agent a true with
      | (s, .res y) => r.add l a (s, y)
      | (s, .logged) =>
        if s.logCovers i.w.core i.w.key a.toNat 8 then r.add l a (s.logGive i.agent a l i.pc) else r.add l a (s, .wait)
      | (s, .ok pa kind) =>
        if s.lineBad pa then r.add l a (s.failLaunch i.agent.launch i.agent.tindex a l i.pc 1 0x08, .done 0)
        else
          let (s, _) := (s.markDirty (i.w.core / 96) i.agent.launch a.toNat).actAtHome i.agent kind (.atom .add false)
            pa 4 [1, 0, 0, 0]
          r.add l a (s.semaSweep, .done 0)).eff) s

end Sys2Proof.Machine
end

