-- ==== Sys2Proof/Machine/Service.lean ====
section
/-!
DEFINITION. What the memory units and the system controller do by themselves: the landing of results (02 R47), the service
of PAGE faults (12 R416), the replay of the side log (12 R304, R305), the performing of writes (11 R276, R288), the
invalidation of translations (12 R301) and the retirement of a frame (18 R405).
-/
namespace Sys2Proof.Machine

/-! ### TAG_RESULT_COMPLETE (R45, R47, R201) -/

/-- The result of tag `tag` of a wave (8: of its last T instruction without a tag) becomes complete, as far as it can. -/
def execTagResultComplete (wave tag : Nat) (s : State) : Result :=
  match s.wave? wave with
  | none => .next s
  | some w =>
    match w.pendingAt tag with
    | none => .next s
    | some p =>
      let s := { (s.forceLoads wave [tag] fun _ => true).1 with held := [] }
      match p.engine.bind fun id => (s.cluster w.cluster).moves.find? fun m => m.id = id with
      | some m =>
        match s.settleTile w.cluster m.tile (m.id + 1) with
        | some s => .next s
        | none => .next s
      | none => .next s

/-! ### Invalidation (R301) -/

/-- The value of ST_TLBINV names a byte of a virtual page. -/
def tlbinvNames (v : DWord) (page : Nat) : Bool :=
  let (p, n) := tlbinvPages v
  v.getLsbD 9 || meet page 1 p n

/-- An engine of a site still holds a translation of a named page for a launch (R306). -/
def State.engineHolds (s : State) (site launch : Nat) (v : DWord) : Bool :=
  let mine (crew : Nat) : Bool := match s.crew? crew with
    | some c => c.launch = launch
    | none => false
  (s.clusters.mapIdx fun k c => (k, c)).any fun p =>
    p.1 / 12 = site &&
      ((p.2.copies.any fun y => mine y.crew && y.pages.any fun q => tlbinvNames v q.1) ||
       (p.2.moves.any fun m => mine m.crew && m.pages.any fun q => tlbinvNames v q.1))

/-- A side-log entry whose translation succeeded names a page (R302). -/
def State.logHolds (s : State) (site launch : Nat) (v : DWord) : Bool :=
  (s.cores.mapIdx fun k c => (k, c)).any fun p =>
    p.1 / 96 = site && p.2.sideLog.any fun e =>
      e.launch = launch && e.detail = pageDetail 0 4 && tlbinvNames v (e.va.toNat / 4096)

/-- Perform every access that one site translated through a removed entry; none when one must still wait. -/
def State.drainPages (s : State) (site launch : Nat) (v : DWord) : Option State :=
  let named (x : LaneLoad) : Bool := match x.place with
    | .global .. => tlbinvNames v (x.va.toNat / 4096)
    | _ => false
  let ofLaunch (crew : Nat) : Bool := match s.crew? crew with
    | some c => c.launch = launch
    | none => false
  let r := (s.waves.filter fun w => w.site = site && ofLaunch w.crew).foldl (fun acc w =>
    let t := acc.1.forceLoads w.key allSlots named
    (t.1, acc.2 && t.2)) (s, true)
  let mine (x : Inflight) : Bool := x.core / 96 = site && (ofLaunch x.crew || (s.crew? x.crew).isNone)
  let s' := r.1.performAll (r.1.inflight.filter mine) .device
  if r.2 && !s'.inflight.any mine && !s.engineHolds site launch v && !s.logHolds site launch v then some s' else none

/-- Lanes of a launch that a semaphore on a named page blocks have no translation left: the next test finds the object anew
(R184). -/
def State.forgetTurns (s : State) (site launch : Nat) (v : DWord) : State :=
  { s with waves := s.waves.map fun w =>
      if w.site = site && (s.crew? w.crew).any (fun c => c.launch = launch) then
        { w with lanes := w.lanes.map fun x => match x.block with
            | .sema va k acq insn latches order (some _) =>
              if tlbinvNames v (va.toNat / 4096) then { x with block := .sema va k acq insn latches order none } else x
            | _ => x }
      else w }

/-- ST_TLBINV: the accesses of the named sites are performed, and the entries go; none when it must still wait. -/
def State.tlbinv (s : State) (sites : List Nat) (launch : Nat) (v : DWord) : Option State :=
  (sites.foldl (fun (o : Option State) x => o.bind fun s => s.drainPages x launch v) (some s)).map fun s =>
    sites.foldl (fun s x => (s.invalidate x launch v).forgetTurns x launch v) s

/-- The sites that a value of ST_TLBINV written on a site names (R301 BOTH). -/
def tlbinvSites (site : Nat) (v : DWord) : List Nat := if v.getLsbD 8 then [0, 1] else [site]

/-- The write of ST_TLBINV, once it can complete. -/
def tlbinvWrite (w : RegWrite) (s : State) : Result :=
  match s.tlbinv (tlbinvSites w.site w.value) (s.site w.site).tlbLaunch.toNat w.value with
  | some s => .next { s with held := [] }
  | none => .next s

/-- ST_TLBINV with ALL = 0. -/
def execTlbinvRange (w : RegWrite) (s : State) : Result := if w.value.getLsbD 9 then .next s else tlbinvWrite w s
/-- ST_TLBINV with ALL = 1. -/
def execTlbinvAll (w : RegWrite) (s : State) : Result := if w.value.getLsbD 9 then tlbinvWrite w s else .next s

/-! ### PAGE_FAULT_SERVICE (R265, R304, R416) -/

/-- A request for service: the launch, the addresses, the walk's DETAIL, the core whose side log must have room (a lane that
found it full, R302), and what a launch failure reports. -/
structure PageAsk where
  launch : Nat
  vas    : List DWord
  detail : BitVec 16
  room   : Option Nat := none
  tindex : DWord := 0
  lane   : Nat := 0
  pc     : Word := 0
  deriving DecidableEq, Repr

def PageAsk.addr (a : PageAsk) : DWord := a.vas.headD 0

/-- The push of a lane that waits for a page. -/
def Wave.asking (w : Wave) (pair lane : Nat) : Option (Push × DWord × BitVec 16) :=
  (w.port pair).flight.findSome? fun q => if q.lane = lane then q.wait.map fun x => (q, x) else none

/-- An instruction whose accesses enter the side log: a lane of one that parks with PAGE has found the log full (R302). -/
def logsWrite (w : LongWord) : Bool :=
  match decode (w.extractLsb' 0 40) (w.extractLsb' 40 40) with
  | .ok (.stG ..) | .ok (.loftAdd ..) | .ok (.loftMin ..) | .ok (.loftMax ..) | .ok (.loftSax ..) => true
  | .ok (.atomAdd _ f) | .ok (.atomSub _ f) | .ok (.atomMin _ f) | .ok (.atomMax _ f) | .ok (.atomAnd _ f)
  | .ok (.atomOr _ f) | .ok (.atomXor _ f) | .ok (.atomExch _ f) | .ok (.atomInc _ f) | .ok (.atomDec _ f)
  | .ok (.atomCas _ f) => f.nr && !f.sp
  | .ok (.loftCas _ _ nr) => nr
  | _ => false

/-- The addresses that the lanes of a fragment accessed: ld.f's lie at the frame pointer of its task (R152). -/
def State.accessed (s : State) (b : Bivouac) : List DWord :=
  let frame := match decode (b.insn.extractLsb' 0 40) (b.insn.extractLsb' 40 40) with
    | .ok (.ldF ..) => match (s.wave? b.wave).bind fun w => s.crew? w.crew with
      | some c => recFrame c.record
      | none => 0
    | _ => 0
  b.addrs.map fun p => frame + p.2

/-- What a request asks for, while it waits. -/
def State.pageAsk (s : State) (req : PageReq) : Option PageAsk :=
  match req with
  | .frag core e =>
    let b := (s.core core).bivouac.getD e {}
    if b.state = .controller then
      some { launch := b.launch, vas := s.accessed b, detail := b.detail, room := if logsWrite b.insn then some core else none }
    else none
  | .log core idx =>
    (s.core core).sideLog[idx]?.map fun e =>
      { launch := e.launch, vas := [e.va], detail := e.detail, tindex := e.tindex, lane := e.lane, pc := e.pc }
  | .step k idx =>
    match (s.cluster k).steps[idx]? with
    | some m =>
      match m.state, s.crew? m.crew with
      | .suspended va d, some c => some { launch := c.launch, vas := [va], detail := d }
      | _, _ => none
    | none => none
  | .port wave pair lane =>
    match (s.wave? wave).bind fun w => (w.asking pair lane).bind fun q => (s.crew? w.crew).map fun c => (c, q.2) with
    | some (c, va, d) => some { launch := c.launch, vas := [va], detail := d }
    | none => none
  | .wait idx =>
    s.waiters[idx]?.map fun x =>
      let b := match x.kind with
        | .record core e gen | .post core e gen _ =>
          let b := (s.core core).bivouac.getD e {}
          if b.gen = gen then b else {}
        | _ => {}
      { launch := x.launch, vas := [x.va], detail := x.detail, tindex := x.tindex, lane := b.lanes.headD 0, pc := b.pc }

/-- The walk of an address finds a leaf. -/
def State.valid (s : State) (launch : Nat) (va : DWord) : Bool :=
  match s.launch? launch with
  | none => false
  | some l =>
    match walkFrom s va.toNat 3 l.root with
    | .leaf .. => true
    | .fail .. => false

/-- The entries that the walks of a request read. -/
def State.pathsOf (s : State) (a : PageAsk) : List (List Nat) :=
  match s.launch? a.launch with
  | none => []
  | some l => a.vas.map fun va => walkPath s va.toNat 3 l.root

/-- The walk of an entry's page gives the entry. -/
def State.holdsTrue (s : State) (t : TlbEntry) : Bool :=
  match s.launch? t.launch with
  | none => true
  | some l => match walkFrom s (4096 * t.vpage) 3 l.root with
    | .leaf e comp _ _ => e = t.leaf && comp = t.comp
    | .fail .. => false

/-- The ST_TLBINV value that names the pages of an entry (R301). -/
def TlbEntry.range (t : TlbEntry) : DWord :=
  let size := if t.pages = 1 then 0 else if t.pages = 16 then 1 else if t.pages = 512 then 2 else 3
  BitVec.ofNat 64 (4096 * t.vpage + 1024 * size)

/-- The entries of a launch that a site's TLBs hold and that a change of the tables from s to t has made old. -/
def State.staleTlb (s t : State) (site launch : Nat) : List TlbEntry :=
  (t.site site).tlb.filter fun x => x.launch = launch && s.holdsTrue x && !t.holdsTrue x

/-- The controller writes table entries on the paths of the request, none that stands before the point where a walk has
stopped, and invalidates wherever the TLBs hold an old entry (R299, R301, R416); none when that does not map every page. -/
def State.mapPages (s : State) (a : PageAsk) (entries : List (Nat × DWord)) : Option State :=
  let before := (s.pathsOf a).flatMap fun p => p.dropLast
  let s' := entries.foldl (fun t e => t.pokeHome (t.nowAt e.1) (toBytes e.2 8)) s
  let after := (s'.pathsOf a).flatten
  let ok := entries.all fun e => e.1 % 8 = 0 && isMemory e.1 && after.contains e.1 && !before.contains e.1
  if ok && a.vas.all (s'.valid a.launch) then
    [0, 1].foldl (fun (o : Option State) k => (s.staleTlb s' k a.launch).foldl (fun (o : Option State) x =>
      o.bind fun t => t.tlbinv [k] a.launch x.range) o) (some s')
  else none

/-- What waited proceeds. -/
def State.served (s : State) (req : PageReq) : Result :=
  match req with
  | .frag core e => .next (s.resume core e none)
  | .log .. => .next s
  | .step k idx =>
    match (s.cluster k).steps[idx]? with
    | some m => .next (s.setStep k { m with state := .queued })
    | none => .next s
  | .port wave pair lane =>
    .next (s.updWave wave fun w =>
      let p := w.port pair
      w.setPort pair { p with flight := p.flight.map fun q =>
        if q.lane = lane then { q with wait := none } else q })
  | .wait idx =>
    match s.waiters[idx]? with
    | none => .next s
    | some x =>
      let s := { s with waiters := s.waiters.eraseIdx idx }
      match x.kind with
      | .join j => s.runJoin j
      | .fire f => s.continueFire f
      | .post core e gen slot => s.postHandler core e gen slot
      | .start q => .next (s.updQueue q fun x => { x with triggered := false })
      | .record .. => .next s

/-- The controller refuses, with PAGE and the walk's DETAIL or with PROTECT, DETAIL 2. -/
def State.refused (s : State) (req : PageReq) (a : PageAsk) (code : BitVec 8) : State :=
  let d : BitVec 16 := if code = 0x05 then a.detail else 2
  let fail (s : State) : State := s.failLaunch a.launch a.tindex a.addr a.lane a.pc d code
  match req with
  | .frag core e =>
    { s.updCore core (fun c =>
        let b := c.bivouac.getD e {}
        { c with bivouac := c.bivouac.set e { b with state := .waiting, code := code, detail := d, order := s.nextId } }) with
      nextId := s.nextId + 1 }
  | .log core idx => fail (s.updCore core fun c => { c with sideLog := c.sideLog.eraseIdx idx })
  | .step k idx =>
    match (s.cluster k).steps[idx]? with
    | some m => s.abortStep k m code
    | none => s
  | .port wave pair lane =>
    s.updWave wave fun w =>
      let p := w.port pair
      w.setPort pair { p with flight := p.flight.map fun q =>
        if q.lane = lane && q.wait.isSome then { q with wait := none, refused := true } else q }
  | .wait idx => fail { s with waiters := s.waiters.eraseIdx idx }

/-- The system controller answers a request.  A mapping must make every page valid; no change is an answer for a valid page
(for cause 4, with room in the side log), a refusal for one that is not. -/
def execPageFaultService (req : PageReq) (ans : PageAns) (s : State) : Result :=
  match s.pageAsk req with
  | none => .next s
  | some a =>
    let valid := a.vas.all (s.valid a.launch)
    let room := match a.room with
      | some core => s.logRoom core
      | none => true
    let s0 := { s with held := [] }
    match ans with
    | .map entries =>
      match s0.mapPages a entries with
      | some t => if valid || !room then .next s else t.served req
      | none => .next s
    | .noChange => if valid && room then s0.served req else .next s
    | .refusePage => if valid then .next s else .next (s0.refused req a 0x05)
    | .refuseProtect => if valid then .next s else .next (s0.refused req a 0x06)

/-! ### SIDE_LOG_REPLAY (R304, R305) -/

/-- The access that an entry holds, as its instruction made it (R154). -/
def LogEntry.req (e : LogEntry) : GReq :=
  let loft := match e.op with
    | .loft .. => true
    | _ => false
  { va := e.va.toNat, n := e.bytes, span := e.span, need := { r := e.op != .store, w := true }, wr := true, loft := loft }

/-- What the replay of an entry comes to. -/
inductive Replay where
  | done (s : State)
  | wait
  | window
  deriving DecidableEq, Repr

/-- An entry is performed with its own ORD and SCP, once its page is mapped, after the reads of the wave that its instruction
came after; a denial drops it and fails its launch (R304, R305).  A sema.give's change of turn wakes lanes (R184). -/
def State.replayEntry (s : State) (core : Nat) (e : LogEntry) : Replay :=
  let g := s.entryAgent core e
  if s.walkHeld (core / 96) e.launch e.va.toNat e.priv e.req.need then .wait
  else match s.translateWrite (core / 96) e.launch e.va.toNat e.priv e.req.need with
  | (_, .fault _) => .wait
  | (t, .ok pa kind leaf) =>
    let rel := if ordRelease e.ord then some (scopeOf e.scp) else none
    let t := t.updCore core fun c => { c with sideLog := c.sideLog.erase e }
    let fail (t : State) (c : BitVec 8) (d : BitVec 16) : Replay := .done (t.failLaunch e.launch e.tindex e.va e.lane e.pc d c)
    if e.give && !denies leaf e.priv e.req.need && (kind = .ds || kind = .uo) then fail t 0x2B 0
    else match t.writeMapped g e.req e.op e.data rel false e.lane e.pc pa kind leaf (some e.group) with
      | (t, .done _) =>
        let t := if ordAcquire e.ord then t.acquireAt core e.wave (scopeOf e.scp) else t
        .done (if e.give then t.semaSweep else t)
      | (t, .trap c d) => fail t c d
      | (_, .wait) | (_, .far) | (_, .full) | (_, .poison) | (_, .later) => .wait
      | (_, .refuse) => .window

/-- The oldest entries of a wave replay, all that must together or none. -/
def execSideLogReplay (core wave : Nat) (s : State) : Result :=
  let es := s.oldestEntries core wave
  if es.isEmpty then .next s
  else match es.foldl (fun r e => match r with
    | .done s => s.replayEntry core e
    | r => r) (Replay.done s) with
  | .done s => .next { s with held := [] }
  | .wait => .next s
  | .window => .refused .deviceWindow

/-! ### ACCESS_PERFORMED (R276, R278, R288) -/

/-- Number the packet of a write. -/
def State.numberWrite (s : State) (x : Inflight) : State :=
  let n := (s.flow x.flow).next
  let t := s.sendPacket x.flow (.access x.id)
  { t with inflight := t.inflight.map fun y => if y.id = x.id then { y with pkt := some n } else y }

/-- A write leaves for the other site while the window has room (R288).  The writes that stand before it, and the lanes
tied to it, leave first or with it: in its own flow in packets, else at once. -/
def State.numberFlow (s : State) (x : Inflight) : State :=
  (inOrder (s.inflight.filter fun y => (s.withEarlier [x] .device).any fun z => z.id = y.id)).foldl (fun s y =>
    if y.flow = x.flow && y.far then
      if y.pkt.isNone && (s.flow y.flow).unacked.length < 4096 then s.numberWrite y else s
    else s.performAll [y] .device) s

/-- A write is performed at a scope; one for the other site leaves in a numbered packet when it reaches site scope and
numbers are given (R385). -/
def execAccessPerformed (idx : Nat) (scope : Scope) (s : State) : Result :=
  match s.inflight[idx]? with
  | none => .next s
  | some x =>
    let s := { s.performAll [x] scope with held := [] }
    match s.inflight.find? fun y => y.id = x.id with
    | some y => if scope = .site && s.numbers then .next (s.numberFlow y) else .next s
    | none => .next s

/-! ### FRAME_RETIRE (R405) -/

/-- The valid entries of a table of n entries at t: their indexes and values.  The first byte of a valid entry is listed. -/
def State.tableEntries (s : State) (t n : Nat) : List (Nat × DWord) :=
  (List.range ((8 * n + 4095) / 4096)).flatMap fun k =>
    let a := s.nowAt (t + 4096 * k)
    (s.mem.filter fun c => a ≤ c.1 && c.1 < a + 4096 && (c.1 - a) % 8 = 0 && c.2.getLsbD 0).map fun c =>
      (512 * k + (c.1 - a) / 8, s.homeWord c.1)

/-- Entry i of a level-0 table lies under the leader of a group of 16 (R293). -/
def State.grouped (s : State) (t i : Nat) : Bool := i % 16 != 0 && (s.entryAt (t + 8 * (i / 16 * 16))).getLsbD 7

/-- The tables below one of a level, itself included, by level and address, and the leaves: where each stands, and its level. -/
def State.treeOf (s : State) : Nat → Nat → List (Nat × Nat) × List (Nat × Nat × DWord)
  | 0, t =>
    ([(0, t)], (s.tableEntries t 512).filterMap fun p =>
      if (entryFault s 0 p.1 (t + 8 * p.1) p.2).isSome || s.grouped t p.1 then none else some (t + 8 * p.1, 0, p.2))
  | lvl + 1, t =>
    (s.tableEntries t (if lvl = 2 then 8192 else 512)).foldl (fun acc p =>
      if (entryFault s (lvl + 1) p.1 (t + 8 * p.1) p.2).isSome then acc
      else if p.2.getLsbD 1 then (acc.1, acc.2 ++ [(t + 8 * p.1, lvl + 1, p.2)])
      else
        let r := s.treeOf lvl (entryPa p.2)
        (acc.1 ++ r.1, acc.2 ++ r.2)) ([(lvl + 1, t)], [])

/-- The tables of every launch, and the leaves. -/
def State.tables (s : State) : List (Nat × Nat) × List (Nat × Nat × DWord) :=
  s.launches.foldl (fun acc l =>
    let r := s.treeOf 3 l.root
    (acc.1 ++ r.1, acc.2 ++ r.2)) ([], [])

/-- A leaf with another page base. -/
def leafMoved (e : DWord) (base : Nat) : DWord := e.extractLsb' 48 16 ++ (BitVec.ofNat 36 (base / 4096)) ++ e.extractLsb' 0 12

/-- Where an address of a frame lies after its move. -/
def movedTo (base spare n pa : Nat) : Nat := if base ≤ pa && pa < base + n then pa - base + spare else pa

/-- A range of physical lines moves with the frame. -/
def movedLine (f : Nat → Nat) (line : Nat) : Nat := f (64 * line) / 64

def Copies.moved (c : Copies) (f : Nat → Nat) : Copies := c.map fun p => (f p.1, p.2)
def Pages.moved (ps : Pages) (f : Nat → Nat) : Pages := ps.map fun p => (p.1, f p.2.1, p.2.2)
def DsLine.moved (d : DsLine) (f : Nat → Nat) : DsLine := { d with line := movedLine f d.line, phase := f d.phase }
def DsWrite.moved (w : DsWrite) (f : Nat → Nat) : DsWrite := { w with phase := f w.phase, pa := f w.pa }
def Inflight.moved (x : Inflight) (f : Nat → Nat) : Inflight := { x with pa := f x.pa }

/-- The bytes of the n bytes at `base` stand at `spare` too. -/
def Memory.moved (m : Memory) (base spare n : Nat) : Memory :=
  SMap.setAll (w := 8) (m.filter fun c => !(spare ≤ c.1 && c.1 < spare + n))
    ((m.filter fun c => base ≤ c.1 && c.1 < base + n).map fun c => (movedTo base spare n c.1, c.2))

/-- What a push found in a frame moves with it: what memory held at the push stands in the spare (R213, R372). -/
def Push.moved (q : Push) (base spare n : Nat) : Push :=
  let f := movedTo base spare n
  { q with mem := q.mem.moved base spare n, fly := q.fly.map fun x => x.moved f
           dsLines := q.dsLines.map fun d => d.moved f, dsWrites := q.dsWrites.map fun w => w.moved f }

def Pending.moved (p : Pending) (f : Nat → Nat) : Pending :=
  { p with loads := p.loads.map fun x => match x.place with
      | .global pa k => { x with place := .global (f pa) k }
      | _ => x }

/-- What a wave's lanes, tags and ports hold of a frame moves with it. -/
def Wave.moved (w : Wave) (base spare n : Nat) : Wave :=
  let f := movedTo base spare n
  { w with
    lanes := w.lanes.map fun x => match x.block with
      | .sema va k acq insn latches order seen =>
        { x with block := .sema va k acq insn latches order (seen.map fun p => (f p.1, p.2)) }
      | _ => x
    tags := w.tags.map fun t => t.map fun p => p.moved f
    direct := w.direct.map fun p => p.moved f
    ports := w.ports.map fun p => { p with flight := p.flight.map fun q => q.moved base spare n
                                           held := p.held.map fun q => q.moved base spare n } }

/-- What an engine's cluster holds of a frame moves with it. -/
def Cluster.moved (c : Cluster) (f : Nat → Nat) : Cluster :=
  { c with l2 := c.l2.moved f, blocks := c.blocks.map fun p => (f p.1, p.2)
           copies := c.copies.map fun y => { y with pages := y.pages.moved f }
           moves := c.moves.map fun m => { m with pages := m.pages.moved f } }

/-- What a site's controllers hold of a frame moves with it. -/
def Site.moved (t : Site) (f : Nat → Nat) : Site :=
  { t with rlc := t.rlc.moved f, blocks := t.blocks.map fun p => (f p.1, p.2), served := t.served.map f
           queues := t.queues.map fun q => { q with desc := f q.desc, front := q.front.map fun p => { p with queue := f p.queue } }
           gangWait := t.gangWait.map fun g => { g with item := { g.item with queue := f g.item.queue } }
           placing := t.placing.map fun p => { p with item := { p.item with queue := f p.item.queue }, phase := p.phase.map f }
           dsLines := t.dsLines.map fun d => d.moved f }

/-- The bytes and the poison of a frame are copied to its spare, and everything that names them by their place follows. -/
def State.moveFrame (s : State) (base spare n : Nat) : State :=
  let f := movedTo base spare n
  let inSpare (pa : Nat) : Bool := spare ≤ pa && pa < spare + n
  { s with
    mem := Memory.moved s.mem base spare n
    badLines := (s.badLines.filter fun l => !inSpare (64 * l)) ++
      (s.badLines.filter fun l => base ≤ 64 * l && 64 * l < base + n).map (movedLine f)
    inflight := s.inflight.map fun x => x.moved f
    cores := s.cores.map fun c => { c with copies := c.copies.moved f }
    clusters := s.clusters.map fun c => c.moved f
    siteA := s.siteA.moved f, siteB := s.siteB.moved f
    crews := s.crews.map fun c => { c with phase := c.phase.map f, queue := c.queue.map f }
    offers := s.offers.map fun o => { o with queue := f o.queue }
    fires := s.fires.map fun x => { x with phase := x.phase.map f }
    waiters := s.waiters.map fun w => match w.kind with
      | .fire x => { w with kind := .fire { x with phase := x.phase.map f } }
      | .start q => { w with kind := .start (f q) }
      | _ => w
    dsWrites := s.dsWrites.map fun w => w.moved f
    waves := s.waves.map fun w => w.moved base spare n }

/-- The frame of a physical page and its size in bytes: the largest page that a leaf maps there, or the page itself. -/
def State.frameOf (s : State) (leaves : List (Nat × Nat × DWord)) (page : Nat) : Nat × Nat :=
  let n := leaves.foldl (fun n q =>
    let k := leafBytes q.2.1 q.2.2
    if s.nowAt (entryPa q.2.2) / k = 4096 * page / k then max n k else n) 4096
  (4096 * page / n * n, n)

/-- The spare may take a frame: of the same kind and home, and nothing stands in it or has stood there (R405). -/
def State.spareOk (s : State) (base dst n : Nat) : Bool :=
  let used (pa k : Nat) : Bool := meet pa k dst n
  let (ts, ls) := s.tables
  !meet base n dst n && isMemory base && isMemory dst && isMemory (dst + n - 1) && isLoft base = isLoft dst &&
  Config.homeSite base = Config.homeSite dst &&
  !(s.mem.any fun c => used c.1 1) && !s.rangeBad dst n &&
  !(s.retired.any fun p => used (4096 * p.1) 4096 || used (4096 * p.2) 4096) &&
  !(ts.any fun t => used t.2 (if t.1 = 3 then 131072 else 8192)) && !(ls.any fun q => used (entryPa q.2.2) (leafBytes q.2.1 q.2.2)) &&
  !(s.inflight.any fun x => used x.pa x.data.length) &&
  !((s.siteA.queues ++ s.siteB.queues).any fun q => used q.desc 64) && (s.hsRing.all fun r => !used r.1 (32 * r.2))

/-- The leaves of a frame, wherever they stand now, name its spare. -/
def State.rewriteLeaves (s : State) (base spare n : Nat) (leaves : List (Nat × Nat × DWord)) : State :=
  leaves.foldl (fun t q =>
    let pa := s.nowAt (entryPa q.2.2)
    if base ≤ pa && pa < base + n then
      t.pokeHome (movedTo base spare n (s.nowAt q.1)) (toBytes (leafMoved q.2.2 (movedTo base spare n pa)) 8)
    else t) s

/-- The frame of physical page `page`, which has a poisoned line, moves to the spare that holds page `spare`: its leaves are
rewritten and their translations go (R405).  Accesses that were given the old place find the new one (log entry 36). -/
def State.retireFrame (page spare : Nat) (s : State) : State :=
  let leaves := s.tables.2
  let (base, n) := s.frameOf leaves page
  let dst := 4096 * spare / n * n
  if s.nowAt (4096 * page) != 4096 * page || !s.rangeBad base n || !s.spareOk base dst n then s
  else
    let t := (s.moveFrame base dst n).rewriteLeaves base dst n leaves
    let drop (x : Site) : Site :=
      { x with tlb := x.tlb.filter fun e => !(base ≤ s.nowAt (entryPa e.leaf) && s.nowAt (entryPa e.leaf) < base + n) }
    { t with siteA := drop t.siteA, siteB := drop t.siteB
             retired := t.retired ++ (List.range (n / 4096)).map fun k => (base / 4096 + k, dst / 4096 + k)
             held := [] }.ras 0x04 ((Config.homeSite base).getD 0) (addr := BitVec.ofNat 64 base)

/-- FRAME_RETIRE: the frames named retire one after the other (R405). -/
def execFrameRetire (page spare : Nat) (more : List (Nat × Nat)) (s : State) : Result :=
  .next (more.foldl (fun s p => s.retireFrame p.1 p.2) (s.retireFrame page spare))

end Sys2Proof.Machine
end

