-- ==== Sys2Proof/Machine/Task.lean ====
section
/-!
DEFINITION. Task instructions (08 R224-R230): spawn, post, join and task.end, and the retirement of a wave (06 R148).
-/
namespace Sys2Proof.Machine

/-- The release scope in F10[79:77] (R224). -/
def f10Scope (x : LE) : Scope := scopeOf (x.f10.extractLsb' 7 3)

/-! ### spawn (R225) -/

/-- Crew numbers in use. -/
def State.crewNums (s : State) (crew : Nat) : List Nat := (s.waves.filter fun w => w.crew = crew).map (·.num)

/-- The sum of 2^k over crew numbers. -/
def numMask (ns : List Nat) : Word := ns.foldl (fun m k => m ||| ((1 : Word) <<< k)) 0

def execSpawn (x : LE) (s : State) : Result :=
  issue (.spawn x) (fun i => onceInto i 1 x.d (
    let n := ((engineOp i false x.b).setWidth 32).toNat
    let out (s : State) (m : Word) : Eff :=
      let (vw, sw) := onceWrite i 1 x.d (m.setWidth 64)
      { s := s, vw := vw, sw := sw, entry := laneEntry 1 x.d (i.act.map fun l => (l, m.setWidth 64)) }
    match i.s.crew? i.w.crew with
    | none => { s := i.s }
    | some c =>
      let used := i.s.crewNums c.key
      if n = 0 || 32 < used.length + n then out i.s 0
      else if !i.s.hasRoom c.core n (recBlocks c.record) 0 then { s := i.s, hold := true }
      else match i.s.releasePoint i.w .crew with
        | none => { s := i.s, hold := true }
        | some s =>
          let nums := lowestFree used 32 n
          out (s.addWaves c.core c.key nums ((engineOp i false x.a).setWidth 32) i.w.s) (numMask nums))) s

/-! ### post (R226) -/

/-- The lanes of a post so far; those that the link holds do nothing (R385). -/
structure PostRun where
  s     : State
  outs  : List (Nat × Nat) := []
  traps : List LaneTrap := []
  held  : List Nat := []
  wait  : Bool := false
  stop  : Bool := false
  deriving DecidableEq, Repr

/-- The 64 bytes of a lane's record: register A + k holds bytes 4k to 4k + 3. -/
def postRecord (w : Wave) (r l : Nat) : BitVec 512 :=
  BitVec.ofNat 512 (ofBytes ((List.range 16).flatMap fun k => toBytes (w.vreg (r + k) l) 4))

/-- A lane needs a packet that the link does not take: a paused link holds the lane, and one that trains the wave (R385,
R386). -/
def PostRun.far (p : PostRun) (l : Nat) : PostRun :=
  if p.s.numbers then { p with wait := true } else { p with held := p.held ++ [l] }

/-- One lane of a post: the descriptor's access, PRIV, the record's validity, the offer and its status (R287). -/
def PostRun.lane (p : PostRun) (i : Issue) (g : Agent) (va : DWord) (sc : Scope) (l : Nat) (r : BitVec 512) : PostRun :=
  if p.wait || p.stop then p
  else match p.s.blockAt g va.toNat with
    | .trap s c d => { p with s := s, traps := p.traps ++ [{ lane := l, code := c, detail := d, addr := some va }] }
    | .wait => { p with wait := true }
    | .far => p.far l
    | .window => { p with stop := true }
    | .ok s pa _ =>
      if recPriv r && !g.priv then { p with s := s, traps := p.traps ++ [{ lane := l, code := 0x03 }] }
      else
        let ok := match s.launch? g.launch with
          | some la => recordValid la.gmax la.priv r
          | none => false
        if !ok then { p with s := s, outs := p.outs ++ [(l, 4)] }
        else if !s.queueReach (i.w.core / 96) pa then p.far l
        else match (s.pushPacket i.w.core pa).pushQueue pa (recSetLaunch r (BitVec.ofNat 16 g.launch)) sc with
          | .window => { p with stop := true }
          | .held => p.far l
          | .done s st => { p with s := s, outs := p.outs ++ [(l, st)] }

def execPost (x : LE) (s : State) : Result :=
  issue (.post x) (fun i => onceInto i 1 x.d (
    match i.s.releasePoint i.w (f10Scope x), x.a with
    | some s, .v r =>
      let va := engineOp i true x.b
      let p := i.act.foldl (fun p l => p.lane i i.agent va (f10Scope x) l (postRecord i.w r.toNat l)) ({ s := s } : PostRun)
      let e : Eff := { s := p.s, traps := p.traps, held := p.held, hold := p.wait, stop := if p.stop then some .deviceWindow else none }
      match x.d with
      | .v d => { e with vw := p.outs.map fun q => (32 * d.toNat + q.1, BitVec.ofNat 32 q.2)
                         entry := laneEntry 1 x.d (p.outs.map fun q => (q.1, BitVec.ofNat 64 q.2)) }
      | .s d => { e with sw := p.outs.head?.map fun q => (d.toNat, BitVec.ofNat 64 q.2) }
      | _ => e
    | _, _ => { s := i.s, hold := true })) s

/-! ### join (R228) -/

def execJoin (x : LE) (s : State) : Result :=
  issue (.join x) (fun i => once i (
    match i.s.releasePoint i.w (f10Scope x) with
    | none => { s := i.s, hold := true }
    | some s =>
      let va := engineOp i true x.a
      match s.joinCounter i.agent va ((engineOp i false x.b).setWidth 32) ((engineOp i false x.c).setWidth 8) with
      | .trap s c d => { trapAll i c d (some va) with s := s }
      | .wait => { s := i.s, hold := true }
      | .far => i.linkHeld
      | .window => { s := i.s, stop := some .deviceWindow }
      | .done s none => { s := s }
      | .done s (some f) =>
        match s.fireJoin f with
        | .next s => { s := s }
        | .refused r => { s := i.s, stop := some r }
        | .fault _ => { s := i.s })) s

/-! ### task.end (R49, R229) -/

/-- The wave's pending results are complete, its side log is replayed, and its steps and copies are done. -/
def State.quiet (s : State) (w : Wave) : Bool :=
  (w.tags.all fun t => match t with
    | some p => p.complete
    | none => true) &&
  (match w.direct with
    | some p => p.complete
    | none => true) &&
  !s.waveLogged w.core w.key && s.matrixIdle w && !((s.cluster w.cluster).copies.any fun y => y.wave = w.key)

/-- A poisoned result that no lane will take is reported (R309). -/
def State.poisonLost (s : State) (w : Wave) (ps : List (Option Pending)) (ls : List Nat) : State :=
  ps.foldl (fun s p => match (p.getD {}).poison.find? fun q => ls.contains q.1 && q.2.code = 0x08 with
    | some q =>
      let c := s.crew? w.crew
      s.ras 0x0D w.site (some w.core) (some w.cluster) ((c.map Crew.launch).getD 0)
        ((c.map fun c => recTindex c.record).getD 0) q.2.va
    | none => s) s

/-- Land every tag (R49); the lanes that leave lose what was poisoned. -/
def Wave.landAll (w : Wave) (ls : List Nat) : Wave :=
  ((List.range 8).foldl Wave.landTag w.landDirect).updLanes ls fun _ x => { x with poison := none }

/-- The codes of the lanes, ORed. -/
def endCodes (i : Issue) (a : Sel) : BitVec 8 :=
  i.act.foldl (fun c l => match readOne i.w l false a with
    | .ok v => c ||| v.setWidth 8
    | .error _ => c) 0

def execTaskEnd (x : LE) (s : State) : Result :=
  issue (.taskEnd x) (fun i =>
    if i.act.isEmpty then { s := i.s }
    else if !i.s.quiet i.w then { s := i.s, hold := true }
    else
      let s := i.s.poisonLost i.w i.w.tags i.act
      let s := s.setWave (i.w.landAll i.act)
      let s := s.updCrew i.w.crew fun c => { c with cc := c.cc ||| endCodes i x.a }
      { s := s.exitLanes i.w.key i.act }) s

/-! ### WAVE_RETIRE (R148, R190, R229) -/

/-- Every lane has exited, no fragment remains, and the wave's work is done. -/
def State.mayRetire (s : State) (w : Wave) : Bool :=
  (w.lanes.all fun x => x.life = .exited) && w.parked.isEmpty && s.quiet w && (w.ports.all fun p => p.flight.isEmpty) &&
    s.releaseReady w.core .device

/-- A wave retires; the last of a crew completes the task. -/
def execWaveRetire (wave : Nat) (s : State) : Result :=
  match s.wave? wave with
  | none => .next s
  | some w =>
    if !s.mayRetire w then .next s
    else
      let s := s.poisonLost w (w.direct :: w.tags) laneIds
      let s := (s.dropMatrix w).retagRecords wave (recordMark w.crew)
      let s := ({ s with waves := s.waves.filter (fun y => y.key != wave), held := [] }.unchain (wave / 128) [wave]).freedRoom
      match s.crew? w.crew with
      | some c => if s.waves.any fun y => y.crew = c.key then .next s else s.completeCrew c
      | none => .next s

end Sys2Proof.Machine
end

