-- ==== Sys2Proof/Machine/Rosoinu.lean ====
section
/-!
DEFINITION. Rosoinu (17 R391-R396): the host's requests, in the order of each session, and what each does; launches as the
host opens and closes them (14 R321, R322); the module's messages and their acknowledgement.
-/
namespace Sys2Proof.Machine

/-! ### Messages (R392) -/

/-- A request as its datagram carries it. -/
structure Req where
  d       : Datagram
  type    : BitVec 8
  session : Nat
  seq     : Word
  status  : Nat
  tag     : DWord
  body    : List Byte
  deriving DecidableEq, Repr

/-- The number in n bytes from offset o. -/
def fieldAt (bs : List Byte) (o n : Nat) : Nat := ofBytes ((bs.drop o).take n)

/-- A datagram's message; none when it is dropped without response. -/
def parseReq (d : Datagram) : Option Req :=
  let b := d.bytes
  if b.length < 32 || fieldAt b 0 2 != 0x5352 || fieldAt b 2 1 != 1 || fieldAt b 24 8 != 0 ||
      b.length != 32 + fieldAt b 12 2 then none
  else some
    { d := d, type := BitVec.ofNat 8 (fieldAt b 3 1), session := fieldAt b 4 4, seq := BitVec.ofNat 32 (fieldAt b 8 4)
      status := fieldAt b 14 2, tag := BitVec.ofNat 64 (fieldAt b 16 8), body := b.drop 32 }

/-- A port's link-local address, from its MAC address by the modified EUI-64 rule (R391). -/
def linkLocal (port : Nat) : BitVec 128 :=
  let m := Config.mac port
  0xFE80#16 ++ 0#48 ++ (m.extractLsb' 24 24 ^^^ 0x020000#24) ++ 0xFFFE#16 ++ m.extractLsb' 0 24

/-- The UDP port that the module listens on. -/
def rosoinuPort : BitVec 16 := 47310

/-- The datagram is for the module: at the listening port, to the address that SETIP has set for its Ethernet port or to the
link-local one (R391). -/
def State.listens (s : State) (d : Datagram) : Bool :=
  let ip := (s.site d.port).ip
  d.port ≤ 1 && d.dport = rosoinuPort && ((ip != 0 && d.dst = ip) || d.dst = linkLocal d.port)

/-- The datagram of a response. -/
def Req.answer (r : Req) (session : Nat) (status : Nat) (payload : List Byte) : OutGram :=
  ⟨r.d.port, r.d.src, r.d.sport, rosoinu r.type session r.seq (BitVec.ofNat 16 status) r.tag payload⟩

def State.send (s : State) (g : OutGram) : State := { s with outbox := s.outbox ++ [g] }

/-- What a request comes to: a status and a payload, a wait, or an access to a device window. -/
inductive Reply where
  | done (s : State) (status : Nat) (payload : List Byte)
  | wait
  | window
  deriving DecidableEq, Repr

def State.session? (s : State) (n : Nat) : Option Session := s.sessions.find? fun x => x.num = n

/-- The session opened a launch that is open. -/
def State.opened (s : State) (x : Session) (n : Nat) : Bool :=
  match s.launch? n with
  | some l => l.session = x.num && !l.closed
  | none => false

/-- The number names an open launch. -/
def State.isOpen (s : State) (n : Nat) : Bool :=
  match s.launch? n with
  | some l => !l.closed
  | none => false

/-! ### Host accesses (R286, R394, R395) -/

/-- Where a range lies: its pieces by physical address, no translation or a denial, or a device window. -/
inductive HostAt where
  | at (pieces : List (Nat × Nat))
  | bad
  | window
  deriving DecidableEq, Repr

/-- Where a physical range of at most a page lies, whose frames may have moved (R405). -/
def State.pieces (s : State) (pa n : Nat) : List (Nat × Nat) :=
  let m := 4096 - pa % 4096
  if n ≤ m || s.nowAt (pa + m) = s.nowAt pa + m then [(s.nowAt pa, n)] else [(s.nowAt pa, m), (s.nowAt (pa + m), n - m)]

/-- A physical range. -/
def State.physAt (s : State) (pa n : Nat) : HostAt :=
  if isMemory pa && isMemory (pa + n - 1) then .at (s.pieces pa n)
  else if isWindow pa || isWindow (pa + n - 1) then .window else .bad

/-- A virtual range through the tables at a root (R293-R297), page by page. -/
def State.virtAt (s : State) (root : Nat) (priv : Bool) (need : Need) : Nat → Nat → Nat → HostAt
  | 0, _, _ => .at []
  | fuel + 1, va, n =>
    if n = 0 then .at []
    else if 2 ^ 52 ≤ va then .bad
    else
      let m := min n (4096 - va % 4096)
      match walkFrom s va 3 root with
      | .fail _ _ => .bad
      | .leaf e _ vpage _ =>
        let pa := s.nowAt (entryPa e + (va - 4096 * vpage))
        if denies e priv need then .bad
        else if isWindow pa then .window
        else match s.virtAt root priv need fuel (va + m) (n - m) with
          | .at ps => .at ((pa, m) :: ps)
          | x => x

/-- The bytes of the pieces; those of a poisoned line are free values (log entry 7). -/
def State.hostRead (s : State) (ps : List (Nat × Nat)) : List Byte :=
  (ps.flatMap fun p => (List.range p.2).map fun k => p.1 + k).mapIdx fun k pa =>
    if s.lineBad pa then Config.freeByte (s.fresh + k) else s.homeByte pa

/-- Write one line's part of a piece: a poisoned line takes whole lines only (R309). -/
def State.hostLine (s : State) (pa : Nat) (bs : List Byte) : State :=
  if !s.lineBad pa then s.pokeHome pa bs
  else if bs.length = 64 then (s.clearLine pa).pokeHome pa bs
  else s

/-- Write the pieces in order. -/
def State.hostWrite (s : State) : List (Nat × Nat) → List Byte → State
  | [], _ => s
  | (pa, n) :: ps, bs =>
    let s := (linesOf pa n).foldl (fun s k =>
      let lo := max pa (64 * k)
      let hi := min (pa + n) (64 * (k + 1))
      s.hostLine lo ((bs.drop (lo - pa)).take (hi - lo))) s
    s.hostWrite ps (bs.drop n)

/-- The access that the first 16 bytes of a MEMRD or MEMWR name, for at most `top` bytes; an error is its status. -/
def State.hostAccess (s : State) (x : Session) (b : List Byte) (top : Nat) (need : Need) : Except Nat (Nat × HostAt) :=
  let va := fieldAt b 0 8
  let n := fieldAt b 8 2
  let l := fieldAt b 12 2
  if b.length < 16 || n = 0 || top < n || 1 < fieldAt b 10 2 || fieldAt b 14 2 != 0 then .error 1
  else if fieldAt b 10 2 = 1 then (if x.priv then .ok (n, s.physAt va n) else .error 2)
  else if !(if x.priv then s.isOpen l else s.opened x l) then .error 4
  else match s.launch? l with
    | none => .error 4
    | some la => .ok (n, s.virtAt la.root x.priv need (n / 4096 + 2) va n)

def State.doMemrd (s : State) (x : Session) (r : Req) : Reply :=
  if r.body.length != 16 then .done s 1 []
  else match s.hostAccess x r.body 1440 { r := true } with
    | .error st => .done s st []
    | .ok (_, .bad) => .done s 5 []
    | .ok (_, .window) => .window
    | .ok (n, .at ps) => .done { s with fresh := s.fresh + n } 0 (s.hostRead ps)

def State.doMemwr (s : State) (x : Session) (r : Req) : Reply :=
  match s.hostAccess x r.body 1424 { w := true } with
  | .error st => .done s st []
  | .ok (n, a) =>
    if r.body.length != 16 + n then .done s 1 []
    else match a with
      | .bad => .done s 5 []
      | .window => .window
      | .at ps => .done { s.hostWrite ps (r.body.drop 16) with held := [] } 0 []

/-! ### LAUNCH (R321, R322) -/

/-- The copy of a launch's constant bank; an error is the detail 0x0008. -/
def State.readBank (s : State) (l : Launch) : Except Bool (SMap 8) :=
  match s.virtAt l.root l.priv { r := true } (l.bankBytes / 4096 + 2) l.bankBase l.bankBytes with
  | .bad => .error false
  | .window => .error true
  | .at ps =>
    if ps.any fun p => s.rangeBad p.1 p.2 then .error false
    else .ok (SMap.setRun (w := 8) [] 0 (ps.flatMap fun p => s.homeBytes p.1 p.2))

/-- The lowest detail of R322, less 0x0008, that rejects a launch record. -/
def State.rejects (s : State) (x : Session) (l : Launch) : Option Nat :=
  let v := l.record
  if s.isOpen l.num then some 1
  else if !l.onSite 0 && !l.onSite 1 then some 2
  else if v.extractLsb' 89 100 != 0 || v.extractLsb' 24 16 != 0 || v.getLsbD 16 then some 3
  else if l.gmax = 0 || 8 < l.gmax then some 4
  else if l.rslots = 0 || !(match Config.region l.root with
      | .lpddr _ => true
      | _ => false) then some 5
  else if l.priv && !x.priv then some 6
  else if (l.hand && 2048 < l.hscr.toNat) || (!l.hand && (l.hentry != 0 || l.hscr != 0 || l.hrblk != 0)) then some 7
  else none

/-- A rejected record: a report of KIND 0x01 and status 0x0100 + d. -/
def State.rejected (s : State) (x : Session) (l : Launch) (d : Nat) : Reply :=
  .done (s.sendTo x (0x20, toBytes (reportWord l.num 0 0 0 0 (BitVec.ofNat 16 d) 0 1) 64)) (0x100 + d) []

def State.doLaunch (s : State) (x : Session) (r : Req) : Reply :=
  if r.body.length != 64 then .done s 1 []
  else
    let v := BitVec.ofNat 512 (ofBytes r.body)
    let l : Launch := { num := (v.extractLsb' 0 16).toNat, record := v, session := x.num }
    match s.rejects x l with
    | some d => s.rejected x l d
    | none =>
      match s.readBank l with
      | .error true => .window
      | .error false => s.rejected x l 8
      | .ok bank => .done { s with launches := s.launches ++ [{ l with bank := bank }], launched := true, held := [] } 0 []

/-! ### LCLOSE (R322) -/

/-- A session's unsent reports when it ends: they go to the privileged sessions, or wait for one (R396). -/
def State.passReport (s : State) (m : Message) : State :=
  match s.sessions.filter (·.priv) with
  | [] => { s with messages := s.messages ++ [m] }
  | xs => xs.foldl (fun s x => s.sendTo x m) s

/-- What names a launch in a core follows its number. -/
def Core.renumber (c : Core) (f : Nat → Nat) : Core :=
  { c with bivouac := c.bivouac.map fun b => { b with launch := f b.launch }
           sideLog := c.sideLog.map fun e => { e with launch := f e.launch } }

def Meter.renumber (m : Meter) (f : Nat → Nat) : Meter :=
  { m with latest := m.latest.map fun h => { h with launch := f h.launch }
           adopted := m.adopted.map fun h => { h with launch := f h.launch } }

/-- In a site, the entries of its TLBs serve the old number too. -/
def Site.renumber (t : Site) (f : Nat → Nat) : Site :=
  { t with meter := t.meter.renumber f, scan := { t.scan with launch := f t.scan.launch }
           tlb := (t.tlb.filter fun e => f e.launch != e.launch).map (fun e => { e with launch := f e.launch }) ++ t.tlb }

def WaitKind.renumber (f : Nat → Nat) : WaitKind → WaitKind
  | .join j => .join { j with launch := f j.launch }
  | .fire x => .fire { x with launch := f x.launch }
  | k => k

/-- Every name of a launch but those in records and queues. -/
def State.renumber (s : State) (f : Nat → Nat) : State :=
  { s with
    launches := s.launches.map fun l => if f l.num = l.num then l else { l with num := f l.num, closed := true }
    crews := s.crews.map fun c => if f c.launch = c.launch then c else { c with closedAs := some (f c.launch) }
    cores := s.cores.map fun c => c.renumber f
    clusters := s.clusters.map fun c => { c with reserved := c.reserved.map fun g => (f g.1, g.2) }
    siteA := s.siteA.renumber f
    siteB := s.siteB.renumber f
    gangs := s.gangs.map fun g => { g with launch := f g.launch }
    gangDone := s.gangDone.map fun d => (f d.1, d.2)
    offers := s.offers.map fun o => { o with launch := f o.launch }
    joins := s.joins.map fun j => { j with launch := f j.launch }
    fires := s.fires.map fun x => { x with launch := f x.launch }
    waiters := s.waiters.map fun w => { w with launch := f w.launch, kind := w.kind.renumber f } }

/-- The unpopped records of a launch in a site's queues and gang table are dropped. -/
def Site.dropRecords (t : Site) (n : Nat) : Site :=
  let of (r : BitVec 512) : Bool := (recLaunch r).toNat = n
  { t with
    queues := t.queues.map fun q =>
      { q with front := q.front.filter fun p => !of p.record
               entries := q.entries.map fun e => if of e.record then { e with dropped := true } else e }
    gangWait := t.gangWait.filter fun g => !of g.item.record }

/-- The records that `dropRecords` drops. -/
def Site.recordsOf (t : Site) (n : Nat) : List (BitVec 512) :=
  (t.queues.flatMap (fun q => q.front.map (·.record) ++ (q.entries.filter fun e => !e.dropped).map (·.record)) ++
    t.gangWait.map (·.item.record)).filter fun r => (recLaunch r).toNat = n

/-- Those of them that a scheduler has popped already; their drop is reported at once (R329). -/
def Site.heldRecords (t : Site) (n : Nat) : List (BitVec 512) :=
  (t.queues.flatMap (fun q => q.front.map (·.record)) ++ t.gangWait.map (·.item.record)).filter fun r =>
    (recLaunch r).toNat = n

/-- Close a launch: its unpopped records are dropped, its number becomes free, and what still runs keeps an internal number
(log entry 14). -/
def State.closeLaunch (s : State) (n : Nat) : State :=
  let m := n + 65536 * (1 + s.nextId)
  let s := (s.siteA.recordsOf n ++ s.siteB.recordsOf n).foldl State.recordDone { s with nextId := s.nextId + 1, held := [] }
  let s := [0, 1].foldl (fun s k => ((s.site k).heldRecords n).foldl (fun s r => s.ras 0x0C k none none n (recTindex r)) s) s
  let s := s.renumber fun k => if k = n then m else k
  { s with siteA := s.siteA.dropRecords n, siteB := s.siteB.dropRecords n
           offers := s.offers.filter fun o => (recLaunch o.record).toNat != n }

def State.doLclose (s : State) (x : Session) (r : Req) : Reply :=
  let n := fieldAt r.body 0 2
  if r.body.length != 4 || fieldAt r.body 2 2 != 0 then .done s 1 []
  else if !(if x.priv then s.isOpen n else s.opened x n) then .done s 4 []
  else if (s.siteA.placing ++ s.siteB.placing).any fun p => (recLaunch p.item.record).toNat = n then .wait
  else .done (s.closeLaunch n) 0 []

/-! ### PUSH and QCMD (R326, R327) -/

def State.doPush (s : State) (x : Session) (r : Req) : Reply :=
  let pa := s.nowAt (fieldAt r.body 0 8)
  let mine := match s.queue? pa with
    | some (_, q) => q.state = .opened && s.opened x q.owner
    | none => false
  if r.body.length != 72 then .done s 1 []
  else if !x.priv && !mine then .done s 4 []
  else
    let rec' := BitVec.ofNat 512 (ofBytes (r.body.drop 8))
    if !s.recordOk rec' then .done s 0x204 []
    else match s.pushQueue pa rec' .system with
    | .window => .window
    | .held => .wait
    | .done s st => .done s (if st = 0 then 0 else 0x200 + st) []

def State.doQcmd (s : State) (x : Session) (r : Req) : Reply :=
  let v := BitVec.ofNat 64 (fieldAt r.body 0 8)
  let pa := s.nowAt (qcmdDesc v)
  if r.body.length != 8 then .done s 1 []
  else if isWindow pa then .window
  else if !isMemory pa || s.rangeBad pa 64 then .done s 5 []
  else if !x.priv && !s.opened x (descQueue pa (BitVec.ofNat 512 (ofBytes (s.homeBytes pa 64)))).owner then .done s 4 []
  else
    let (s, ok) := s.queueCmd (v.extractLsb' 0 2) pa
    .done { s with held := [] } (if ok then 0 else 5) []

/-! ### The privileged types (R393) -/

def State.doSetip (s : State) (x : Session) (r : Req) : Reply :=
  let b := r.body
  if b.length != 24 || 1 < fieldAt b 0 1 || fieldAt b 1 3 != 0 || 128 < fieldAt b 20 1 || fieldAt b 21 3 != 0 then .done s 1 []
  else if !x.priv then .done s 2 []
  else .done (s.updSite (fieldAt b 0 1) fun t =>
    { t with ip := BitVec.ofNat 128 (fieldAt b 4 16), ipPrefix := BitVec.ofNat 8 (fieldAt b 20 1) }) 0 []

def State.doTlbinv (s : State) (x : Session) (r : Req) : Reply :=
  let b := r.body
  let v := BitVec.ofNat 64 (fieldAt b 0 8)
  if b.length != 16 || fieldAt b 10 6 != 0 then .done s 1 []
  else if !x.priv then .done s 2 []
  else match s.tlbinv (tlbinvSites (r.d.port % 2) v) (fieldAt b 8 2) v with
    | some s => .done { s with held := [] } 0 []
    | none => .wait

def State.doHsring (s : State) (x : Session) (r : Req) : Reply :=
  let b := r.body
  let base := fieldAt b 0 8
  let n := fieldAt b 8 4
  if b.length != 16 || base % 4096 != 0 || n < 256 || 2 ^ 20 < n || 2 ^ Nat.log2 n != n || fieldAt b 12 4 != 0 then .done s 1 []
  else if !x.priv then .done s 2 []
  else if !isMemory base || !isMemory (base + 32 * n - 1) then .done s 5 []
  else .done { s with hsRing := some (base, n) } 0 []

/-- The entries of a gate control list. -/
def gateEntries (b : List Byte) (n : Nat) : List DWord := (List.range n).map fun k => BitVec.ofNat 64 (fieldAt b (24 + 8 * k) 8)

def State.doGate (s : State) (x : Session) (r : Req) : Reply :=
  let b := r.body
  let n := fieldAt b 20 4
  let es := gateEntries b n
  if b.length < 24 || 1 < fieldAt b 0 1 || fieldAt b 1 7 != 0 || n = 0 || 128 < n || b.length != 24 + 8 * n ||
      es.any (fun e => e.extractLsb' 8 24 != 0) then .done s 1 []
  else if !x.priv then .done s 2 []
  else .done (s.updSite (fieldAt b 0 1) fun t =>
    { t with gates := ⟨BitVec.ofNat 64 (fieldAt b 8 8), BitVec.ofNat 32 (fieldAt b 16 4), es⟩ }) 0 []

/-! ### ELEVATE, ATTEST and CLOSE (R394, R413) -/

/-- A session becomes privileged: the reports that wait go to it (R396). -/
def State.elevated (s : State) (x : Session) : State :=
  s.messages.foldl (fun s m => match s.session? x.num with
    | some y => s.sendTo y m
    | none => s) { s.setSession { x with priv := true } with messages := [] }

def State.doElevate (s : State) (x : Session) (r : Req) : Reply :=
  let modulus := r.body.take 512
  let t := s.site (r.d.port % 2)
  if r.body.length != 1024 then .done s 1 []
  else if cfgHostKey t.cfg = 0 || (sha512 modulus).take 48 != toBytes (cfgHostKey t.cfg) 48 ||
      !pssVerify modulus (toBytes x.challenge 32 ++ toBytes (BitVec.ofNat 32 x.num) 4) (r.body.drop 512) then .done s 3 []
  else .done (s.elevated x) 0 []

/-- The 192-byte evidence of a site. -/
def State.evidence (s : State) (site : Nat) (nonce : List Byte) : List Byte :=
  let t := s.site site
  let lost := ((s.cores.drop (96 * site)).take 96).countP (·.retired)
  nonce ++ toBytes (BitVec.ofNat 64 site) 8 ++ sha512 t.image ++ sha512 t.config ++ toBytes (t.fusedMin.setWidth 64) 8 ++
    toBytes t.poleLoft 8 ++ toBytes (BitVec.ofNat 64 lost) 8

/-- The evidence and its signature under the site's identity key, whose salt is a free value (log entry 7); a site whose key
store is erased cannot sign (R414). -/
def State.doAttest (s : State) (r : Req) : Reply :=
  let b := r.body
  let site := fieldAt b 32 1
  if b.length != 36 || 1 < site || fieldAt b 33 3 != 0 then .done s 1 []
  else if !(s.site site).keys then .done s 3 []
  else
    let e := s.evidence site (b.take 32)
    .done { s with fresh := s.fresh + 64 } 0 (e ++ pssSign (Config.idKey site) e ((List.range 64).map fun k => Config.freeByte (s.fresh + k)))

/-- A session ends: the reports it has not acknowledged go on, its waiting RAS messages are dropped. -/
def State.endSession (s : State) (x : Session) : State :=
  let s := { s with sessions := s.sessions.filter fun y => y.num != x.num }
  let s := ((x.unacked.map (·.2) ++ x.waiting).filter fun m => m.1 = 0x20).foldl State.passReport s
  (x.waiting.filter fun m => m.1 = 0x21).foldl (fun s m => s.rasCount (fieldAt m.2 2 1) 0) s

/-! ### The requests of a session in order (R395) -/

/-- The types that the host may send in a session. -/
def knownType (t : BitVec 8) : Bool :=
  [0x01, 0x02, 0x03, 0x04, 0x05, 0x10, 0x11, 0x12, 0x13, 0x14, 0x15, 0x16, 0x17, 0x18, 0x30, 0x31, 0x32].contains t.toNat

/-- Execute a request of a session. -/
def State.perform (s : State) (x : Session) (r : Req) : Reply :=
  if 1440 < r.body.length then .done s 1 []
  else match r.type.toNat with
    | 0x02 => s.doElevate x r
    | 0x03 => if r.body.isEmpty then .done (s.endSession x) 0 [] else .done s 1 []
    | 0x05 => s.doSetip x r
    | 0x10 => s.doMemrd x r
    | 0x11 => s.doMemwr x r
    | 0x12 => s.doLaunch x r
    | 0x13 => s.doLclose x r
    | 0x14 => s.doPush x r
    | 0x15 => s.doQcmd x r
    | 0x16 => s.doTlbinv x r
    | 0x17 => s.doHsring x r
    | 0x18 => s.doGate x r
    | 0x30 => s.doAttest r
    | _ => .done s 1 []

/-- The response is stored with the last 64, and the next number is expected. -/
def State.answered (s : State) (n : Nat) (r : Req) (status : Nat) (payload : List Byte) : State :=
  let g := r.answer n status payload
  let s := match s.session? n with
    | some x => s.setSession { x with
        expected := x.expected + 1
        held := x.held.filter fun h => h.1 != r.seq
        answered := ((r.seq, g.bytes) :: x.answered).take 64 }
    | none => s
  s.send g

/-- Execute the held requests of a session whose turn has come. -/
def State.serveHeld (n : Nat) : Nat → State → Result
  | 0, s => .next s
  | fuel + 1, s =>
    match s.session? n with
    | none => .next s
    | some x =>
      match x.held.find? fun h => h.1 = x.expected with
      | none => .next s
      | some (_, d) =>
        match parseReq d with
        | none => .next s
        | some r =>
          match s.perform x r with
          | .wait => .next s
          | .window => .refused .deviceWindow
          | .done s st p => serveHeld n fuel (s.answered n r st p)

/-- ACK: messages up to a number are acknowledged, and waiting ones follow (R396). -/
def State.doAck (s : State) (x : Session) (r : Req) : State :=
  if r.body.length != 4 then s
  else
    let k := BitVec.ofNat 32 (fieldAt r.body 0 4)
    let left := x.unacked.filter fun p => !((k - p.1).toNat < 2 ^ 31)
    let (go, stay) := x.waiting.splitAt (1024 - left.length)
    go.foldl (fun s m => match s.session? x.num with
      | some y => s.sendTo y m
      | none => s) (s.setSession { x with unacked := left, waiting := [] }) |> fun s =>
        match s.session? x.num with
        | some y => s.setSession { y with waiting := stay }
        | none => s

/-- OPEN: a new session with a challenge that is a free value (R394). -/
def State.doOpen (s : State) (r : Req) : State :=
  if !r.body.isEmpty || r.session != 0 then s.send (r.answer r.session 1 [])
  else if 16 ≤ s.sessions.length then s.send (r.answer 0 6 [])
  else
    let n := s.lastSession + 1
    let c : BitVec 256 := Config.freeWord s.fresh ++ Config.freeWord (s.fresh + 1) ++ Config.freeWord (s.fresh + 2) ++
      Config.freeWord (s.fresh + 3)
    let x : Session := { num := n, challenge := c, port := r.d.port, addr := r.d.src, sport := r.d.sport, lastAt := s.elapsed }
    { s with fresh := s.fresh + 4, lastSession := n, sessions := s.sessions ++ [x] }.send (r.answer n 0 (toBytes c 32))

/-- Both sites have booted, and answer. -/
def State.booted (s : State) : Bool := s.siteA.boot = .booted && s.siteB.boot = .booted

/-- A request of a session arrives. -/
def State.inSession (s : State) (x : Session) (r : Req) : Result :=
  let x := { x with port := r.d.port, addr := r.d.src, sport := r.d.sport, lastAt := s.elapsed }
  let s := s.setSession x
  if r.type = 0x04 then .next (s.doAck x r)
  else if (r.seq - x.expected).toNat < 64 then
    let s := if x.held.any fun h => h.1 = r.seq then s else s.setSession { x with held := x.held ++ [(r.seq, r.d)] }
    s.serveHeld x.num 64
  else match x.answered.find? fun a => a.1 = r.seq with
    | some a => .next (s.send ⟨r.d.port, r.d.src, r.d.sport, a.2⟩)
    | none => .next s

/-- A datagram for the module arrives whose message has a type that `ok` names. -/
def State.receive (s : State) (ok : BitVec 8 → Bool) (d : Datagram) : Result :=
  match parseReq d with
  | none => .next s
  | some r =>
    if !s.listens d || !ok r.type || !s.booted || r.type = 0x31 || r.type = 0x32 then .next s
    else if s.alarm then .next (if r.type = 0x04 then s else s.send (r.answer r.session 0xA1 []))
    else if r.type = 0x01 then .next (s.doOpen r)
    else match s.session? r.session with
      | none => .next (if r.type = 0x04 then s else s.send (r.answer r.session 4 []))
      | some x => s.inSession x r

def execHopen (d : Datagram) (s : State) : Result := s.receive (· = 0x01) d
def execElevate (d : Datagram) (s : State) : Result := s.receive (· = 0x02) d
def execHclose (d : Datagram) (s : State) : Result := s.receive (· = 0x03) d
def execAck (d : Datagram) (s : State) : Result := s.receive (· = 0x04) d
def execSetip (d : Datagram) (s : State) : Result := s.receive (· = 0x05) d
def execMemrd (d : Datagram) (s : State) : Result := s.receive (· = 0x10) d
def execMemwr (d : Datagram) (s : State) : Result := s.receive (· = 0x11) d
def execLaunch (d : Datagram) (s : State) : Result := s.receive (· = 0x12) d
def execLclose (d : Datagram) (s : State) : Result := s.receive (· = 0x13) d
def execPush (d : Datagram) (s : State) : Result := s.receive (· = 0x14) d
def execQcmd (d : Datagram) (s : State) : Result := s.receive (· = 0x15) d
def execTlbinv (d : Datagram) (s : State) : Result := s.receive (· = 0x16) d
def execHsring (d : Datagram) (s : State) : Result := s.receive (· = 0x17) d
def execGate (d : Datagram) (s : State) : Result := s.receive (· = 0x18) d
def execAttest (d : Datagram) (s : State) : Result := s.receive (· = 0x30) d
/-- A request of unknown TYPE receives status 0x0001 (R392). -/
def execRosoinuUnknownType (d : Datagram) (s : State) : Result := s.receive (fun t => !knownType t) d

/-- The request of a session that waits to be executed, as the datagram's arrival. -/
def requestMove (d : Datagram) : Option Instr :=
  (parseReq d).bind fun r => match r.type.toNat with
    | 0x13 => some (.lclose d)
    | 0x16 => some (.tlbinv d)
    | _ => none

/-! ### The module's messages (R396), and idle sessions (R394) -/

/-- Every unacknowledged message is sent again, in order. -/
def execRosoinuResend (s : State) : Result :=
  .next { s with outbox := s.outbox ++ s.sessions.flatMap fun x => x.unacked.map fun p => x.gram p.1 p.2 }

/-- A session that has sent no request for 60 s is closed. -/
def execSessionIdleTimeout (session : Nat) (s : State) : Result :=
  match s.session? session with
  | none => .next s
  | some x => .next (if 60000000000 ≤ s.elapsed - x.lastAt then s.endSession x else s)

end Sys2Proof.Machine
end

