-- ==== Sys2Proof/Machine/Boot.lean ====
section
/-!
DEFINITION. Power-on and boot of the two sites (18 R411, R412), and the messages of boot (17 R397).
-/
namespace Sys2Proof.Machine

/-! ### Messages of boot (R397) -/

/-- ff02::1. -/
def allNodes : BitVec 128 := 0xFF020000000000000000000000000001

/-- The message that a site repeats until it is answered. -/
def State.bootRequest (s : State) (site : Nat) : State :=
  let t := s.site site
  let msg (type : BitVec 8) (p : List Byte) : State :=
    s.send ⟨site, allNodes, rosoinuPort, rosoinu type 0 0 0 t.bootTag (toBytes Config.serial 8 ++ p)⟩
  match t.boot with
  | .waitingConfig =>
    msg 0x31 (toBytes (BitVec.ofNat 32 site) 4 ++ toBytes (Config.imageVersion t.image) 4)
  | .recovering got _ => msg 0x32 (toBytes (BitVec.ofNat 32 got.length) 4)
  | _ => s

/-- The first of such messages: its TAG is the module's choice. -/
def State.askBoot (s : State) (site : Nat) : State :=
  { s with fresh := s.fresh + 1 }.updSite site (fun t => { t with bootTag := Config.freeWord s.fresh }) |>.bootRequest site

/-! ### The boot ROM (R411) -/

/-- Every check of an image passes. -/
def Site.imageOk (t : Site) (site : Nat) (img : List Byte) : Bool :=
  pssVerify (Config.imageKey img) (Config.imageBody img) (Config.imageSig img) &&
    sha512 (Config.imageKey img) = Config.keyDigest site && t.fusedMin.toNat ≤ (Config.imageVersion img).toNat

/-- A site that runs an image. -/
def Site.runs (t : Site) : Bool := t.boot = .waitingConfig || t.boot = .booted

/-- A site that stops in boot says so with a Rosoinu error (R411): a boot-time message to all nodes whose TYPE and STATUS no
rule gives. -/
def State.bootError (s : State) (site : Nat) : State :=
  let w := Config.freeWord s.fresh
  { s with fresh := s.fresh + 1 }.send ⟨site, allNodes, rosoinuPort, rosoinu (w.extractLsb' 0 8) 0 0 (w.extractLsb' 8 16) 0 []⟩

/-- An image runs on a site: the identity key is derived, the display's link trained, and the configuration record asked
for; two sites with images of different versions stop with an error each. -/
def State.runImage (s : State) (site : Nat) (img : List Byte) : State :=
  let s := s.updSite site fun t =>
    { t with boot := .waitingConfig, image := img, keys := true, dpTrains := if t.dpPresent then t.dpTrains + 1 else t.dpTrains }
  let o := s.site (1 - site)
  if o.runs && Config.imageVersion o.image != Config.imageVersion img then
    ({ s with siteA := { s.siteA with boot := .stopped }, siteB := { s.siteB with boot := .stopped } }.bootError 0).bootError 1
  else s.askBoot site

/-- The ROM reads the flash: the image runs, or site A asks for a replacement and site B waits. -/
def State.romBoot (s : State) (site : Nat) : State :=
  if (s.site site).imageOk site s.flash then s.runImage site s.flash
  else if site = 0 then (s.updSite 0 fun t => { t with boot := .recovering [] none }).askBoot 0
  else s.updSite 1 fun t => { t with boot := .rereading }

/-- What a power cycle leaves of a site: its fuses, and its display. -/
def Site.cycled (t : Site) : Site := { boot := .off, keys := false, fusedMin := t.fusedMin, dpPresent := t.dpPresent }

/-- A power cycle of the module: the flash and the fuses remain. -/
def State.powerCycle (s : State) : State :=
  { State.reset with
    siteA := s.siteA.cycled, siteB := s.siteB.cycled, flash := s.flash, outbox := s.outbox, agenda := s.agenda, fresh := s.fresh }

/-- A site's ROM starts; for a site that is on, after a power cycle of the module. -/
def execPowerOn (site : Nat) (s : State) : Result :=
  let s := if (s.site site).boot = .off then s else s.powerCycle
  .next (s.romBoot (site % 2))

def execFlashReread (s : State) : Result := .next (if s.siteB.boot = .rereading then s.romBoot 1 else s)

def execBootRequestRepeat (site : Nat) (s : State) : Result := .next (s.bootRequest (site % 2))

/-! ### The answers (R397) -/

/-- A datagram that answers a site's request of a type. -/
def Site.answerTo (t : Site) (type : BitVec 8) (d : Datagram) : Option (List Byte) :=
  (parseReq d).bind fun r =>
    if r.type = type && r.session = 0 && r.status = 0 && r.tag = t.bootTag then some r.body else none

/-- Site A's ROM has the whole image, or the next chunk of it. -/
def State.recovered (s : State) (got : List Byte) (total : Nat) : State :=
  if got.length < total then (s.updSite 0 fun t => { t with boot := .recovering got (some total) }).askBoot 0
  else if s.siteA.imageOk 0 got then { s with flash := got }.runImage 0 got
  else (s.updSite 0 fun t => { t with boot := .recovering [] none }).askBoot 0

/-- The answer to RECOVER: the chunk at the offset wanted. -/
def execRecover (d : Datagram) (s : State) : Result :=
  match s.siteA.boot, s.siteA.answerTo 0x32 d with
  | .recovering got len, some b =>
    let total := fieldAt b 4 4
    let new := b.drop 8
    if d.port != 0 || !s.listens d || b.length < 8 || 1432 < new.length || fieldAt b 0 4 != got.length || (len.any fun n => n != total) ||
        total < got.length + new.length then .next s
    else .next (s.recovered (got ++ new) total)
  | _, _ => .next s

/-- A configuration record that passes the checks of R412 on a site. -/
def Site.configOk (t : Site) (b : List Byte) : Bool :=
  let r := BitVec.ofNat 512 (ofBytes (b.take 64))
  let serial := r.extractLsb' 64 64
  b.length = 576 && pssVerify (Config.imageKey t.image) (b.take 64) (b.drop 64) &&
    r.extractLsb' 48 16 = 0 && r.extractLsb' 26 6 = 0 && r.extractLsb' 10 6 = 0 && r.extractLsb' 0 8 = 1 &&
    (serial = 0 || serial = Config.serial)

/-- A site waits for a configuration record, and the datagram answers its request. -/
def Site.asked (t : Site) (d : Datagram) : Bool := t.boot = .waitingConfig && (t.answerTo 0x31 d).isSome

/-- The site that an answer to BOOTREQ is for: that of the port, or the other one, to which its controller forwards it (R391). -/
def State.askedSite (s : State) (d : Datagram) : Option Nat :=
  if !s.listens d || !(s.site d.port).runs then none
  else if (s.site d.port).asked d then some d.port
  else if (s.site (1 - d.port)).asked d then some (1 - d.port)
  else none

/-- The answer to BOOTREQ: the record is taken, its minimum version fused, SNAP_CTL.USER set, and the site has booted. -/
def execBootreq (d : Datagram) (s : State) : Result :=
  match s.askedSite d with
  | none => .next s
  | some site =>
    let b := ((s.site site).answerTo 0x31 d).getD []
    if !(s.site site).configOk b then .next s
    else
      let r := BitVec.ofNat 512 (ofBytes (b.take 64))
      let m := cfgMinVer r
      let s := s.updSite site fun t =>
        { t with boot := .booted, config := b, fusedMin := if t.fusedMin.toNat < m.toNat then m else t.fusedMin }
      .next { s with
        snapCtl := s.snapCtl.extractLsb' 2 30 ++ BitVec.ofBool (cfgSnapUser r) ++ s.snapCtl.extractLsb' 0 1 }

end Sys2Proof.Machine
end

