-- ==== Sys2Proof/Machine/Exact.lean ====
section
/-!
DEFINITION. Exact rational numbers and the extended line, for the engines that compare exact values (16 R363-R376).
-/
namespace Sys2Proof.Machine

/-- num / den, den positive. -/
structure Q where
  num : Int
  den : Nat
  deriving DecidableEq, Repr

def Q.ofInt (n : Int) : Q := ⟨n, 1⟩
def Q.zero : Q := ⟨0, 1⟩
def Q.add (a b : Q) : Q := ⟨a.num * b.den + b.num * a.den, a.den * b.den⟩
def Q.neg (a : Q) : Q := ⟨-a.num, a.den⟩
def Q.sub (a b : Q) : Q := a.add b.neg
def Q.mul (a b : Q) : Q := ⟨a.num * b.num, a.den * b.den⟩
/-- Division by a nonzero number. -/
def Q.div (a b : Q) : Q := ⟨if b.num < 0 then -(a.num * b.den) else a.num * b.den, a.den * b.num.natAbs⟩
def Q.le (a b : Q) : Bool := a.num * b.den ≤ b.num * a.den
def Q.lt (a b : Q) : Bool := a.num * b.den < b.num * a.den
def Q.isZero (a : Q) : Bool := a.num = 0
def Q.floor (a : Q) : Int := a.num / (a.den : Int)
def Q.ceil (a : Q) : Int := -((-a.num) / (a.den : Int))
/-- m x 2^e. -/
def Q.scale2 (m : Int) (e : Int) : Q := if 0 ≤ e then ⟨m * 2 ^ e.toNat, 1⟩ else ⟨m, 2 ^ (-e).toNat⟩

/-- round(x, rm, fmt) of an exact number; zero is +0. -/
def Q.round (rm : Mode) (f : Fmt) (x : Q) : Nat := if x.num = 0 then 0 else (f.roundTo rm (x.num < 0) x.num.natAbs x.den).bits

/-- round(x, rm, fmt), with the sign of a zero (R75). -/
def Q.roundZ (neg : Bool) (rm : Mode) (f : Fmt) (x : Q) : Nat := if x.num = 0 then f.signBit neg else x.round rm f

/-- An exact number or an infinity. -/
inductive ER where
  | ninf
  | fin (q : Q)
  | pinf
  deriving DecidableEq, Repr

def ER.le : ER → ER → Bool
  | .ninf, _ => true
  | _, .pinf => true
  | .fin a, .fin b => a.le b
  | _, _ => false
def ER.lt (a b : ER) : Bool := !b.le a
def ER.max (a b : ER) : ER := if a.le b then b else a
def ER.min (a b : ER) : ER := if a.le b then a else b

/-- Difference; none for the difference of an infinity with itself. -/
def ER.sub : ER → ER → Option ER
  | .fin a, .fin b => some (.fin (a.sub b))
  | .fin _, .pinf => some .ninf
  | .fin _, .ninf => some .pinf
  | .pinf, .pinf | .ninf, .ninf => none
  | .pinf, _ => some .pinf
  | .ninf, _ => some .ninf
/-- Square. -/
def ER.sq : ER → ER
  | .fin a => .fin (a.mul a)
  | _ => .pinf
/-- Sum of numbers that are not negative. -/
def ER.addPos : ER → ER → ER
  | .fin a, .fin b => .fin (a.add b)
  | _, _ => .pinf

/-- The value of a pattern: none for NaN. -/
def Fmt.er (f : Fmt) (x : Nat) : Option ER :=
  match f.unpack x with
  | .nan .. => none
  | .inf n => some (if n then .ninf else .pinf)
  | .fin n m e => some (.fin (Q.scale2 (if n then -(m : Int) else m) e))

/-- A finite value. -/
def Fmt.fin (f : Fmt) (x : Nat) : Option Q :=
  match f.er x with
  | some (.fin q) => some q
  | _ => none

/-- round(x, rm, fmt) on the extended line. -/
def ER.round (rm : Mode) (f : Fmt) : ER → Nat
  | .ninf => f.signBit true + f.infBits
  | .fin q => q.round rm f
  | .pinf => f.infBits

/-- The f32 value of an exact number: rounded, as an extended number. -/
def Q.f32 (rm : Mode) (x : Q) : ER := (fF32.er (x.round rm fF32)).getD .pinf

/-- Three exact components. -/
structure V3 where
  x : Q
  y : Q
  z : Q
  deriving DecidableEq, Repr

def V3.get (v : V3) (a : Nat) : Q := if a = 0 then v.x else if a = 1 then v.y else v.z
def V3.sub (a b : V3) : V3 := ⟨a.x.sub b.x, a.y.sub b.y, a.z.sub b.z⟩
def V3.dot (a b : V3) : Q := ((a.x.mul b.x).add (a.y.mul b.y)).add (a.z.mul b.z)
def V3.cross (a b : V3) : V3 :=
  ⟨(a.y.mul b.z).sub (a.z.mul b.y), (a.z.mul b.x).sub (a.x.mul b.z), (a.x.mul b.y).sub (a.y.mul b.x)⟩

/-- Three consecutive f32 words, when all are finite. -/
def v3Of (ws : List Word) (k : Nat) : Option V3 :=
  match fF32.fin (ws.getD k 0).toNat, fF32.fin (ws.getD (k + 1) 0).toNat, fF32.fin (ws.getD (k + 2) 0).toNat with
  | some x, some y, some z => some ⟨x, y, z⟩
  | _, _, _ => none

end Sys2Proof.Machine
end

