-- ==== Sys2Proof/Machine/Haze.lean ====
section
/-!
DEFINITION. The Haze unit (07 R214-R216, 16 R373-R376): grids, the exposure table and marches.
-/
namespace Sys2Proof.Machine

/-! ### Grids (R373) -/

abbrev Grid := BitVec 512

def Grid.h (g : Grid) : Word := g.extractLsb' 352 32
/-- World position of the low corner on axis a. -/
def Grid.corner (g : Grid) (a : Nat) : Word := g.extractLsb' (256 + 32 * a) 32
def Grid.dbricks (g : Grid) : Nat := (g.extractLsb' 192 64).toNat
def Grid.dens (g : Grid) : Nat := (g.extractLsb' 128 64).toNat
def Grid.maj (g : Grid) : Nat := (g.extractLsb' 64 64).toNat
def Grid.dkind (g : Grid) : Nat := (g.extractLsb' 24 2).toNat
/-- Bricks along axis a. -/
def Grid.bricks (g : Grid) (a : Nat) : Nat := (g.extractLsb' (8 * a) 8).toNat + 1

def Grid.good (g : Grid) : Bool :=
  g.extractLsb' 384 128 = 0 && g.extractLsb' 26 38 = 0 && g.dkind != 3 && ((List.range 3).all fun a => g.bricks a ≤ 128) &&
    (match fF32.fin g.h.toNat with
      | some h => 0 < h.num
      | none => false)

/-! ### The exposure table (R374) -/

/-- E_i, rounded from -ln(1 - (i + 0.5)/4096). -/
def exposure (i : Nat) : Q :=
  let x := exactLog2 (8191 - 2 * i) (-13)
  (fF32.fin ((⟨(x.n : Int) * fxLn2, x.d * fxOne⟩ : Q).round .rne fF32)).getD Q.zero

/-- A finite number rounded to f32. -/
def Q.round32 (x : Q) : Q := (fF32.fin (x.round .rne fF32)).getD Q.zero

/-- The optical depth of a 24-bit draw. -/
def depthOf (u : Nat) : Q :=
  let i := u / 4096
  if i = 4095 then exposure 4095
  else
    let d := ((exposure (i + 1)).sub (exposure i)).round32
    ((d.mul ⟨(u % 4096 : Nat), 4096⟩).add (exposure i)).round32

/-! ### A march (R375, R376) -/

/-- A march under way. -/
structure March where
  s     : State
  g     : Agent
  no    : Bool
  grid  : Grid
  corner : V3
  h     : Q
  o     : V3
  d     : V3
  /-- The patterns of the origin and the direction. -/
  words : List Word
  mode  : Nat
  limit : Nat
  seed  : DWord
  clane : Nat
  tindex : DWord
  start : Word
  t1    : Word
  t     : Word
  brick : List Nat
  n     : Nat := 0
  trans : Word := 0x3F800000
  /-- The brick's majorant, as its f16 pattern, once it has been read. -/
  maj   : Option Nat := none
  deriving DecidableEq, Repr

/-- How a march stops. -/
inductive MarchEnd where
  | record (ws : List Word)
  | page (va : Nat) (detail : BitVec 16)
  | wait
  | window
  deriving DecidableEq, Repr

/-- The value of a distance along the ray: an f32 pattern that is no NaN. -/
def distOf (t : Word) : ER := (fF32.er t.toNat).getD .pinf
def distLt (a b : Word) : Bool := (distOf a).lt (distOf b)
/-- The larger of two distances, and the smaller; -0 lies below +0. -/
def distMax (a b : Word) : Word := BitVec.ofNat 32 (fF32.minmaxNum true a.toNat b.toNat).bits
def distMin (a b : Word) : Word := BitVec.ofNat 32 (fF32.minmaxNum false a.toNat b.toNat).bits

/-- The crossing of brick plane k on axis a: a zero has the sign of a quotient of +0 (R75). -/
def tau (corner : V3) (h : Q) (o d : V3) (a : Nat) (k : Nat) : Word :=
  BitVec.ofNat 32 (((((corner.get a).add (h.mul (Q.ofInt (8 * k)))).sub (o.get a)).div (d.get a)).roundZ ((d.get a).num < 0) .rne fF32)

/-- o + t d on an axis; the ray stays where it is on an axis on which it does not move. -/
def pointAt (o d : V3) (t : ER) (a : Nat) : ER :=
  if (d.get a).isZero then .fin (o.get a)
  else match t with
    | .fin q => .fin ((q.mul (d.get a)).add (o.get a))
    | .pinf => if (d.get a).num < 0 then .ninf else .pinf
    | .ninf => if (d.get a).num < 0 then .pinf else .ninf

/-- The cell at t on an axis, clamped to the current brick. -/
def March.cell (m : March) (t : Word) (a : Nat) : Nat :=
  let lo := 8 * m.brick.getD a 0
  match pointAt m.o m.d (distOf t) a with
  | .ninf => lo
  | .pinf => lo + 7
  | .fin x => (max (lo : Int) (min ((lo : Int) + 7) ((x.sub (m.corner.get a)).div m.h).floor)).toNat

/-- The event record (R215, R376), its position with one rounding under R75 and R78; `inGrid` for a march that has a brick. -/
def March.event (m : March) (ty : Nat) (t : Word) (w5 : Word) (inGrid : Bool) : List Word :=
  let word (k : Nat) : Nat := (m.words.getD k 0).toNat
  let pos (a : Nat) : Word := BitVec.ofNat 32 (fF32.fma .rne t.toNat (word (3 + a)) (word a)).bits
  let cell : Word := if inGrid then
      0#2 ++ BitVec.ofNat 10 (m.cell t 2) ++ BitVec.ofNat 10 (m.cell t 1) ++ BitVec.ofNat 10 (m.cell t 0)
    else 0
  let maj : Word := if !inGrid then 0 else match m.maj with
    | some x => BitVec.ofNat 32 (cvtFloat fF16 fF32 .rne false x).bits
    | none => (Config.freeWord m.s.fresh).setWidth 32
  [BitVec.ofNat 24 m.n ++ BitVec.ofNat 8 ty, pos 0, pos 1, pos 2, t, w5, cell, maj]

/-- end(t, b) of R375. -/
def March.finish (m : March) (t : Word) (inGrid : Bool) : List Word :=
  if m.mode = 1 then m.event 3 t m.trans inGrid else m.event 2 t 0x3F800000 inGrid

/-- One value of n bytes from the grid's arrays, or the end of the march. -/
def March.read (m : March) (va n : Nat) : March × Except MarchEnd Nat :=
  match m.s.portRead m.g m.no va n with
  | (s, .ok bs) => ({ m with s := s }, .ok (ofBytes bs))
  | (s, .page va d) => ({ m with s := s }, .error (.page va d))
  | (s, .refused) => ({ m with s := s }, .error (.record (m.event 5 m.t 3 true)))
  | (s, .bad) => ({ m with s := s }, .error (.record (m.event 5 m.t 1 true)))
  | (_, .window) => (m, .error .window)
  | (_, .wait) => (m, .error .wait)

/-- A density or majorant: NaN, infinite or negative values are errors. -/
def March.valid (m : March) (x : Nat) : Except MarchEnd Q :=
  match fF16.fin x with
  | some q => if q.num < 0 then .error (.record (m.event 5 m.t 2 true)) else .ok q
  | none => .error (.record (m.event 5 m.t 2 true))

/-- The density of the cell at the march's t, as its f16 pattern. -/
def March.density (m : March) : March × Except MarchEnd Nat :=
  let c (a : Nat) : Nat := m.cell m.t a
  let b (a : Nat) : Nat := m.grid.bricks a
  let i (a : Nat) : Nat := m.brick.getD a 0
  if m.grid.dkind = 1 then m.read (m.grid.dens + 2 * (c 0 + 8 * b 0 * (c 1 + 8 * b 1 * c 2))) 2
  else match m.read (m.grid.dens + 4 * (i 0 + b 0 * (i 1 + b 1 * i 2))) 4 with
    | (m, .ok slot) =>
      if slot = 0xFFFFFFFF then (m, .ok 0)
      else
        let l (a : Nat) : Nat := c a - 8 * i a
        m.read (m.grid.dbricks + 1024 * slot + 2 * (l 0 + 8 * l 1 + 64 * l 2)) 2
    | r => r

/-- The next 24-bit draw of the lane's stream 1 (R91). -/
def March.draw (m : March) : March × Nat :=
  let x := (philox m.seed (drawCtr (m.start + BitVec.ofNat 32 m.n) 1 m.clane m.tindex)).c0
  ({ m with n := m.n + 1 }, x.toNat / 256)

/-- The transmittance after a collision: round(exact(T (mb - mu) / mb)), under R75 and R78 for a zero, an infinity or a NaN. -/
def nextTrans (t : Word) (mb mu : Q) : Word :=
  let x := mb.sub mu
  let neg := t.getLsbD 31
  BitVec.ofNat 32 (match fF32.unpack t.toNat with
    | .nan .. => fF32.defaultNan
    | .inf _ => if x.num = 0 then fF32.defaultNan else fF32.signBit (neg != decide (x.num < 0)) + fF32.infBits
    | .fin .. => (((fF32.fin t.toNat).getD Q.zero).mul x |>.div mb).roundZ neg .rne fF32)

/-- A LIMIT record. -/
def March.limited (m : March) : List Word := m.event 7 m.t (if m.mode = 1 then m.trans else 0) true

/-- What one step of a march answers: it goes on within the brick, leaves the brick, or ends. -/
inductive MarchStep where
  | stay (m : March)
  | leave (m : March)
  | stop (m : March) (e : MarchEnd)
  deriving DecidableEq, Repr

/-- A collision at the march's t: the density's record, or the next draw in the brick. -/
def March.collide (m : March) (mb : Q) : MarchStep :=
  match m.density with
  | (m, .error e) => .stop m e
  | (m, .ok x) =>
    match m.valid x with
    | .error e => .stop m e
    | .ok mu =>
      if m.mode = 0 then
        if m.n = m.limit then .stop m (.record m.limited)
        else
          let (m, u) := m.draw
          if ((Q.ofInt u).mul mb).lt (mu.mul (Q.ofInt (2 ^ 24))) then
            .stop m (.record (m.event 1 m.t (BitVec.ofNat 32 (cvtFloat fF16 fF32 .rne false x).bits) true))
          else .stay m
      else
        let m := { m with trans := nextTrans m.trans mb mu }
        if m.trans &&& 0x7FFFFFFF = 0 then .stop m (.record (m.event 3 m.t m.trans true)) else .stay m

/-- One turn of the inner loop of R375, in a brick of majorant mb whose end is tb. -/
def March.inner (m : March) (mb : Q) (tb : Word) : MarchStep :=
  if mb.num = 0 || !distLt m.t tb then .leave m
  else if m.n = m.limit then .stop m (.record m.limited)
  else
    let (m', u) := m.draw
    let tc := BitVec.ofNat 32 (match distOf m.t, ((depthOf u).div mb).f32 .rne with
      | .fin t, .fin x => (t.add x).round .rne fF32
      | _, _ => fF32.infBits)
    if !distLt tc tb then .leave m'
    else
      let m' := { m' with t := tc }
      if m.mode = 2 then .stop m' (.record (m'.event 4 tc 0 true)) else m'.collide mb

/-- The next crossing of an axis. -/
def March.crossing (m : March) (a : Nat) : Word :=
  if (m.d.get a).isZero then 0x7F800000
  else tau m.corner m.h m.o m.d a (m.brick.getD a 0 + (if (m.d.get a).num < 0 then 0 else 1))

/-- The brick's majorant. -/
def March.readMaj (m : March) : March × Except MarchEnd Q :=
  let b (a : Nat) : Nat := m.grid.bricks a
  let i (a : Nat) : Nat := m.brick.getD a 0
  match m.read (m.grid.maj + 2 * (i 0 + b 0 * (i 1 + b 1 * i 2))) 2 with
  | (m, .error e) => (m, .error e)
  | (m, .ok x) =>
    let m := { m with maj := some x }
    (m, m.valid x)

/-- The march leaves its brick at tb: its end, or the next brick. -/
def March.nextBrick (m : March) (tb : Word) : March ⊕ List Word :=
  if !distLt tb m.t1 then .inr (m.finish m.t1 true)
  else
    .inl { m with
      t := tb, maj := none
      brick := (List.range 3).map fun a =>
        let i := m.brick.getD a 0
        if !(m.d.get a).isZero && distOf (m.crossing a) = distOf tb then (if (m.d.get a).num < 0 then i - 1 else i + 1) else i }

/-- The march to its end: turns within the brick whose majorant and end are known, else the next brick. -/
def March.run : Nat → Option (Q × Word) → March → March × MarchEnd
  | 0, _, m => (m, .wait)
  | k + 1, some (mb, tb), m =>
    match m.inner mb tb with
    | .stop m e => (m, e)
    | .stay m => March.run k (some (mb, tb)) m
    | .leave m =>
      match m.nextBrick tb with
      | .inr ws => (m, .record ws)
      | .inl m => March.run k none m
  | k + 1, none, m =>
    match m.readMaj with
    | (m, .error e) => (m, e)
    | (m, .ok mb) =>
      let tb := distMin (distMin (distMin m.t1 (m.crossing 0)) (m.crossing 1)) (m.crossing 2)
      March.run k (some (mb, tb)) m

def hazeBad : List Word := [6, 0, 0, 0, 0, 0, 0, 0]

/-- The axes on which the ray moves. -/
def movingAxes (d : V3) : List Nat := (List.range 3).filter fun a => !(d.get a).isZero

/-- A ray that does not move on an axis and lies outside the grid there misses it. -/
def March.misses (m : March) : Bool :=
  (List.range 3).any fun a => (m.d.get a).isZero &&
    !((m.corner.get a).le (m.o.get a) &&
      (m.o.get a).lt ((m.corner.get a).add (m.h.mul (Q.ofInt (8 * m.grid.bricks a)))))

/-- The brick at t0 on an axis. -/
def March.firstBrick (m : March) (t0 : Word) (a : Nat) : Nat :=
  match pointAt m.o m.d (distOf t0) a with
  | .fin x =>
    let q := (x.sub (m.corner.get a)).div (m.h.mul (Q.ofInt 8))
    let k := if (m.d.get a).num < 0 then q.ceil - 1 else q.floor
    (max 0 (min ((m.grid.bricks a : Int) - 1) k)).toNat
  | _ => 0

/-- The march from its record. -/
def March.begin (m : March) (tmin tmax : Word) : March × MarchEnd :=
  let ax := movingAxes m.d
  let ends (a : Nat) : Word × Word := (tau m.corner m.h m.o m.d a 0, tau m.corner m.h m.o m.d a (m.grid.bricks a))
  let t0 := ax.foldl (fun t a => distMax t (distMin (ends a).1 (ends a).2)) tmin
  let t1 := ax.foldl (fun t a => distMin t (distMax (ends a).1 (ends a).2)) tmax
  if m.misses || !distLt t0 t1 then (m, .record (m.finish tmax false))
  else
    March.run (2 ^ 64) none { m with t := t0, t1 := t1, brick := (List.range 3).map fun a => m.firstBrick t0 a }

/-- A march push.  A ray misses a grid whose corner is not finite: no distance lies between its crossings. -/
def marchPush (q : Push) (w : Wave) (g : Agent) (s : State) : PushEnd :=
  let grid : Grid := q.desc
  let word (k : Nat) : Word := q.words.getD k 0
  let w8 := word 8
  let mode := w8.toNat % 4
  match v3Of q.words 0, v3Of q.words 4, fF32.er (word 3).toNat, fF32.er (word 7).toNat with
  | some o, some d, some tmin, some _ =>
    let zero := d.x.isZero && d.y.isZero && d.z.isZero
    if !grid.good || zero || tmin.lt (.fin Q.zero) || mode = 3 || w8.extractLsb' 2 14 != 0 || (mode < 2 && grid.dkind = 0) then
      .done s [hazeBad]
    else
      let corner := v3Of [grid.corner 0, grid.corner 1, grid.corner 2] 0
      let limit := (w8.extractLsb' 16 16).toNat
      let m : March :=
        { s := s, g := g, no := q.refused, grid := grid, corner := corner.getD o, h := (fF32.fin grid.h.toNat).getD Q.zero
          o := o, d := d, words := [word 0, word 1, word 2, word 4, word 5, word 6], mode := mode
          limit := if limit = 0 then 2 ^ 24 - 1 else limit, seed := ((s.launch? g.launch).map (·.seed)).getD 0
          clane := crewLane w q.lane, tindex := g.tindex, start := (w.lane q.lane).draws1
          t1 := word 7, t := word 3, brick := [0, 0, 0] }
      match if corner.isNone then (m, .record (m.finish (word 7) false)) else m.begin (word 3) (word 7) with
      | (m, .record ws) => .done { m.s with fresh := m.s.fresh + 1 } [ws]
      | (m, .page va dt) => .page m.s va dt
      | (_, .wait) => .wait
      | (_, .window) => .window
  | _, _, _, _ => .done s [hazeBad]

def execHazeMarch (wave pair lane : Nat) (s : State) : Result := s.runPush wave pair lane 5 marchPush

end Sys2Proof.Machine
end

