-- ==== Sys2Proof/Machine/Schedule.lean ====
section
/-!
DEFINITION. The schedulers (14 R329-R339): scans, placement, operating classes, gangs, pre-emption and the crew watchdog;
the windows of the predictor (09 R255, R256) and of vertical exclusion (01 R16).
-/
namespace Sys2Proof.Machine

/-- The first element of a list with the least value. -/
def argmin {α : Type} (f : α → Nat) (xs : List α) : Option α :=
  xs.foldl (fun m x => match m with
    | none => some x
    | some b => if f x < f b then some x else m) none

/-- One element of a list, where no rule says which. -/
def anyOf {α : Type} (fresh : Nat) (xs : List α) : Option α := xs[(Config.freeWord fresh).toNat % xs.length]?

/-! ### Placement (R330, R333) -/

/-- The class that ST_POOL gives cluster c of a site. -/
def Site.poolClass (t : Site) (c : Nat) : BitVec 2 := t.pool.extractLsb' (2 * c) 2

/-- A cluster takes crews of a class: it acts, and no other is assigned. -/
def State.takes (s : State) (cls : BitVec 2) (k : Nat) : Bool :=
  (s.cluster k).cls = cls && (s.site (k / 12)).poolClass (k % 12) = cls

/-- The list E of a record. -/
def State.eligible (s : State) (r : BitVec 512) : List Nat :=
  match s.launch? (recLaunch r).toNat with
  | none => []
  | some l => (List.range 192).filter fun k => l.onSite (k / 96) && s.takes (recClass r) (k / 8) && !(s.core k).retired

/-- The gang that a record names. -/
def gangKey (r : BitVec 512) : Nat × Nat := ((recLaunch r).toNat, (recGangId r).toNat)

/-- A core accepts the record, and its cluster is reserved for no other gang (R335). -/
def State.accepts (s : State) (r : BitVec 512) (k : Nat) : Bool :=
  s.fits k r && (match (s.cluster (k / 8)).reserved with
    | some g => recGang r && g = gangKey r
    | none => true)

/-- The draw of R330 over n places. -/
def detPick (seed : DWord) (ctr : Nat → Ctr) (n : Nat) (fits : Nat → Bool) : Option Nat :=
  if n = 0 then none
  else
    let x0 (j : Nat) : Nat := (philox seed (ctr j)).c0.toNat % n
    match (List.range 8).find? fun j => fits (x0 j) with
    | some j => some (x0 j)
    | none => ((List.range n).map fun i => (x0 0 + i) % n).find? fits

def State.seedOf (s : State) (r : BitVec 512) : DWord :=
  match s.launch? (recLaunch r).toNat with
  | some l => l.seed
  | none => 0

/-- The core for a record without a gang. -/
def State.chooseCore (s : State) (r : BitVec 512) : Option Nat :=
  let e := s.eligible r
  if recDet r then
    let ti := recTindex r
    (detPick (s.seedOf r) (fun j => ⟨BitVec.ofNat 32 j, 0xFFFF0000, ti.extractLsb' 0 32, ti.extractLsb' 32 32⟩) e.length
      fun i => s.accepts r (e.getD i 0)).map fun i => e.getD i 0
  else argmin (fun k => (s.coreWaves k).length) (e.filter (s.accepts r))

/-! ### Gangs (R334, R335) -/

def State.gang? (s : State) (k : Nat × Nat) : Option Gang := s.gangs.find? fun g => g.launch = k.1 && g.gid = k.2
def State.setGang (s : State) (g : Gang) : State :=
  if (s.gang? (g.launch, g.gid)).isSome then
    { s with gangs := s.gangs.map fun x => if x.launch = g.launch && x.gid = g.gid then g else x }
  else { s with gangs := s.gangs ++ [g] }

/-- A core holds a member of the gang, or one is on its way there. -/
def State.holdsMember (s : State) (key : Nat × Nat) (k : Nat) : Bool :=
  ((s.coreCrews k).any fun c => recGang c.record && gangKey c.record = key) ||
    (s.siteA.placing ++ s.siteB.placing).any fun p => p.core = k && recGang p.item.record && gangKey p.item.record = key

/-- The cores of a cluster that may take a member. -/
def State.memberCores (s : State) (r : BitVec 512) (c : Nat) : List Nat :=
  if s.takes (recClass r) c then
    ((List.range 8).map fun i => 8 * c + i).filter fun k => !(s.core k).retired && !s.holdsMember (gangKey r) k
  else []

/-- The lowest-numbered core of a cluster that takes a member. -/
def State.memberCore (s : State) (r : BitVec 512) (c : Nat) : Option Nat := (s.memberCores r c).find? (s.accepts r)

/-- The cluster of a gang whose first member is the record. -/
def State.gangCluster (s : State) (r : BitVec 512) : Option Nat :=
  match s.launch? (recLaunch r).toNat with
  | none => none
  | some l =>
    let e := (List.range 24).filter fun c => l.onSite (c / 12) && s.takes (recClass r) c
    let ok (c : Nat) : Bool := (s.memberCore r c).isSome
    if recDet r then
      (detPick l.seed (fun j => ⟨BitVec.ofNat 32 j, 0xFFFE0000, (recGangId r).setWidth 32, (recLaunch r).setWidth 32⟩)
        e.length fun i => ok (e.getD i 0)).map fun i => e.getD i 0
    else
      argmin (fun c => 8 - ((List.range 8).countP fun i => !(s.core (8 * c + i)).retired && (s.coreCrews (8 * c + i)).isEmpty))
        (e.filter ok)

/-- The core for a record, if one is found. -/
def State.findCore (s : State) (r : BitVec 512) : Option Nat :=
  if recGang r then
    match s.gang? (gangKey r) with
    | some g => if g.failed then none else s.memberCore r g.cluster
    | none => (s.gangCluster r).bind (s.memberCore r)
  else s.chooseCore r

def State.unreserve (s : State) (key : Nat × Nat) : State :=
  { s with clusters := s.clusters.map fun c => if c.reserved = some key then { c with reserved := none } else c }

/-- The entry of the gang of a record for a core of its cluster, which the first member popped fixes (R334). -/
def State.gangOf (s : State) (core : Nat) (r : BitVec 512) : Gang :=
  let key := gangKey r
  (s.gang? key).getD { launch := key.1, gid := key.2, size := (recGsize r).toNat + 1, cluster := core / 8 }

/-- A member is popped for a core: its gang's cluster is fixed. -/
def State.fixGang (s : State) (core : Nat) (r : BitVec 512) : State :=
  if recGang r then s.setGang (s.gangOf core r) else s

/-- A member has started: the timers begin, and with the last member the reservation ends. -/
def State.memberStarted (s : State) (site core : Nat) (r : BitVec 512) : State :=
  if recGang r then
    let key := gangKey r
    let g := s.gangOf core r
    let t := s.site site
    let g := { g with started := g.started ++ [(recGrank r).toNat], since := s.elapsed, waitNs := t.gangWaitNs
                      limitNs := t.gangLimitNs, waited := false }
    let s := s.setGang g
    if (s.gangRanks g).length = g.size then s.unreserve key else s
  else s

/-! ### The phase of a task (R340) -/

/-- What the read of the DS bit comes to. -/
inductive PhaseAt where
  | ok (s : State) (phase : Option Nat)
  | wait (s : State)
  | fail (s : State)
  | window
  deriving DecidableEq, Repr

/-- The phase that a task joins: the scheduler reads the DS bit at its JOIN (R340). -/
def State.phaseOf (s : State) (site queue : Nat) (r : BitVec 512) : PhaseAt :=
  let n := (recLaunch r).toNat
  let va := recJoin r
  if va = 0 then .ok s none
  else if s.waiters.any fun w => w.kind = .start queue && w.va = va && w.tindex = recTindex r then .wait s
  else match s.unitAt site n va.toNat 32 true { r := true } with
    | .page s d => .wait (s.ask n va d (recTindex r) (.start queue))
    | .bad s c d => .fail (s.failLaunch n (recTindex r) va 0 0 d c)
    | .window => .window
    | .held => .wait s
    | .ok s pa =>
      if !s.reaches site pa then .wait s
      else .ok (s.unitTrip .scheduler site pa) (if (s.homeByte (pa + 4)).getLsbD 0 then some pa else none)

/-! ### A scan (R329) -/

/-- What a scheduler's try comes to: something was placed or dropped, nothing was, or the device window of a refusal. -/
inductive Try where
  | done (s : State)
  | passed (s : State)
  | window
  deriving DecidableEq, Repr

def Try.of : Result → Try
  | .next s => .done s
  | _ => .window

/-- Start a record on a core of the serving site, or offer it to the other site's scheduler (R332). -/
def State.placeOn (s : State) (site core : Nat) (p : Popped) (phase : Option Nat) : State :=
  if core / 96 = site then (s.startCrew core p phase).memberStarted site core p.record
  else (s.fixGang core p.record).updSite site fun t => { t with placing := t.placing ++ [⟨p, core, phase⟩] }

/-- The queue's head leaves it. -/
def State.popHead (s : State) (site : Nat) (q : Queue) : State := { s.putQueue site q.pop with nextId := s.nextId + 1 }

/-- A member of a failed gang is dropped, and its JOIN receives code 0x39 (R335). -/
def State.dropMember (s : State) (core : Nat) (r : BitVec 512) : Result :=
  let key := gangKey r
  let s := match s.gang? key with
    | some g =>
      let g := { g with started := g.started ++ [(recGrank r).toNat] }
      if g.size ≤ (s.gangRanks g).length then s.forgetGang g.launch g.gid else s.setGang g
    | none => s
  let s := s.recordDone r
  if recJoin r = 0 then .next s
  else s.runJoin ⟨key.1, recPriv r, recTindex r, core, recJoin r, 0x39⟩

/-- An invalid record is dropped at the head: a continuation is reported as at its join, another as a RAS event. -/
def State.dropInvalid (s : State) (site : Nat) (r : BitVec 512) (cont : Option (Nat × DWord × DWord)) (dropped : Bool) : State :=
  let s := s.recordDone r
  match cont with
  | some (n, va, ti) =>
    if (s.launch? n).isSome && !dropped then s.failLaunch n ti va 0 0 0x0100 0x01 else s.report n (reportWord n ti va 0 0 0x0100 0x01 2)
  | none => s.ras 0x0C site none none (recLaunch r).toNat (recTindex r)

/-- Try to place a record on the core found for it; `take` removes it from where it stands. -/
def State.tryPlace (s : State) (site : Nat) (p : Popped) (take : State → State) : Try :=
  match s.findCore p.record with
  | none => .passed s
  | some core =>
    if core / 96 != site && !s.linkOpen then .passed s
    else match s.phaseOf site p.queue p.record with
      | .ok s phase => .done ((take s).placeOn site core p phase)
      | .wait s => .passed s
      | .fail s => .done s
      | .window => .window

/-- The gang waits for this member's core in the site's gang table (R334). -/
def State.tableGang (s : State) (site : Nat) (q : Queue) (p : Popped) : Try :=
  match s.gang? (gangKey p.record) with
  | some _ =>
    let w : GangWaiter := { item := p, since := s.elapsed, prewait := (s.site site).prewaitNs }
    .done ((s.popHead site q).updSite site fun t => { t with gangWait := t.gangWait ++ [w] })
  | none => .passed s

/-- The scheduler serves a queue: an open one, and records already popped, which a close or a fault does not stop (R326,
R328). -/
def Queue.serves (q : Queue) : Bool := q.state = .opened || !q.front.isEmpty

/-- Try the head of one queue. -/
def State.tryQueue (s : State) (site : Nat) (q : Queue) : Try :=
  if !q.serves || (s.site site).placing.any (fun p => p.item.queue = q.desc) then .passed s
  else match s.readHead site q with
    | .window => .window
    | .empty s => .passed s
    | .found s q r sc order dropped =>
      let p : Popped := ⟨r, q.desc, order.getD s.nextId, sc⟩
      let cont := if order.isNone then (q.entries.head?).bind (·.cont) else none
      if dropped then .done ((s.popHead site q).dropInvalid site r cont true)
      else match s.launch? (recLaunch r).toNat with
      | none => .done ((s.popHead site q).dropInvalid site r cont false)
      | some l =>
        if l.failed then .done ((s.popHead site q).recordDone r)
        else if l.closed || !s.recordOk r then .done ((s.popHead site q).dropInvalid site r cont false)
        else if recGang r && (s.gang? (gangKey r)).any (·.failed) then
          Try.of ((s.popHead site q).dropMember (96 * site) r)
        else if recGang r && Config.gangTable ≤ (s.site site).gangWait.length then .passed s
        else match s.tryPlace site p fun s => s.popHead site q with
          | .passed s => if recGang r then s.tableGang site q p else .passed s
          | t => t

/-- Try one waiting gang member. -/
def State.tryMember (s : State) (site : Nat) (g : GangWaiter) : Try :=
  s.tryPlace site g.item fun s => s.updSite site fun t => { t with gangWait := t.gangWait.erase g }

/-- The level of a popped record: its queue's, else its own (R329). -/
def State.level (s : State) (p : Popped) : Nat :=
  match s.queue? p.queue with
  | some (_, q) => q.prio
  | none => (recPrio p.record).toNat

/-- The queues of a level, from the one after the queue served last. -/
def Site.ring (t : Site) (lvl : Nat) : List Queue :=
  let qs := t.queues.filter fun q => q.prio = lvl
  match qs.findIdx? fun q => q.desc = t.served.getD lvl 0 with
  | some k => qs.drop (k + 1) ++ qs.take (k + 1)
  | none => qs

/-- The tries of one level in order. -/
def State.tryLevel (s : State) (site lvl : Nat) : Try :=
  let ms := (s.site site).gangWait.filter fun g => s.level g.item = lvl
  let r := ms.foldl (fun t g => match t with
    | .passed s => s.tryMember site g
    | t => t) (Try.passed s)
  ((s.site site).ring lvl).foldl (fun t q => match t with
    | .passed s =>
      match s.tryQueue site q with
      | .done s => .done (s.updSite site fun t => { t with served := t.served.set lvl q.desc })
      | t => t
    | t => t) r

/-- The first try that places or drops a record, levels 0 to 3. -/
def State.tryScan (s : State) (site : Nat) : Try :=
  (List.range 4).foldl (fun t lvl => match t with
    | .passed s => s.tryLevel site lvl
    | t => t) (Try.passed s)

/-- A level-0 record that stands unplaced at its queue's head begins to wait (R336). -/
def State.markWaits (s : State) (site : Nat) : State :=
  s.updSite site fun t => { t with queues := t.queues.map fun q =>
    if q.prio = 0 && q.serves && !(q.front.isEmpty && q.entries.isEmpty) && q.wait.isNone then
      { q with wait := some (s.elapsed, t.prewaitNs) }
    else q }

/-- Scan until nothing more can be placed. -/
def scanLoop (site : Nat) : Nat → State → Result
  | 0, s => .next (s.markWaits site)
  | n + 1, s =>
    match s.tryScan site with
    | .done s => scanLoop site n s
    | .passed s => .next (s.markWaits site)
    | .window => .refused .deviceWindow

/-- Records that a site's scheduler may place. -/
def Site.records (t : Site) : Nat :=
  t.queues.foldl (fun n q => n + q.front.length + q.entries.length) t.gangWait.length

def execSchedulerScan (site : Nat) (s : State) : Result := scanLoop site ((s.site site).records + 1) s

/-! ### PLACEMENT_OFFER (R332) -/

/-- An offered record may start on the core: the core still fits, its cluster takes the record's class (R333), and it is one of the gang's cluster that holds no other member (R334). -/
def State.takesOffer (s : State) (r : BitVec 512) (core : Nat) : Bool :=
  s.accepts r core && !(s.core core).retired &&
    s.takes (recClass r) (core / 8) &&
    (!recGang r || ((s.gang? (gangKey r)).all fun g => g.cluster = core / 8) && !s.holdsMember (gangKey r) core)

/-- The other site's scheduler accepts the oldest placement that a site has offered, or returns it; a member of a gang that
has failed meanwhile is dropped (R335). -/
def execPlacementOffer (site : Nat) (s : State) : Result :=
  match (s.site site).placing with
  | [] => .next s
  | p :: ps =>
    if !s.linkOpen then .next s
    else
      let s := (s.updSite site fun t => { t with placing := ps }).siteTrip site .scheduler
      if recGang p.item.record && (s.gang? (gangKey p.item.record)).any (·.failed) then s.dropMember (96 * site) p.item.record
      else if s.takesOffer p.item.record p.core then
        .next ((s.startCrew p.core p.item p.phase).memberStarted site p.core p.item.record)
      else .next (s.requeue p.item)

/-! ### PREWAIT (R336) -/

/-- The sublists of a list. -/
def subsets {α : Type} : List α → List (List α)
  | [] => [[]]
  | x :: xs => subsets xs ++ (subsets xs).map (x :: ·)

/-- The crews of a core that may be discarded, each with its gang, at the levels allowed. -/
def State.victims (s : State) (prios : List Nat) (core : Nat) : List (List Crew) :=
  ((s.coreCrews core).map s.gangCrews).filter fun cs =>
    cs.all fun d => recIdem d.record && prios.contains (recPrio d.record).toNat

/-- The state without some crews. -/
def State.without (s : State) (cs : List Crew) : State :=
  { s with crews := s.crews.filter fun c => !cs.any fun d => d.key = c.key
           waves := s.waves.filter fun w => !cs.any fun d => d.key = w.crew }

/-- The smallest discards that make a record fit on a core. -/
def State.fewestVictims (s : State) (r : BitVec 512) (prios : List Nat) (core : Nat) : Option (List Crew) :=
  let sets := ((subsets (s.victims prios core)).map List.flatten).filter fun cs => (s.without cs).accepts r core
  match argmin List.length sets with
  | none => none
  | some b => anyOf s.fresh (sets.filter fun cs => cs.length = b.length)

/-- The cores that pre-emption considers for a record. -/
def State.preemptCores (s : State) (r : BitVec 512) : List Nat :=
  match recGang r, s.gang? (gangKey r) with
  | true, some g => s.memberCores r g.cluster
  | _, _ => s.eligible r

/-- The core to free for a record and the crews to discard. -/
def State.preemption (s : State) (r : BitVec 512) : Option (Nat × List Crew) :=
  [[3], [3, 2], [3, 2, 1]].findSome? fun prios =>
    argmin (fun p => p.2.length)
      ((s.preemptCores r).filterMap fun k => (s.fewestVictims r prios k).map fun cs => (k, cs))

/-- Discard the victims and place the record; while its JOIN is serviced it stays triggered (R340), and so it does while the
link does not take what a core of the other site needs (R332, R385). -/
def State.preempt (s : State) (site : Nat) (p : Popped) (take mark : State → State) : Try :=
  match s.preemption p.record with
  | none => .done (mark s)
  | some (core, cs) =>
    if core / 96 != site && !s.linkOpen then .passed s
    else match s.phaseOf site p.queue p.record with
    | .wait s => .passed s
    | .fail s => .done s
    | .window => .window
    | .ok s phase =>
      let s := cs.foldl (fun s c => s.discardTask c.key true) { take s with fresh := s.fresh + 1 }
      let s := if core / 96 != site then s.siteTrip site .scheduler else s
      .done ((s.startCrew core p phase).memberStarted site core p.record)

/-- A waiting level-0 gang member triggers. -/
def State.memberDue (s : State) (g : GangWaiter) : Bool :=
  s.level g.item = 0 && !g.triggered && g.since + g.prewait ≤ s.elapsed && (s.findCore g.item.record).isNone

/-- The head of a level-0 queue triggers. -/
def State.queueDue (s : State) (site : Nat) (q : Queue) : Bool :=
  q.serves && !q.triggered && (match q.wait with
    | some (t, ns) => t + ns ≤ s.elapsed
    | none => false) && !(s.site site).placing.any fun p => p.item.queue = q.desc

/-- A triggered gang member frees a core. -/
def State.memberPrewait (s : State) (site : Nat) (g : GangWaiter) : Try :=
  if s.memberDue g then
    s.preempt site g.item (fun s => s.updSite site fun t => { t with gangWait := t.gangWait.erase g })
      fun s => s.updSite site fun t => { t with gangWait := t.gangWait.map fun x => if x = g then { x with triggered := true } else x }
  else .passed s

/-- The head of a triggered queue frees a core, unless the scan drops it, or the gang table is full (R334). -/
def State.queuePrewait (s : State) (site : Nat) (q : Queue) : Try :=
  if !s.queueDue site q then .passed s
  else match s.readHead site q with
    | .window => .window
    | .empty s => .passed s
    | .found s q r sc order dropped =>
      if dropped || !s.launchRuns (recLaunch r).toNat || !s.recordOk r || (s.findCore r).isSome ||
          (recGang r && (Config.gangTable ≤ (s.site site).gangWait.length || (s.gang? (gangKey r)).any (·.failed))) then .passed s
      else s.preempt site ⟨r, q.desc, order.getD s.nextId, sc⟩ (fun s => s.popHead site q)
        fun s => s.updQueue q.desc fun x => { x with triggered := true }

/-- The first triggered record in the order of R329 that can frees a core, or waits without a further trigger. -/
def execPrewait (site : Nat) (s : State) : Result :=
  let r := (s.site site).gangWait.foldl (fun t g => match t with
    | .passed s => s.memberPrewait site g
    | t => t) (Try.passed s)
  match ((s.site site).ring 0).foldl (fun t q => match t with
    | .passed s => s.queuePrewait site q
    | t => t) r with
  | .window => .refused .deviceWindow
  | .done s | .passed s => .next s

/-! ### GANG_WAIT and GANG_LIMIT (R335) -/

/-- A gang whose timer of ns has passed while members are still to start. -/
def State.overdue (s : State) (g : Gang) (ns : Nat) : Bool :=
  !g.failed && !g.started.isEmpty && (s.gangRanks g).length < g.size && g.since + ns ≤ s.elapsed

/-- GANG_WAIT: the cluster is reserved, as soon as no other gang holds it. -/
def execGangWait (launch gang : Nat) (s : State) : Result :=
  match s.gang? (launch, gang) with
  | none => .next s
  | some g =>
    if s.overdue g g.waitNs && !g.waited && (s.cluster g.cluster).reserved.all (fun k => k = (launch, gang)) then
      .next ((s.setGang { g with waited := true }).updCluster g.cluster fun c => { c with reserved := some (launch, gang) })
    else .next s

/-- The waiting members of a gang on both sites. -/
def State.gangMembers (s : State) (key : Nat × Nat) : List (Nat × GangWaiter) :=
  [0, 1].flatMap fun x => ((s.site x).gangWait.filter fun w => gangKey w.item.record = key).map fun w => (x, w)

/-- Place what fits of a gang's waiting members. -/
def State.placeMembers (s : State) (key : Nat × Nat) : Try :=
  (s.gangMembers key).foldl (fun t m => match t with
    | .window => .window
    | .done s | .passed s => s.tryMember m.1 m.2) (Try.passed s)

/-- The idempotent crews of a cluster at one level that are no members; a member of another gang goes with its gang (R337). -/
def State.limitVictims (s : State) (key : Nat × Nat) (cluster prio : Nat) : List Crew :=
  s.crews.filter fun c =>
    c.cluster = cluster && (recPrio c.record).toNat = prio && (s.gangCrews c).all fun d =>
      recIdem d.record && !(recGang d.record && gangKey d.record = key)

/-- A waiting member of a gang has a core, and waits for its JOIN's service or for the link (R340, R385). -/
def State.memberFits (s : State) (key : Nat × Nat) : Bool := (s.gangMembers key).any fun m => (s.findCore m.2.item.record).isSome

/-- Discard crews, lowest level first, until the waiting members fit: while one of them has a core, nothing more. -/
def limitLoop (key : Nat × Nat) (cluster : Nat) : Nat → State → Try
  | 0, s => .done s
  | n + 1, s =>
    match s.placeMembers key with
    | .window => .window
    | .done s | .passed s =>
      if (s.gangMembers key).isEmpty || s.memberFits key then .done s
      else match [3, 2, 1, 0].findSome? fun p => anyOf s.fresh (s.limitVictims key cluster p) with
        | none => .done s
        | some c => limitLoop key cluster n { s.discardTask c.key true with fresh := s.fresh + 1 }

/-- The joins of a failed gang's members. -/
def joinAll (js : List PendingJoin) (s : State) : Result :=
  js.foldl (fun r j => match r with
    | .next s => s.runJoin j
    | r => r) (.next s)

/-- A gang fails: started members are discarded, waiting ones dropped, each member's JOIN receives code 0x39. -/
def State.failGang (s : State) (g : Gang) : Result :=
  let key := (g.launch, g.gid)
  let crews := s.crews.filter fun c => recGang c.record && c.launch = g.launch && (recGangId c.record).toNat = g.gid
  let ms := s.gangMembers key
  let recs := crews.map (fun c => (c.record, c.core)) ++ ms.map fun m => (m.2.item.record, 96 * m.1)
  let low := (argmin (fun (r : BitVec 512 × Nat) => (recTindex r.1).toNat) recs).map fun r => recTindex r.1
  let gone := s.gangRanks g ++ ms.map fun m => (recGrank m.2.item.record).toNat
  let s := crews.foldl State.dropCrew s
  let drop (t : Site) : Site := { t with gangWait := t.gangWait.filter fun w => gangKey w.item.record != key }
  let s := ({ s with siteA := drop s.siteA, siteB := drop s.siteB }.unreserve key)
  let s := if g.size ≤ gone.length then s.forgetGang g.launch g.gid else s.setGang { g with failed := true, started := gone }
  let s := (recs.foldl (fun s r => s.recordDone r.1) s).event g.launch (low.getD 0) 0 0 0 0 0x39
  joinAll ((recs.filter fun r => recJoin r.1 != 0).map fun r =>
    ⟨g.launch, recPriv r.1, recTindex r.1, r.2, recJoin r.1, 0x39⟩) s

/-- Members of a gang that are offered to the other site's scheduler. -/
def State.gangOffered (s : State) (key : Nat × Nat) : Bool :=
  (s.siteA.placing ++ s.siteB.placing).any fun p => recGang p.item.record && gangKey p.item.record = key

/-- GANG_LIMIT: idempotent crews make room for the waiting members; a gang with members still unplaced then fails.  One whose
members stand offered, or have a core and are served first, waits. -/
def execGangLimit (launch gang : Nat) (s : State) : Result :=
  match s.gang? (launch, gang) with
  | none => .next s
  | some g =>
    if !s.overdue g g.limitNs || s.gangOffered (launch, gang) then .next s
    else match limitLoop (launch, gang) g.cluster (s.crews.length + 1) s with
      | .window => .refused .deviceWindow
      | .done s | .passed s =>
        if s.gangOffered (launch, gang) || s.memberFits (launch, gang) then .next s
        else match s.gang? (launch, gang) with
        | some g => if (s.gangRanks g).length < g.size then s.failGang g else .next s
        | none => .next s

/-! ### HANG (R339, R343) -/

/-- The line for which a wave's access waits that the side log held back: its oldest entries, or a returning atomic (R302,
R303). -/
def State.logRoomLine (s : State) (c : Crew) (w : Wave) : Option DWord :=
  let full (g : Agent) (op : WriteOp) (va : DWord) (n : Nat) (data : List Byte) : Option DWord :=
    match s.xlat w.site c.launch va.toNat with
    | .ok pa kind _ => if s.dsWaits g kind op pa n data then some (BitVec.ofNat 64 (va.toNat / 64 * 64)) else none
    | .fault _ => none
  match (s.oldestEntries w.core w.key).findSome? fun e => full (s.entryAgent w.core e) e.op e.va e.bytes e.data with
  | some a => some a
  | none => ((w.direct :: w.tags).flatMap fun p => (p.getD {}).loads).findSome? fun x => match x.atom with
    | some a => if x.onLog && !s.logCovers w.core w.key x.va.toNat x.bytes then full (agentOf w c) a.op x.va x.bytes a.data else none
    | none => none

/-- The line for which a crew waits for room in a phase table: at issue, past the side log, or in one of its engine
operations. -/
def State.roomWait (s : State) (c : Crew) : Option DWord :=
  let k := s.cluster c.cluster
  match c.dsWait <|> ((s.waves.filter fun w => w.crew = c.key).findSome? fun w => s.logRoomLine c w) with
  | some a => some a
  | none =>
    match k.copies.findSome? fun y => if y.crew != c.key || y.tmpl.dstSp then none
        else (s.opAgent y.wave).bind fun g => s.roomLine g y.pages (y.dstExtents) with
    | some a => some a
    | none => k.moves.findSome? fun m => if m.crew != c.key || !m.store || m.sp then none
        else (s.opAgent m.wave).bind fun g => s.roomLine g m.pages (s.moveRows c.cluster m)

/-- Since when a crew waits for room in a phase table, and the interval that the watchdog begins with then (R343). -/
def State.noteRoom (s : State) (c : Crew) : Crew :=
  { c with roomSince := if (s.roomWait c).isSome then some (c.roomSince.getD (s.elapsed, (s.site c.site).hangNs)) else none }

def State.noteRooms (s : State) : State := { s with crews := s.crews.map s.noteRoom }

/-- An interval of HANG has passed since a crew's last retirement. -/
def Crew.idleFor (c : Crew) (now : Nat) : Bool := c.hangNs != 0 && c.since + c.hangNs ≤ now

/-- An interval of HANG has passed since a crew's last retirement while it waited for room. -/
def Crew.stuckFor (c : Crew) (now : Nat) : Bool :=
  match c.roomSince with
  | some (t, ns) => if t < c.since then c.idleFor now else ns != 0 && t + ns ≤ now
  | none => false

/-- A crew with a live lane, or one parked at wave level (R266), has retired nothing over its interval: reported once; one that
has waited for a phase table for an interval fails its launch, reported before or not. -/
def execHang (crew : Nat) (s : State) : Result :=
  match s.crew? crew with
  | none => .next s
  | some c =>
    match s.roomWait c, c.stuckFor s.elapsed with
    | some a, true => .next (s.failLaunch c.launch (recTindex c.record) a 0 0 2 0x3A)
    | _, _ =>
      let live := s.waves.any fun w => w.crew = crew && (!w.parked.isEmpty || w.lanes.any fun x => x.life = .live)
      if c.hung || !live || !c.idleFor s.elapsed then .next s
      else .next ((s.setCrew { c with hung := true }).report c.launch
        (reportWord c.launch (recTindex c.record) 0 0 0 1 0 3))

/-! ### Summaries (R332) -/

/-- What the cores of a site hold: core, waves, blocks of registers and scratchpad of each that holds a crew. -/
def State.usage (s : State) (site : Nat) : List (Nat × Nat × Nat × Nat) :=
  let ks := s.crews.foldl (fun l c => if c.site != site || l.contains c.core then l else l ++ [c.core]) []
  ks.map fun k =>
    (k, (s.coreWaves k).length, s.coreBlocks k, (s.coreCrews k).foldl (fun n c => n + (recScratch c.record).toNat) 0)

/-- A site's scheduler sends the other a summary of its cores when they have changed, in the ordered class. -/
def State.tellSite (s : State) (site : Nat) : State :=
  if s.linkOpen && (s.site site).told != s.usage site then
    (s.passPacket (siteFlow site .scheduler)).updSite site fun t => { t with told := s.usage site }
  else s

def State.tellSites (s : State) : State := (s.tellSite 0).tellSite 1

/-! ### Operating classes (R333, R401) -/

/-- POOL_ASSIGN: ST_POOL. -/
def State.writePool (s : State) (site : Nat) (v : Word) : State := s.updSite site fun t => { t with pool := v &&& 0xFFFFFF }

def execPoolAssign (w : RegWrite) (s : State) : Result := .next (s.writePool w.site (w.value.setWidth 32))

/-- A cluster whose class has changed and whose crews have completed takes the new class and its clock. -/
def State.settleClass (s : State) (k : Nat) (c : Cluster) : Cluster :=
  let cls := (s.site (k / 12)).poolClass (k % 12)
  if c.cls = cls || s.crews.any (fun d => d.cluster = k) then c
  else
    let mhz := (s.opp.getD cls.toNat 1200).toNat
    { c with cls := cls, nominal := mhz, mhz := if c.thr then min c.mhz mhz else mhz }

def State.settleClasses (s : State) : State := { s with clusters := s.clusters.mapIdx s.settleClass }

/-! ### Windows of a core (R16, R255, R256) -/

def execExclusionWindowEnd (core : Nat) (s : State) : Result := .next (s.updCore core fun c => { c with halfRate := false })

/-- The wave of a crew with the lowest progress count, the lowest number of equals, in a crew of more than one wave. -/
def State.mostUrgent (s : State) (crew : Nat) : Option Nat :=
  let ws := s.crewWaves crew
  if ws.length ≤ 1 then none else (argmin (·.progress) ws).map Wave.key

/-- 256 base cycles have passed; at the end of a predictor window CL_ISSUE acts anew, and the urgent waves are named under it. -/
def execUrgentWaveWindow (core : Nat) (s : State) : Result :=
  let c := s.core core
  let win := max 1 (c.issueNow.extractLsb' 8 8).toNat
  if c.windows + 1 < win then .next (s.setCore core { c with windows := c.windows + 1 })
  else
    let now := (s.cluster (core / 8)).issue
    let named := if now.getLsbD 0 then (s.coreCrews core).filterMap fun d => s.mostUrgent d.key else []
    .next { s.setCore core { c with windows := 0, issueNow := now } with
      waves := s.waves.map fun w => if w.core = core then { w with urgent := named.contains w.key } else w }

end Sys2Proof.Machine
end

