-- ==== Sys2Proof/Machine/Meter.lean ====
section
/-!
DEFINITION. The Light meter of a site (07 R217, 15 R347-R355): policy headers, sweeps, sample blocks and sample tasks.
-/
namespace Sys2Proof.Machine

/-! ### Reads of a site's units (R275, R417) -/

/-- What a unit's read comes to. -/
inductive UnitRead where
  | ok (s : State) (bs : List Byte)
  | poison (s : State)
  | none (s : State)
  | window
  deriving DecidableEq, Repr

/-- The bytes of an aligned range that a unit of a site reads with acquire at site scope: writes performed there are seen,
and a read of the other site travels in the unit's flow (R287). -/
def State.siteRead (s : State) (u : FlowUnit) (site pa n : Nat) : State × List Byte :=
  let s := s.performAll (s.inflight.filter fun x => x.core / 96 = site && 2 ≤ x.level && x.touches pa n) .device
  let s := s.unitTrip u site pa
  (s, s.homeBytes pa n)

/-- A unit of a site reads n bytes, aligned to n; `none` when its page denies it, is not mapped, or cannot be reached. -/
def State.unitRead (s : State) (u : FlowUnit) (site launch va n : Nat) (priv : Bool) : UnitRead :=
  match s.unitAt site launch va n priv { r := true } with
  | .ok s pa =>
    if s.reaches site pa then
      let (s, bs) := s.siteRead u site pa n
      .ok s bs
    else .none s
  | .page s _ => .none s
  | .bad s c _ => if c = 0x08 then .poison s else .none s
  | .window => .window
  | .held => .none s

/-! ### The header (R347) -/

def hdrTable (h : BitVec 512) : Nat := (h.extractLsb' 246 46).toNat * 64
def hdrBlocks (h : BitVec 512) : Nat := (h.extractLsb' 200 46).toNat * 64
def hdrBlog (h : BitVec 512) : Nat := (h.extractLsb' 196 4).toNat
def hdrErr (h : BitVec 512) : Nat := (h.extractLsb' 176 16).toNat
def hdrMot (h : BitVec 512) : Nat := (h.extractLsb' 160 16).toNat
def hdrGaze (h : BitVec 512) : Nat := (h.extractLsb' 144 16).toNat
def hdrGrad (h : BitVec 512) : Nat := (h.extractLsb' 136 8).toNat
def hdrRate (h : BitVec 512) : Nat := (h.extractLsb' 128 8).toNat
def hdrOvlx (h : BitVec 512) : Nat := (h.extractLsb' 116 12).toNat
def hdrLead (h : BitVec 512) : Nat := (h.extractLsb' 104 12).toNat
def hdrSeq (h : BitVec 512) : BitVec 16 := h.extractLsb' 16 16

/-- No reserved bit, VERSION 1, and every field in its range. -/
def hdrValid (h : BitVec 512) : Bool :=
  h.extractLsb' 192 4 = 0 && h.extractLsb' 96 8 = 0 && h.extractLsb' 32 12 = 0 && h.extractLsb' 8 8 = 0 &&
  h.extractLsb' 0 8 = 1 && h.extractLsb' 200 3 = 0 && 1 ≤ hdrBlog h && hdrBlog h ≤ 12 && 1 ≤ hdrGrad h && hdrGrad h ≤ 240 &&
  1 ≤ hdrRate h && hdrRate h ≤ 128 && hdrOvlx h ≤ 3840 && (h.extractLsb' 52 12).toNat ≤ 2048

/-- At a task boundary the latest accepted header is adopted; a record held because its queue was closed is offered again. -/
def Meter.adopt (m : Meter) (now : Nat) : Meter :=
  match m.latest with
  | none => m
  | some h =>
    if !m.part.isEmpty then m
    else
      let same := match m.adopted with
        | some o => hdrBlocks o.hdr = hdrBlocks h.hdr && hdrBlog o.hdr = hdrBlog h.hdr
        | none => false
      { m with latest := none, adopted := some h, parked := false, noQueue := false, paced := now, emitted := 0
               block := if same then m.block else 0 }

/-- meter.post (R217): a release at site scope, and the header's snapshot. -/
def execMeterPost (x : LE) (s : State) : Result :=
  issue (.meterPost x) (fun i => once i (
    let va := engineOp i true x.a
    match i.s.releasePoint i.w .site with
    | none => { s := i.s, hold := true }
    | some s =>
      let site := i.w.core / 96
      match s.blockAt i.agent va.toNat with
      | .trap s c d => { trapAll i c d (some va) with s := s }
      | .wait => { s := i.s, hold := true }
      | .far => i.linkHeld
      | .window => { s := i.s, stop := some .deviceWindow }
      | .ok s pa kind =>
        let (s, h, cached) := s.readBlock (s.site site).blocks i.agent kind pa
        let s := s.updSite site fun t => { t with blocks := cached }
        if hdrValid h then
          { s := s.updSite site fun t =>
              { t with meter := { t.meter with latest := some ⟨h, i.agent.launch, i.agent.priv⟩ }.adopt s.elapsed } }
        else
          { s := (s.updSite site fun t => { t with meter := { t.meter with rej := true } }).ras 0x09 site (some i.w.core)
              (some i.w.cluster) i.agent.launch i.agent.tindex va })) s

/-! ### ST_METER (R348, R353) -/

/-- The address of block n of the adopted ring. -/
def Meter.blockAt (m : Meter) : Nat :=
  match m.adopted with
  | some h => hdrBlocks h.hdr + 512 * m.block
  | none => 0

def Meter.nextBusy (m : Meter) : Bool := m.busy.any fun b => b.1 = m.blockAt

/-- STALL: a record is held, or the next block is not free (R353). -/
def Meter.stall (m : Meter) : Bool := m.en && m.adopted.isSome && (m.held.isSome || (m.part.isEmpty && m.nextBusy))

def Meter.word (m : Meter) : Word :=
  (match m.adopted with
    | some h => hdrSeq h.hdr
    | none => 0) ++ (0 : BitVec 13) ++ BitVec.ofBool m.stall ++ BitVec.ofBool m.rej ++ BitVec.ofBool m.en

/-- EN is set: credits, sweeps, what the sweeps have seen move and the count of tasks begin again. -/
def Meter.enable (m : Meter) (now : Nat) : Meter :=
  if m.en then m
  else { m with en := true, credit := [], tile := 0, sweep := 0, issued := 0, paced := now, emitted := 0, motion := [], motion0 := [] }

/-- EN is cleared: the partly assembled task is dropped, and the block of a held record is free. -/
def Meter.disable (m : Meter) (now : Nat) : Meter :=
  if m.en then { m with en := false, part := [], held := none, parked := false }.adopt now else m

/-- A write of ST_METER: EN, and REJ by a 1. -/
def State.writeMeter (s : State) (site : Nat) (v : Word) : State :=
  s.updSite site fun t =>
    let m := if v.getLsbD 0 then t.meter.enable s.elapsed else t.meter.disable s.elapsed
    { t with meter := { m with rej := m.rej && !v.getLsbD 1 } }

/-- A write of ST_METER with EN = 1. -/
def execMeterEnable (w : RegWrite) (s : State) : Result :=
  .next (if w.value.getLsbD 0 then s.writeMeter w.site (w.value.setWidth 32) else s)
/-- A write of ST_METER with EN = 0. -/
def execMeterDisable (w : RegWrite) (s : State) : Result :=
  .next (if w.value.getLsbD 0 then s else s.writeMeter w.site (w.value.setWidth 32))
/-- A write of ST_METER with REJ = 1. -/
def execMeterRejClear (w : RegWrite) (s : State) : Result :=
  .next (if w.value.getLsbD 1 then s.writeMeter w.site (w.value.setWidth 32) else s)

/-! ### Priorities (R349) -/

/-- The gaze term of tile k. -/
def gazeTerm (gaze : Option (BitVec 256)) (grad k : Nat) : Nat :=
  match gaze with
  | none => 0
  | some r =>
    let gx := (r.extractLsb' 96 20).toNat / 256
    let gy := (r.extractLsb' 116 20).toNat / 256
    let far (a b : Nat) : Nat := if a < b then b - a else a - b
    let d := max (far (k % 240) gx) (far (k / 240) gy)
    65535 * (grad - d) / grad

/-- The motion term of a magnitude in f16, times 2^24; of a NaN a free value. -/
def motionTerm (fresh : Nat) (v : BitVec 16) : Nat :=
  let e := (v.extractLsb' 10 5).toNat
  let f := (v.extractLsb' 0 10).toNat
  if e = 31 then
    (if f = 0 then 65535 else ((Config.freeWord fresh).setWidth 16).toNat) * 2 ^ 24
  else min (65535 * 2 ^ 24) (256 * (if e = 0 then f else (1024 + f) * 2 ^ (e - 1)))

/-- P(k): the word of the table, and the terms in 1/2^24. -/
def tilePriority (h : BitVec 512) (table : Word) (g m : Nat) : Nat :=
  min 65535 (8 * (table.extractLsb' 0 13).toNat +
    (hdrGaze h * g * 2 ^ 24 + hdrMot h * m + hdrErr h * (table.extractLsb' 16 16).toNat * 2 ^ 24) / (256 * 2 ^ 24))

/-! ### Samples (R350, R351, R354, R355) -/

/-- The lighting time of row y in the earliest scan in which it is at or after `t`. -/
def lightTime (t start period y : Nat) : Nat :=
  let row := start + y * period / 3840
  row + (t - row + period - 1) / period * period

/-- The photon time of row y for a sample emitted now. -/
def State.photonTime (s : State) (site lead y : Nat) : Word :=
  let t := s.site site
  let at_ := s.timer.toNat + 1000 * lead
  let lit := if t.scan.reg.getLsbD 0 then lightTime at_ t.scan.start.toNat t.scan.period y
    else lightTime at_ t.meter.epoch.toNat 8333333 y
  (BitVec.ofNat 64 lit - t.meter.epoch).setWidth 32

/-- The position of a sample: the tile's corner and the drawn offset, for a probe truncated to its size. -/
def samplePos (corner off : Nat) (probe : Bool) (size : Nat) : Nat :=
  if probe then corner + off / (16 * 2 ^ size) * (16 * 2 ^ size) else corner + off

def sampleView (site ovlx x : Nat) : BitVec 8 :=
  let both := if site = 0 then ovlx ≤ x / 16 else x / 16 < ovlx
  if both then 3 else if site = 0 then 1 else 2

/-- Sample n of tile k in the sweep. -/
def State.sample (s : State) (site : Nat) (h : BitVec 512) (table : Word) (k n : Nat) : BitVec 128 :=
  let m := (s.site site).meter
  let x0 := (philox m.seed ⟨m.sweep, 0xFFFD0000 + BitVec.ofNat 32 n, BitVec.ofNat 32 k, 0⟩).c0
  let probe := table.getLsbD 15
  let size := (table.extractLsb' 13 2).toNat
  let x := samplePos (k % 240 * 256) (x0.extractLsb' 0 8).toNat probe size
  let y := samplePos (k / 240 * 256) (x0.extractLsb' 8 8).toNat probe size
  0#16 ++ BitVec.ofNat 16 k ++ s.photonTime site (hdrLead h) (y / 16) ++ 0#12 ++ BitVec.ofNat 20 y ++
    sampleView site (hdrOvlx h) x ++ 0#1 ++ table.extractLsb' 13 2 ++ BitVec.ofBool probe ++ BitVec.ofNat 20 x

/-! ### Sample tasks (R352, R353) -/

/-- The record of a task, but for LAUNCH, which its queue gives. -/
def sampleRecord (h : BitVec 512) (block : Nat) (issued : DWord) : BitVec 512 :=
  let args : BitVec 192 := h.extractLsb' 448 64 ++ h.extractLsb' 384 64 ++ BitVec.ofNat 64 block
  let frame : DWord := 0#12 ++ h.extractLsb' 338 46 ++ 0#6
  let scratch : BitVec 12 := h.extractLsb' 52 12
  let flags : BitVec 8 := 0#2 ++ h.extractLsb' 46 2 ++ 1#2 ++ h.extractLsb' 45 1 ++ h.extractLsb' 44 1
  args ++ ((1 : DWord) <<< 62 + issued) ++ 0#64 ++ frame ++ 0#32 ++ scratch ++ h.extractLsb' 48 4 ++ 0#8 ++ flags ++ 0#32 ++
    h.extractLsb' 64 32

/-- Offer the held record to QUEUE as post does at site scope; the queue's status comes back (R287). -/
def State.meterOffer (s : State) (site : Nat) : Result :=
  let m := (s.site site).meter
  match m.held, m.adopted with
  | some (r, block), some h =>
    match s.unitAt site h.launch (hdrQueue h.hdr) 64 h.priv { r := true } with
    | .page s _ | .bad s _ _ => .next s
    | .window => .refused .deviceWindow
    | .held => .next s
    | .ok s pa =>
      if !s.queueReach site pa then .next s
      else
        let owner := (s.queue? pa).map fun q => q.2.owner
        let r := recSetLaunch r (BitVec.ofNat 16 (owner.getD 0))
        let upd (s : State) (f : Meter → Meter) : State := s.updSite site fun t => { t with meter := f t.meter }
        match (s.offerTrip .meter site pa).pushQueue pa r .site with
        | .window => .refused .deviceWindow
        | .held => .next s
        | .done s 0 =>
          .next (upd s fun m =>
            { m with held := none, issued := m.issued + 1, busy := m.busy ++ [(block, r)] })
        | .done s 1 => .next s
        | .done s 5 =>
          if m.noQueue then .next s
          else .next ((upd s fun m => { m with noQueue := true }).ras 0x08 site (addr := BitVec.ofNat 64 pa))
        | .done s _ =>
          .next ((upd { s with fresh := s.fresh + 1 } fun m => { m with parked := true }).event (owner.getD 0) 0
            (BitVec.ofNat 64 (hdrQueue h.hdr)) 0 0 ((Config.freeWord s.fresh).setWidth 16) 0x38)
  | _, _ => .next s

/-- The queue is offered its record again. -/
def execMeterOfferRetry (site : Nat) (s : State) : Result :=
  let m := (s.site site).meter
  if m.held.isSome && !m.parked then s.meterOffer site else .next s

/-- A block that the scheduler has reported free is free again. -/
def execMeterBlockFree (site block : Nat) (s : State) : Result :=
  .next (if (s.site site).meter.freed.contains block then
    s.updSite site fun t => { t with meter := { t.meter with
      busy := t.meter.busy.filter fun b => b.1 != block
      freed := t.meter.freed.filter fun b => b != block } }
  else s)

/-! ### Sweeps (R350) -/

/-- What a tile's visit comes to. -/
inductive Visit where
  | go (s : State)
  | held (s : State)
  | window
  deriving DecidableEq, Repr

/-- Emit one sample: its entry is written at block + 16 i; with the 32nd the task is offered. -/
def State.emit (s : State) (site : Nat) (h : MeterHdr) (e : BitVec 128) : Visit :=
  let m := (s.site site).meter
  if m.held.isSome || (m.part.isEmpty && m.nextBusy) then .held s
  else
    let va := m.blockAt + 16 * m.part.length
    match s.unitAt site h.launch va 16 h.priv { w := true } with
    | .page s _ | .bad s _ _ => .held s
    | .window => .window
    | .held => .held s
    | .ok s pa =>
      if !s.reaches site pa then .held s
      else
        let s := s.unitTrip .meter site pa
        let s := if s.lineBad pa then s.failLaunch h.launch 0 (BitVec.ofNat 64 va) 0 0 1 0x08 else s.pokeHome pa (toBytes e 16)
        let full := m.part.length = 31
        let m' : Meter :=
          if full then
            { m with part := [], emitted := m.emitted + 1, block := (m.block + 1) % 2 ^ hdrBlog h.hdr
                     held := some (sampleRecord h.hdr m.blockAt m.issued, m.blockAt) }
          else { m with part := m.part ++ [e], emitted := m.emitted + 1 }
        let s := s.updSite site fun t => { t with meter := m' }
        if full then
          match s.meterOffer site with
          | .next s => .go (s.updSite site fun t => { t with meter := t.meter.adopt s.elapsed })
          | _ => .window
        else .go s

/-- The samples of tile k that its credit allows, from number n; the credit left. -/
def emitLoop (site k : Nat) (table : Word) : Nat → Nat → Nat → State → Visit × Nat
  | 0, _, credit, s => (.go s, credit)
  | fuel + 1, n, credit, s =>
    if credit < 65536 then (.go s, credit)
    else match (s.site site).meter.adopted with
      | none => (.go s, credit)
      | some h =>
        match s.emit site h (s.sample site h.hdr table k n) with
        | .go s => emitLoop site k table fuel (n + 1) (credit - 65536) s
        | .held s => (.go s, credit)
        | .window => (.window, credit)

/-- The meter after a tile: the next one, or the next sweep. -/
def Meter.nextTile (m : Meter) : Meter :=
  if m.tile + 1 < 57600 then { m with tile := m.tile + 1 }
  else { m with tile := 0, sweep := m.sweep + 1, motion0 := m.motion, motion := [] }

/-- Visit the next tile; held when its table word cannot be read, or while RATE allows no more. -/
def State.visitTile (s : State) (site : Nat) : Visit :=
  let m := (s.site site).meter
  match m.adopted with
  | none => .held s
  | some h =>
    if !m.en then .held s
    else
      let k := m.tile
      let go (s : State) (table : Word) : Visit :=
        let p := tilePriority h.hdr table (gazeTerm (s.site site).gaze (hdrGrad h.hdr) k) (motionTerm s.fresh (SMap.get m.motion0 k))
        let credit := min (2 ^ 20 - 1) ((SMap.get m.credit k).toNat + p)
        if hdrRate h.hdr * (s.elapsed - m.paced) < 64 * (m.emitted + credit / 65536) then .held s
        else match emitLoop site k table 16 0 credit { s with fresh := s.fresh + 1 } with
          | (.go s, left) | (.held s, left) =>
            .go (s.updSite site fun t =>
              { t with meter := { t.meter with credit := SMap.set t.meter.credit k (BitVec.ofNat 32 left) }.nextTile })
          | (.window, _) => .window
      match s.unitRead .meter site h.launch (hdrTable h.hdr + 4 * k) 4 h.priv with
      | .ok s bs => go s (BitVec.ofNat 32 (ofBytes bs))
      | .poison s => go { s with fresh := s.fresh + 1 } ((Config.freeWord s.fresh).setWidth 32)
      | .none s => .held s
      | .window => .window

def sweepLoop (site : Nat) : Nat → State → Result
  | 0, s => .next s
  | n + 1, s =>
    match s.visitTile site with
    | .go s => sweepLoop site n s
    | .held s => .next s
    | .window => .refused .deviceWindow

/-- The sweep visits its next tiles. -/
def execMeterSweep (site tiles : Nat) (s : State) : Result := sweepLoop site tiles s

end Sys2Proof.Machine
end

