-- ==== Sys2Proof/Machine/Rangefinder.lean ====
section
/-!
DEFINITION. The Rangefinder (07 R214, R215, 16 R361-R372): closest hit, any hit, raster probe and tree query.
-/
namespace Sys2Proof.Machine

/-! ### Descriptors (R361, R362) -/

abbrev Bvh := BitVec 512

def Bvh.spill (d : Bvh) : Nat := (d.extractLsb' 480 32).toNat
def Bvh.instn (d : Bvh) : Nat := (d.extractLsb' 448 32).toNat
def Bvh.primn (d : Bvh) : Nat := (d.extractLsb' 416 32).toNat
def Bvh.noden (d : Bvh) : Nat := (d.extractLsb' 384 32).toNat
def Bvh.root (d : Bvh) : Nat := (d.extractLsb' 352 32).toNat
def Bvh.inst (d : Bvh) : Nat := (d.extractLsb' 256 64).toNat
def Bvh.prims (d : Bvh) : Nat := (d.extractLsb' 192 64).toNat
def Bvh.nodes (d : Bvh) : Nat := (d.extractLsb' 128 64).toNat
def Bvh.ptype (d : Bvh) : Nat := (d.extractLsb' 8 8).toNat
def Bvh.kind (d : Bvh) : Nat := (d.extractLsb' 0 8).toNat
/-- A tree of triangles (0) or points (1) that a port may traverse. -/
def Bvh.good (d : Bvh) (ptype : Nat) : Bool :=
  d.kind = 0 && d.ptype = ptype && d.extractLsb' 320 32 = 0 && d.extractLsb' 16 112 = 0 && d.inst % 64 = 0 &&
    d.prims % 16 = 0 && d.nodes % 128 = 0

def Bvh.trin (d : Bvh) : Nat := (d.extractLsb' 416 32).toNat
def Bvh.height (d : Bvh) : Nat := (d.extractLsb' 400 16).toNat
def Bvh.width (d : Bvh) : Nat := (d.extractLsb' 384 16).toNat
def Bvh.tris (d : Bvh) : Nat := d.inst
def Bvh.list (d : Bvh) : Nat := d.prims
def Bvh.bins (d : Bvh) : Nat := d.nodes
/-- A bin set. -/
def Bvh.goodBins (d : Bvh) : Bool :=
  d.kind = 1 && d.extractLsb' 448 64 = 0 && d.extractLsb' 320 64 = 0 && d.extractLsb' 8 120 = 0 && d.tris % 16 = 0 &&
    d.list % 4 = 0 && d.bins % 8 = 0 && 1 ≤ d.width && d.width ≤ 4096 && 1 ≤ d.height && d.height ≤ 4096

/-! ### Out records (R215, R366, R372) -/

def missRecord : List Word := [1, 0, 0, 0, 0, 0, 0, 0]
def badRecord : List Word := [4, 0, 0, 0, 0, 0, 0, 0]
def errorRecord (cause idx : Nat) : List Word := [BitVec.ofNat 32 (256 * cause + 3), 0, 0, 0, 0, 0, 0, BitVec.ofNat 32 idx]

/-- How a traversal stops before its end. -/
inductive Halt where
  | hit
  | err (cause idx : Nat)
  | page (va : Nat) (detail : BitVec 16)
  | wait
  | window
  /-- A value that no rule states. -/
  | open_
  /-- The limit of a query. -/
  | limit
  deriving DecidableEq, Repr

/-- Where an engine of a port reads: agent, and whether a page has been refused. -/
structure Source where
  g  : Agent
  no : Bool
  deriving DecidableEq, Repr

/-- Read the words of a record, or how the push stops (R372). -/
def State.record (s : State) (c : Source) (va n idx : Nat) : State × Except Halt (List Word) :=
  match s.portRead c.g c.no va n with
  | (s, .ok bs) => (s, .ok (wordsOf bs))
  | (s, .page va d) => (s, .error (.page va d))
  | (s, .refused) => (s, .error (.err 5 idx))
  | (s, .bad) => (s, .error (.err 1 idx))
  | (s, .window) => (s, .error .window)
  | (s, .wait) => (s, .error .wait)

/-! ### Nodes (R363) -/

/-- A child of a node: its box, its type (1 inner, 2 primitives, 3 instances), first index and count, and its slot. -/
structure Child where
  slot  : Nat
  ty    : Nat
  start : Nat
  count : Nat
  lo    : List ER
  hi    : List ER
  deriving DecidableEq, Repr

/-- One bound of a box. -/
def boxEdge (rm : Mode) (o : Q) (q e : Int) : ER := (o.add ((Q.ofInt q).mul (Q.scale2 1 e))).f32 rm

def byteOf (ws : List Word) (k : Nat) : Nat := (ws.getD (k / 4) 0).toNat / 256 ^ (k % 4) % 256

/-- The children of a node, or none when it is malformed or names an index out of range. -/
def nodeChildren (d : Bvh) (ws : List Word) (instOk : Bool) : Option (List Child) :=
  match v3Of ws 0 with
  | none => none
  | some o =>
    if (ws.getD 3 0).toNat / 2 ^ 24 != 0 || ((ws.drop 21).take 11).any (fun x => x != 0) then none
    else
      let ex (a : Nat) : Int := (BitVec.ofNat 8 (byteOf ws (12 + a))).toInt
      let step (acc : Option (List Child × Nat × Nat × Nat)) (c : Nat) : Option (List Child × Nat × Nat × Nat) :=
        match acc with
        | none => none
        | some (cs, ni, np, nx) =>
          let m := byteOf ws (24 + c)
          let ty := m / 64
          let n := m % 64
          let box := (List.range 3).map fun a =>
            (boxEdge .rdn (o.get a) (byteOf ws (32 + 6 * c + a)) (ex a), boxEdge .rup (o.get a) (byteOf ws (35 + 6 * c + a)) (ex a))
          let child (start count : Nat) : Child := ⟨c, ty, start, count, box.map (·.1), box.map (·.2)⟩
          if ty = 0 then (if n = 0 then some (cs, ni, np, nx) else none)
          else if ty = 1 then
            if n != 0 || d.noden ≤ ni then none else some (cs ++ [child ni 1], ni + 1, np, nx)
          else if ty = 2 then
            if n = 0 || d.primn < np + n then none else some (cs ++ [child np n], ni, np + n, nx)
          else if n = 0 || !instOk || d.instn < nx + n then none
          else some (cs ++ [child nx n], ni, np, nx + n)
      ((List.range 8).foldl step (some ([], (ws.getD 4 0).toNat, (ws.getD 5 0).toNat, (ws.getD 20 0).toNat))).map (·.1)

/-- A box whose low bound is above its high bound on an axis is never entered. -/
def Child.boxOk (c : Child) : Bool := (List.range 3).all fun a => (c.lo.getD a .ninf).le (c.hi.getD a .pinf)

/-- Read a node's children. -/
def State.readNode (s : State) (c : Source) (d : Bvh) (idx : Nat) (instOk : Bool) : State × Except Halt (List Child) :=
  if d.noden ≤ idx then (s, .error (.err 2 idx))
  else match s.record c (d.nodes + 128 * idx) 128 idx with
    | (s, .error h) => (s, .error h)
    | (s, .ok ws) =>
      match nodeChildren d ws instOk with
      | some cs => (s, .ok cs)
      | none => (s, .error (.err 2 idx))

/-! ### Rays (R365-R368) -/

/-- A level of a traversal: the instance it lies in, and the ray in its space. -/
structure Level where
  inst : Option Nat
  o    : V3
  d    : V3
  deriving DecidableEq, Repr

/-- A hit: t, u, v, primitive, instance, face. -/
structure Hit where
  t     : Q
  u     : Q
  v     : Q
  prim  : Nat
  inst  : Option Nat
  front : Bool
  deriving DecidableEq, Repr

/-- A hit child with its entry distance and the node it stands in. -/
structure Kid where
  dist : ER
  c    : Child
  node : Nat
  deriving DecidableEq, Repr

/-- What a traversal still has to do, next first. -/
inductive Work where
  | node (idx : Nat) (lv : Level) (later : List Kid)
  | prims (start count : Nat) (lv : Level)
  | insts (start count : Nat) (lv : Level)
  | entry (k : Kid) (lv : Level)
  deriving DecidableEq, Repr

def Work.isEntry : Work → Bool
  | .entry .. => true
  | _ => false

/-- A ray under way. -/
structure Ray where
  s      : State
  src    : Source
  d      : Bvh
  crew   : Nat
  lane   : Nat
  anyHit : Bool
  flags  : Word
  tmin   : ER
  tcur   : ER
  best   : Option Hit := none
  work   : List Work := []
  halt   : Option Halt := none
  deriving DecidableEq, Repr

/-- The slab test: the entry distance of a box that is hit (R367). -/
def slab (tmin tcur : ER) (lv : Level) (c : Child) : Option ER :=
  if !c.boxOk then none
  else
    let cut (b : ER) (o d : Q) : ER := match b with
      | .fin q => .fin ((q.sub o).div d)
      | .ninf => if d.num < 0 then .pinf else .ninf
      | .pinf => if d.num < 0 then .ninf else .pinf
    let r := (List.range 3).foldl (fun (acc : Option (ER × ER)) a =>
      match acc with
      | none => none
      | some (en, ex) =>
        let o := lv.o.get a
        let d := lv.d.get a
        let lo := c.lo.getD a .ninf
        let hi := c.hi.getD a .pinf
        if d.isZero then (if lo.le (.fin o) && (ER.fin o).le hi then acc else none)
        else
          let t1 := cut lo o d
          let t2 := cut hi o d
          some (en.max (t1.min t2), ex.min (t1.max t2))) (some (tmin, .pinf))
    match r with
    | some (en, ex) => if en.le ex && en.le tcur then some en else none
    | none => none

/-- Insert a kid by its entry distance, ties to the lower slot. -/
def insertKid (k : Kid) : List Kid → List Kid
  | [] => [k]
  | x :: xs => if x.dist.le k.dist then x :: insertKid k xs else k :: x :: xs

/-- The hit children in ascending entry distance. -/
def hitKids (tmin tcur : ER) (lv : Level) (node : Nat) (cs : List Child) : List Kid :=
  cs.foldl (fun ks c => match slab tmin tcur lv c with
    | some t => insertKid ⟨t, c, node⟩ ks
    | none => ks) []

def leafWork (c : Child) (lv : Level) : Work := if c.ty = 2 then .prims c.start c.count lv else .insts c.start c.count lv

/-- Test a triangle (R366). -/
def Ray.triangle (r : Ray) (k : Nat) (lv : Level) : Ray :=
  match r.s.record r.src (r.d.prims + 48 * k) 48 k with
  | (s, .error h) => { r with s := s, halt := some h }
  | (s, .ok ws) =>
    let r := { r with s := s }
    match v3Of ws 0, v3Of ws 3, v3Of ws 6 with
    | some v0, some v1, some v2 =>
      let e1 := v1.sub v0
      let e2 := v2.sub v0
      let det := (e1.cross e2).dot lv.d
      let front := det.num < 0
      if det.isZero || r.flags.getLsbD (if front then 9 else 8) then r
      else
        let pv := lv.d.cross e2
        let dm := e1.dot pv
        let tv := lv.o.sub v0
        let qv := tv.cross e1
        let b := (tv.dot pv).div dm
        let g := (lv.d.dot qv).div dm
        let t := (e2.dot qv).div dm
        let better := match r.best with
          | some h => t.lt h.t
          | none => true
        if b.num < 0 || g.num < 0 || (Q.ofInt 1).lt (b.add g) || !r.tmin.le (.fin t) || !(ER.fin t).le r.tcur || !better then r
        else
          { r with best := some ⟨t, b, g, k, lv.inst, front⟩, tcur := if r.anyHit then r.tcur else .fin t
                   halt := if r.anyHit then some .hit else none }
    | _, _, _ => r

/-- Row a of an instance's matrix applied to a vector, with its last column or without, rounded to f32. -/
def matRow (ws : List Word) (a : Nat) (v : V3) (point : Bool) : Option Q :=
  match v3Of ws (4 * a), fF32.fin (ws.getD (4 * a + 3) 0).toNat with
  | some m, some w =>
    match (if point then (m.dot v).add w else m.dot v).f32 .rne with
    | .fin q => some q
    | _ => none
  | _, _ => none

def matApply (ws : List Word) (v : V3) (point : Bool) : Option V3 :=
  match matRow ws 0 v point, matRow ws 1 v point, matRow ws 2 v point with
  | some x, some y, some z => some ⟨x, y, z⟩
  | _, _, _ => none

/-- Enter an instance (R365); a ray that is not finite in its space has no stated result. -/
def Ray.instance_ (r : Ray) (k : Nat) (lv : Level) : Ray :=
  match r.s.record r.src (r.d.inst + 64 * k) 64 k with
  | (s, .error h) => { r with s := s, halt := some h }
  | (s, .ok ws) =>
    let r := { r with s := s }
    if (ws.getD 13 0).setWidth 8 &&& r.flags.setWidth 8 = 0 then r
    else match matApply ws lv.o true, matApply ws lv.d false with
      | some o, some d => { r with work := .node (ws.getD 12 0).toNat ⟨some k, o, d⟩ [] :: r.work }
      | _, _ => { r with halt := some .open_ }

/-- The stack takes an entry (R368): entries from 16 on are spilled to the crew's scratchpad, where they are
unpredictable. -/
def Ray.push (r : Ray) (k : Kid) (lv : Level) : Ray :=
  if r.halt.isSome then r
  else
    let e := r.work.countP Work.isEntry
    let idx := if k.c.ty = 1 then k.c.start else k.node
    let r' := { r with work := .entry k lv :: r.work }
    if 64 ≤ e || (16 ≤ e && r.d.spill = 0xFFFFFFFF) then { r with halt := some (.err 3 idx) }
    else if e < 16 then r'
    else
      let off := r.d.spill + 384 * r.lane + 8 * (e - 16)
      match r.s.crew? r.crew with
      | none => { r with halt := some (.err 4 idx) }
      | some c =>
        if c.scratchBytes < off + 8 || c.tagged off 8 || r.s.armed c off 8 then { r with halt := some (.err 4 idx) }
        else
          let bs := (List.range 8).map fun n => Config.freeByte (r.s.fresh + n)
          { r' with s := { r.s.engineWriteScratch r.crew off bs with fresh := r.s.fresh + 8 } }

/-- Enter a node (R367): leaves before the nearest inner child, then that child; the others are pushed. -/
def Ray.enter (r : Ray) (idx : Nat) (lv : Level) : Ray :=
  match r.s.readNode r.src r.d idx lv.inst.isNone with
  | (s, .error h) => { r with s := s, halt := some h }
  | (s, .ok cs) =>
    let ks := hitKids r.tmin r.tcur lv idx cs
    let first := ks.takeWhile fun k => k.c.ty != 1
    let leaves := first.map fun k => leafWork k.c lv
    match ks.drop first.length with
    | [] => { r with s := s, work := leaves ++ r.work }
    | k :: later => { r with s := s, work := leaves ++ .node k.c.start lv later :: r.work }

/-- One step of a traversal. -/
def Ray.step (r : Ray) : Ray :=
  match r.work with
  | [] => r
  | .node idx lv later :: ws =>
    let r := later.reverse.foldl (fun r k => r.push k lv) { r with work := ws }
    if r.halt.isSome then r else r.enter idx lv
  | .prims _ 0 _ :: ws => { r with work := ws }
  | .prims k (n + 1) lv :: ws => ({ r with work := .prims (k + 1) n lv :: ws }).triangle k lv
  | .insts _ 0 _ :: ws => { r with work := ws }
  | .insts k (n + 1) lv :: ws => ({ r with work := .insts (k + 1) n lv :: ws }).instance_ k lv
  | .entry k lv :: ws =>
    if r.tcur.lt k.dist then { r with work := ws }
    else if k.c.ty = 1 then { r with work := .node k.c.start lv [] :: ws }
    else { r with work := leafWork k.c lv :: ws }

/-- A traversal to its end.  One that has not ended after 2^64 steps never ends. -/
def Ray.run : Nat → Ray → Ray
  | 0, r => { r with halt := some .wait }
  | n + 1, r => if r.halt.isSome || r.work.isEmpty then r else Ray.run n r.step

def steps : Nat := 2 ^ 64

/-- The record of a ray. -/
def Ray.record (r : Ray) : List Word :=
  match r.best with
  | none => missRecord
  | some h =>
    [if h.front then 0x102 else 2, BitVec.ofNat 32 (h.t.round .rne fF32), BitVec.ofNat 32 h.prim,
      match h.inst with
        | some k => BitVec.ofNat 32 k
        | none => 0xFFFFFFFF,
      BitVec.ofNat 32 (h.u.round .rne fF32), BitVec.ofNat 32 (h.v.round .rne fF32), 0, 0]

/-- The end of a push whose traversal stopped. -/
def haltEnd (s : State) (recs : List (List Word)) : Halt → PushEnd
  | .hit | .limit => .done s recs
  | .err c k => .done s (recs ++ [errorRecord c k])
  | .page va d => .page s va d
  | .wait => .wait
  | .window => .window
  | .open_ => .done { s with fresh := s.fresh + 8 } [freeRecord s.fresh]

/-- A ray push (R365). -/
def rayPush (anyHit : Bool) (q : Push) (w : Wave) (g : Agent) (s : State) : PushEnd :=
  let ws := q.words
  match v3Of ws 0, v3Of ws 4, fF32.er (ws.getD 3 0).toNat, fF32.er (ws.getD 7 0).toNat with
  | some o, some d, some tmin, some tmax =>
    let zero := d.x.isZero && d.y.isZero && d.z.isZero
    if !Bvh.good q.desc 0 || zero || tmin.lt (.fin Q.zero) || (ws.getD 8 0).toNat / 1024 != 0 then .done s [badRecord]
    else if tmax.lt tmin then .done s [missRecord]
    else
      let lv : Level := ⟨none, o, d⟩
      let r : Ray := { s := s, src := ⟨g, q.refused⟩, d := q.desc, crew := w.crew, lane := crewLane w q.lane, anyHit := anyHit
                       flags := ws.getD 8 0, tmin := tmin, tcur := tmax, work := [.node (Bvh.root q.desc) lv []] }
      let r := r.run steps
      match r.halt with
      | some (.err c k) => .done r.s [errorRecord c k]
      | some h => haltEnd r.s [r.record] h
      | none => .done r.s [r.record]
  | _, _, _, _ => .done s [badRecord]

def execRangefinderClosestHit (wave pair lane : Nat) (s : State) : Result := s.runPush wave pair lane 1 (rayPush false)
def execRangefinderAnyHit (wave pair lane : Nat) (s : State) : Result := s.runPush wave pair lane 2 (rayPush true)

/-! ### Raster probe (R369, R370) -/

/-- A triangle of the bin that may be seen: its index, edges and depth plane. -/
structure STri where
  idx   : Nat
  edges : List V3
  depth : V3
  deriving DecidableEq, Repr

/-- The exact value of a plane (a, b, c) at (x, y). -/
def planeAt (p : V3) (x y : Q) : Q := ((p.x.mul x).add (p.y.mul y)).add p.z

/-- The centre of a pixel. -/
def pixelAt (x : Nat) : Q := ⟨2 * x + 1, 2⟩

def STri.covers (t : STri) (x y : Q) : Bool :=
  t.edges.all fun e =>
    let v := planeAt e x y
    0 < v.num || (v.num = 0 && (0 < e.x.num || (e.x.num = 0 && 0 < e.y.num)))

/-- The triangle visible at a pixel: the least depth, ties to the lower index. -/
def visibleAt (ts : List STri) (x y : Nat) : Option Nat :=
  let px := pixelAt x
  let py := pixelAt y
  (ts.foldl (fun (m : Option (ER × Nat)) t =>
    if !t.covers px py then m
    else
      let z := (planeAt t.depth px py).f32 .rne
      match m with
      | none => some (z, t.idx)
      | some (z', k) => if z.lt z' || (z = z' && t.idx < k) then some (z, t.idx) else m) none).map (·.2)

/-- The indices of a bin's list, in order. -/
def State.binList (s : State) (c : Source) (d : Bvh) (first : Nat) : Nat → State × Except Halt (List Nat)
  | 0 => (s, .ok [])
  | n + 1 =>
    match s.record c (d.list + 4 * first) 4 first with
    | (s, .error h) => (s, .error h)
    | (s, .ok ws) =>
      let j := (ws.getD 0 0).toNat
      if d.trin ≤ j then (s, .error (.err 2 j))
      else match s.binList c d (first + 1) n with
        | (s, .ok js) => (s, .ok (j :: js))
        | r => r

/-- The triangles of a list; one with a coefficient that is not finite covers nothing. -/
def State.readTris (s : State) (c : Source) (d : Bvh) : List Nat → State × Except Halt (List STri)
  | [] => (s, .ok [])
  | j :: js =>
    match s.record c (d.tris + 48 * j) 48 j with
    | (s, .error h) => (s, .error h)
    | (s, .ok ws) =>
      match s.readTris c d js with
      | (s, .ok ts) =>
        (s, .ok (match v3Of ws 0, v3Of ws 3, v3Of ws 6, v3Of ws 9 with
          | some a, some b, some e, some z => ⟨j, [a, b, e], z⟩ :: ts
          | _, _, _, _ => ts))
      | r => r

/-- A mean of n pixel centres whose doubled coordinates sum to `sum`, to a multiple of 1/16 with ties to even. -/
def sixteenths (sum n : Nat) : Q := ⟨(roundUnits (8 * sum) n 0 .rne false).1, 16⟩

/-- The record of a probe (R370). -/
def probeRecord (seen : List (Nat × Nat × Nat)) (px py size : Nat) (ts : List STri) : List Word :=
  let count (k : Nat) : Nat := seen.countP fun p => p.2.2 = k
  let best := seen.foldl (fun (m : Option Nat) p => match m with
    | none => some p.2.2
    | some k => if count k < count p.2.2 || (count k = count p.2.2 && p.2.2 < k) then some p.2.2 else m) none
  match best with
  | none => missRecord
  | some k =>
    let mine := seen.filter fun p => p.2.2 = k
    let mask := mine.foldl (fun m p => m + 2 ^ ((p.2.1 - py) * size + (p.1 - px))) 0
    let cx := sixteenths (mine.foldl (fun a p => a + 2 * p.1 + 1) 0) mine.length
    let cy := sixteenths (mine.foldl (fun a p => a + 2 * p.2.1 + 1) 0) mine.length
    let depth := match ts.find? fun t => t.idx = k with
      | some t => (planeAt t.depth cx cy).round .rne fF32
      | none => 0
    [2, BitVec.ofNat 32 depth, BitVec.ofNat 32 k, 0xFFFFFFFF, BitVec.ofNat 32 (cx.round .rne fF32),
      BitVec.ofNat 32 (cy.round .rne fF32), BitVec.ofNat 32 mask, 0]

/-- A probe push (R214, R369). -/
def probePush (q : Push) (_ : Wave) (g : Agent) (s : State) : PushEnd :=
  let d : Bvh := q.desc
  let w0 := q.words.getD 0 0
  let w1 := q.words.getD 1 0
  let px := (w0.extractLsb' 0 16).toNat
  let py := (w0.extractLsb' 16 16).toNat
  let size := 2 ^ w1.toNat
  if !d.goodBins || 2 < w1.toNat || (q.words.drop 2).any (fun x => x != 0) || px % size != 0 || py % size != 0 then
    .done s [badRecord]
  else
    let pixels := ((List.range size).flatMap fun dy => (List.range size).map fun dx => (px + dx, py + dy)).filter fun p =>
      p.1 < d.width && p.2 < d.height
    if pixels.isEmpty then .done s [missRecord]
    else
      let c : Source := ⟨g, q.refused⟩
      let bin := py / 64 * ((d.width + 63) / 64) + px / 64
      match s.record c (d.bins + 8 * bin) 8 bin with
      | (s, .error h) => haltEnd s [] h
      | (s, .ok ws) =>
        match s.binList c d (ws.getD 0 0).toNat (ws.getD 1 0).toNat with
        | (s, .error h) => haltEnd s [] h
        | (s, .ok js) =>
          match s.readTris c d js with
          | (s, .error h) => haltEnd s [] h
          | (s, .ok ts) =>
            let seen := pixels.filterMap fun p => (visibleAt ts p.1 p.2).map fun k => (p.1, p.2, k)
            .done s [probeRecord seen px py size ts]

def execRangefinderRasterProbe (wave pair lane : Nat) (s : State) : Result := s.runPush wave pair lane 3 probePush

/-! ### Tree query (R371) -/

/-- A query under way: the centre, the matches found (squared distance, item index), and what is still to do. -/
structure Query where
  s      : State
  src    : Source
  d      : Bvh
  kind   : Nat
  centre : List ER
  r2     : ER
  low    : ER
  high   : ER
  /-- Matches that may be emitted in traversal order; none without a limit, or for k-nearest. -/
  limit  : Option Nat
  found  : List (ER × Nat) := []
  work   : List (Bool × Nat × Nat) := []
  halt   : Option Halt := none
  deriving DecidableEq, Repr

/-- The squared distance from a point to a box, whose bounds may be infinite. -/
def boxDist (p : List ER) (c : Child) : ER :=
  (List.range 3).foldl (fun acc a =>
    let x := p.getD a .ninf
    let lo := c.lo.getD a .ninf
    let hi := c.hi.getD a .pinf
    let e := if x.lt lo then lo.sub x else if hi.lt x then x.sub hi else some (.fin Q.zero)
    acc.addPos (e.getD (.fin Q.zero)).sq) (.fin Q.zero)

/-- The squared distance of two points; none where the difference of an infinity with itself, or a NaN, leaves none. -/
def pointDist (p : List (Option ER)) (c : List ER) : Option ER :=
  (List.range 3).foldl (fun acc a =>
    match acc, ((p.getD a none).bind fun x => x.sub (c.getD a .ninf)) with
    | some r, some e => some (r.addPos e.sq)
    | _, _ => none) (some (.fin Q.zero))

def Query.enters (q : Query) (c : Child) : Bool :=
  c.boxOk && (if q.kind = 2 then (c.lo.getD 0 .ninf).le q.high && q.low.le (c.hi.getD 0 .pinf)
    else (boxDist q.centre c).le q.r2)

/-- Test one item. -/
def Query.item (q : Query) (k : Nat) : Query :=
  match q.s.record q.src (q.d.prims + 16 * k) 16 k with
  | (s, .error h) => { q with s := s, halt := some h }
  | (s, .ok ws) =>
    let q := { q with s := s }
    let id := (ws.getD 3 0).toNat
    let at_ (k : Nat) : Option ER := fF32.er (ws.getD k 0).toNat
    let dist : Option ER :=
      if q.kind = 2 then (at_ 0).bind fun x => if q.low.le x && x.le q.high then some (.fin Q.zero) else none
      else (pointDist [at_ 0, at_ 1, at_ 2] q.centre).bind fun r => if r.le q.r2 then some r else none
    match dist with
    | none => q
    | some x =>
      if q.limit = some q.found.length then { q with halt := some .limit } else { q with found := q.found ++ [(x, id)] }

/-- One step of a query: an item, or a node's children in ascending slot. -/
def Query.step (q : Query) : Query :=
  match q.work with
  | [] => q
  | (true, _, 0) :: ws => { q with work := ws }
  | (true, k, n + 1) :: ws => ({ q with work := (true, k + 1, n) :: ws }).item k
  | (false, k, _) :: ws =>
    match q.s.readNode q.src q.d k false with
    | (s, .error h) => { q with s := s, halt := some h, work := ws }
    | (s, .ok cs) =>
      { q with s := s, work := ((cs.filter q.enters).map fun c => (decide (c.ty = 2), c.start, c.count)) ++ ws }

def Query.run : Nat → Query → Query
  | 0, q => { q with halt := some .wait }
  | n + 1, q => if q.halt.isSome || q.work.isEmpty then q else Query.run n q.step

def itemRecord (kind : Nat) (p : ER × Nat) : List Word :=
  [5, if kind = 2 then 0 else BitVec.ofNat 32 (p.1.round .rne fF32), BitVec.ofNat 32 p.2, 0, 0, 0, 0, 0]
def doneRecord (n : Nat) (stopped : Bool) : List Word :=
  [BitVec.ofNat 24 n ++ 6#8, 0, if stopped then 1 else 0, 0, 0, 0, 0, 0]

/-- Insert a match by squared distance, ties to the lower item index. -/
def insertMatch (m : ER × Nat) : List (ER × Nat) → List (ER × Nat)
  | [] => [m]
  | x :: xs => if x.1.lt m.1 || (x.1.le m.1 && x.2 ≤ m.2) then x :: insertMatch m xs else m :: x :: xs

/-- The records of a query that has ended. -/
def Query.records (q : Query) (k limit : Nat) : List (List Word) :=
  if q.kind = 1 then
    let near := (q.found.foldl (fun l m => insertMatch m l) []).take k
    let out := if limit = 0 then near else near.take limit
    out.map (itemRecord 1) ++ [doneRecord out.length (out.length < near.length)]
  else q.found.map (itemRecord q.kind) ++ [doneRecord q.found.length (q.halt = some .limit)]

/-- A query push (R371). -/
def queryPush (p : Push) (_ : Wave) (g : Agent) (s : State) : PushEnd :=
  let w (k : Nat) : Word := p.words.getD k 0
  let kind := (w 0).toNat % 4
  let er (k : Nat) : Option ER := fF32.er (w k).toNat
  let reserved := (w 0) &&& 0xFFFFF0FC != 0 || w 6 != 0 || w 7 != 0 || w 8 != 0 || (kind = 2 && w 3 != 0)
  match er 1, er 2, er 3, er 4 with
  | some x, some y, some z, some r =>
    if !Bvh.good p.desc 1 || reserved || kind = 3 || r.lt (.fin Q.zero) || (kind = 1 && r.le (.fin Q.zero)) then .done s [badRecord]
    else
      let limit := (w 5).toNat
      let q : Query :=
        { s := s, src := ⟨g, p.refused⟩, d := p.desc, kind := kind, centre := [x, y, z], r2 := r.sq, low := x, high := y
          limit := if kind = 1 || limit = 0 then none else some limit, work := [(false, Bvh.root p.desc, 1)] }
      let q := q.run steps
      match q.halt with
      | some .limit | none => .done q.s (q.records ((w 0).toNat / 256 % 16 + 1) limit)
      | some h => haltEnd q.s (if kind = 1 then [] else q.found.map (itemRecord kind)) h
  | _, _, _, _ => .done s [badRecord]

def execRangefinderTreeQuery (wave pair lane : Nat) (s : State) : Result := s.runPush wave pair lane 4 queryPush

end Sys2Proof.Machine
end

