-- ==== Sys2Proof/Machine/Scanout.lean ====
section
/-!
DEFINITION. Scanout of a site (15 R354, R356-R359): ST_SCAN, scan starts, the posts of Developer tasks and the rows sent to
the display.
-/
namespace Sys2Proof.Machine

/-! ### The descriptor (R356) -/

def scanTempl (d : BitVec 512) : Nat := (d.extractLsb' 274 46).toNat * 64
def scanQueue (d : BitVec 512) : Nat := (d.extractLsb' 228 46).toNat * 64
def scanPrint (d : BitVec 512) : Nat := (d.extractLsb' 182 46).toNat * 64
def scanStartAt (d : BitVec 512) : Nat := (d.extractLsb' 64 64).toNat
def scanPeriod (d : BitVec 512) : Nat := (d.extractLsb' 32 32).toNat
def Scan.descAt (c : Scan) : Nat := (c.reg.extractLsb' 6 46).toNat * 64

def State.updScan (s : State) (site : Nat) (f : Scan → Scan) : State := s.updSite site fun t => { t with scan := f t.scan }

/-- S_0: the first boundary at least 1 µs away (R354). -/
def firstScan (now start period : Nat) : Nat := start + (now + 1000 - start + period - 1) / period * period

/-- A write of ST_SCAN by a task of a launch: both counts clear; with EN set, the descriptor's snapshot and S_0. -/
def State.writeScan (s : State) (site launch : Nat) (v : DWord) : Result :=
  let was := (s.site site).scan.reg.getLsbD 0
  let s := s.updScan site fun c =>
    { c with reg := 0#12 ++ v.extractLsb' 6 46 ++ 0#5 ++ v.extractLsb' 0 1, launch := launch, late := 0, skip := 0 }
  if was || !v.getLsbD 0 then .next s
  else match s.unitRead .scanout site launch (s.site site).scan.descAt 64 true with
    | .ok s bs =>
      let d := BitVec.ofNat 512 (ofBytes bs)
      .next (s.updScan site fun c =>
        { c with desc := d, on := true, first := true, band := 240, period := scanPeriod d
                 start := BitVec.ofNat 64 (firstScan s.timer.toNat (scanStartAt d) (scanPeriod d)) })
    | .poison s | .none s => .next (s.updScan site fun c => { c with on := false })
    | .window => .refused .deviceWindow

/-- The launch that a register write is made for. -/
def State.writeLaunch (s : State) (w : RegWrite) (dflt : Nat) : Nat :=
  match (w.wave.bind s.wave?).bind fun w => s.crew? w.crew with
  | some c => c.launch
  | none => dflt

/-- A write of ST_SCAN with EN = 1. -/
def execScanEnable (w : RegWrite) (s : State) : Result :=
  if w.value.getLsbD 0 then s.writeScan w.site (s.writeLaunch w (s.site w.site).scan.launch) w.value else .next s
/-- A write of ST_SCAN with EN = 0. -/
def execScanDisable (w : RegWrite) (s : State) : Result :=
  if w.value.getLsbD 0 then .next s else s.writeScan w.site (s.writeLaunch w (s.site w.site).scan.launch) w.value

/-! ### SCAN_START (R354, R356) -/

/-- The start of the next scan. -/
def Scan.next (c : Scan) : Nat := if c.first then c.start.toNat else c.start.toNat + c.period

/-- A scan's boundary has come. -/
def State.scanDue (s : State) (site : Nat) : Bool :=
  let c := (s.site site).scan
  c.on && c.band = 240 && c.next ≤ s.timer.toNat

/-- A scan starts, and the descriptor is read again; with EN = 0 scanning stops, and the rows are black. -/
def execScanStart (site : Nat) (s : State) : Result :=
  if !s.scanDue site then .next s
  else
    let c := (s.site site).scan
    if !c.reg.getLsbD 0 then .next (s.updScan site fun c => { c with on := false, out := [] })
    else
      let begin_ (s : State) (d : BitVec 512) : Result := .next (s.updScan site fun c =>
        { c with desc := d, band := 0, first := false, start := BitVec.ofNat 64 c.next, period := scanPeriod d
                 scan := if c.first then 0 else c.scan + 1 })
      match s.unitRead .scanout site c.launch c.descAt 64 true with
      | .ok s bs => begin_ s (BitVec.ofNat 512 (ofBytes bs))
      | .poison s | .none s => begin_ s c.desc
      | .window => .refused .deviceWindow

/-! ### The Developer task of a band (R358) -/

def satInc16 (x : BitVec 16) : BitVec 16 := if x = 0xFFFF then x else x + 1

/-- The record of band b of scan n, which starts at `start`. -/
def bandRecord (templ : BitVec 512) (print n b start : Nat) : BitVec 512 :=
  let row := print + 4096 + 58982400 * (n % 2) + 15360 * (16 * b)
  let args : BitVec 192 := BitVec.ofNat 64 row ++ BitVec.ofNat 64 start ++ BitVec.ofNat 56 n ++ BitVec.ofNat 8 b
  args ++ BitVec.ofNat 64 (2 ^ 61 + (240 * n + b) % 2 ^ 61) ++ templ.extractLsb' 0 256

/-- Post the task of band b of scan n, unless its previous task has not completed. -/
def State.postBand (s : State) (site n b start : Nat) : Result :=
  let c := (s.site site).scan
  if c.developers.any fun d => d.1 = b then .next (s.updScan site fun c => { c with skip := satInc16 c.skip })
  else match s.unitRead .scanout site c.launch (scanTempl c.desc) 64 true with
    | .window => .refused .deviceWindow
    | .poison s | .none s => .next s
    | .ok s bs =>
      let r := bandRecord (BitVec.ofNat 512 (ofBytes bs)) (scanPrint c.desc) n b start
      if !s.recordOk r then .next s
      else match s.unitAt site c.launch (scanQueue c.desc) 64 true { r := true } with
        | .window => .refused .deviceWindow
        | .page s _ | .bad s _ _ => .next s
        | .held => .next s
        | .ok s pa =>
          if !s.queueReach site pa then .next s
          else match (s.offerTrip .scanout site pa).pushQueue pa r .site with
            | .window => .refused .deviceWindow
            | .held => .next s
            | .done s 0 =>
              .next (s.updScan site fun c => { c with developers := c.developers ++ [(b, r)] })
            | .done s _ => .next s

/-! ### The rows of a band (R357, R359) -/

/-- The start of band b of the current scan. -/
def Scan.bandAt (c : Scan) (b : Nat) : Nat := c.start.toNat + 16 * b * c.period / 3840

def State.bandDue (s : State) (site : Nat) : Bool :=
  let c := (s.site site).scan
  c.on && c.band < 240 && c.bandAt c.band ≤ s.timer.toNat

/-- The copy that band words show in scan n, and its value: the largest not above n + 1; 0 is an empty copy. -/
def chooseCopy (fresh n : Nat) (w : BitVec 128) : Option (Nat × Nat) :=
  let cs := [(0, (w.extractLsb' 0 64).toNat), (1, (w.extractLsb' 64 64).toNat)].filter fun p => p.2 != 0 && p.2 ≤ n + 1
  let top := cs.foldl (fun m p => max m p.2) 0
  anyOf fresh (cs.filter fun p => p.2 = top)

/-- The bytes of n lines from an address that differ from black, by offset; those of a line that cannot be read are free. -/
def State.rowBytes (s : State) (site launch va off : Nat) : Nat → Option (State × List (Nat × Byte))
  | 0 => some (s, [])
  | n + 1 =>
    let keep (bs : List Byte) : List (Nat × Byte) := (bs.mapIdx fun k b => (off + k, b)).filter fun p => p.2 != 0
    let free := (List.range 64).map fun k => Config.freeByte (s.fresh + k)
    let go (s : State) (bs : List Byte) : Option (State × List (Nat × Byte)) :=
      (s.rowBytes site launch (va + 64) (off + 64) n).map fun r => (r.1, keep bs ++ r.2)
    match s.unitRead .scanout site launch va 64 true with
    | .ok s bs => go s bs
    | .poison s | .none s => go { s with fresh := s.fresh + 64 } free
    | .window => none

/-- The band words of band b. -/
def State.bandWords (s : State) (site b : Nat) : Option (State × BitVec 128) :=
  let c := (s.site site).scan
  match s.unitRead .scanout site c.launch (scanPrint c.desc + 16 * b) 16 true with
  | .ok s bs => some (s, BitVec.ofNat 128 (ofBytes bs))
  | .poison s => some ({ s with fresh := s.fresh + 2 }, Config.freeWord s.fresh ++ Config.freeWord (s.fresh + 1))
  | .none s => some (s, 0)
  | .window => none

/-- Scanout shows band b: the copy chosen, its 16 rows, and LATE; rows are discarded while no display is there (R400). -/
def State.showBand (s : State) (site b : Nat) : Option State :=
  match s.bandWords site b with
  | none => none
  | some (s, w) =>
    let c := (s.site site).scan
    match chooseCopy s.fresh c.scan.toNat w with
    | none => some ({ s with fresh := s.fresh + 1 }.updScan site fun c => { c with out := [] })
    | some (k, v) =>
      let s := { s with fresh := s.fresh + 1 }.updScan site fun c =>
        { c with late := if v = c.scan.toNat + 1 then c.late else satInc16 c.late }
      match s.rowBytes site c.launch (scanPrint c.desc + 4096 + 58982400 * k + 15360 * (16 * b)) 0 3840 with
      | none => none
      | some (s, cells) => some (s.updScan site fun d => { d with out := if (s.site site).dpPresent then cells else [] })

/-- At a band's start its rows are shown and the next band's task is posted. -/
def execScanoutBandStart (site : Nat) (s : State) : Result :=
  if !s.bandDue site then .next s
  else
    let b := (s.site site).scan.band
    match s.showBand site b with
    | none => .refused .deviceWindow
    | some s =>
      let s := s.updScan site fun c => { c with band := b + 1 }
      let c := (s.site site).scan
      if b + 1 < 240 then s.postBand site c.scan.toNat (b + 1) (c.bandAt (b + 1))
      else if c.reg.getLsbD 0 then s.postBand site (c.scan.toNat + 1) 0 c.next
      else .next s

/-- ST_SCANSTAT. -/
def Scan.stat (c : Scan) : DWord := c.scan.extractLsb' 0 32 ++ c.late ++ c.skip

end Sys2Proof.Machine
end

