-- ==== Sys2Proof/Machine/System.lean ====
section
/-!
DEFINITION. System registers (08 R238-R241, and each register's own rule), trap, the clocks and the draws (08 R242-R244),
and the commands of ST_QCMD (14 R326).
-/
namespace Sys2Proof.Machine

/-! ### Reading a register -/

/-- The unprivileged registers for a lane (R239). -/
def State.ownReg (s : State) (w : Wave) (c : Crew) (l n : Nat) : DWord :=
  let x := w.lane l
  match n with
  | 0x000 => BitVec.ofNat 64 l
  | 0x001 => BitVec.ofNat 64 w.num
  | 0x002 => BitVec.ofNat 64 c.slot
  | 0x003 => BitVec.ofNat 64 (s.crewWaves c.key).length
  | 0x004 => (recGangId c.record).setWidth 64
  | 0x005 => (recGrank c.record).setWidth 64
  | 0x006 => recTindex c.record
  | 0x007 => BitVec.ofNat 64 (w.core % 96)
  | 0x008 => BitVec.ofNat 64 (w.cluster % 12)
  | 0x009 => BitVec.ofNat 64 w.site
  | 0x00A => w.fpcr.setWidth 64
  | 0x00B => x.fpsr.setWidth 64
  | 0x00C => match s.launch? c.launch with
    | some la => la.seed
    | none => 0
  | 0x00D => x.pc.setWidth 64
  | 0x00E => x.draws0.setWidth 64
  | _ => x.draws1.setWidth 64

/-- The WV_ registers for a lane (R241). -/
def State.waveReg (w : Wave) (c : Crew) (l n : Nat) : DWord :=
  match n with
  | 0x1000 => (recLaunch c.record).setWidth 64
  | 0x1001 => (c.record.extractLsb' 64 8).setWidth 64
  | 0x1002 => BitVec.ofNat 64 (w.slot + 256 * w.quarter)
  | _ => (w.lane l).retired

/-- The ST_ registers of a site; a write-only one reads 0 (R301, R326, R333, R338, R348, R356, R380, R399, R409). -/
def State.siteReg (s : State) (core n : Nat) : DWord :=
  let t := s.site (core / 96)
  match n with
  | 0x3020 => t.tlbLaunch.setWidth 64
  | 0x3030 => t.sched
  | 0x3032 => t.pool.setWidth 64
  | 0x3040 => t.meter.word.setWidth 64
  | 0x3041 => t.meter.seed
  | 0x3042 => t.meter.epoch
  | 0x3050 => t.scan.reg
  | 0x3051 => t.scan.stat
  | 0x3060 => t.neg.stat
  | 0x3070 => s.hsCount.setWidth 64
  | 0x3080 => (s.core core).poles.setWidth 64
  | 0x3081 => t.poleLoft
  | _ => 0

/-- A register of the window that LNK_SEL names (R384). -/
def Site.windowReg (e : Site) (modn n : Nat) : DWord :=
  match n with
  | 0x4003 => (e.mod modn).wmod
  | 0x4004 => (e.mod modn).wbad
  | 0x4005 => (e.mod modn).wmap
  | 0x4006 => e.lnkTx
  | 0x4007 => e.lnkRx
  | _ => e.lnkRs

/-- The LNK_ registers as a site reads them (R384). -/
def State.linkReg (s : State) (site n : Nat) : DWord :=
  match n with
  | 0x4000 => s.lnkStat.setWidth 64
  | 0x4001 => if s.pause then 1 else 0
  | 0x4002 => (s.site site).lnkSel.setWidth 64
  | n => if s.farDown site then 0 else (s.site (s.lnkEnd site)).windowReg (s.lnkMod site) n

/-- PWR_THR of a cluster (R403). -/
def Cluster.thrWord (c : Cluster) : Word := (if c.thr then 0x10000 else 0) + BitVec.ofNat 32 (c.mhz % 65536)

/-- The PWR_, TMR_, RAS_ and SNAP_ registers (R390, R401, R403, R410, R415). -/
def State.moduleReg (s : State) (core n : Nat) : DWord :=
  let t := s.site (core / 96)
  match n with
  | 0x5000 | 0x5001 | 0x5002 | 0x5003 => (s.opp.getD (n - 0x5000) 0).setWidth 64
  | 0x5010 => (s.cluster (core / 8)).thrWord.setWidth 64
  | 0x6000 => t.tmrStat.setWidth 64
  | 0x6001 => t.tmrOffset
  | 0x6002 => t.tmrRate.setWidth 64
  | 0x6003 => t.tmrGmid
  | 0x6004 => t.tmrSkew.setWidth 64
  | 0x8000 => s.snapCtl.setWidth 64
  | 0x8001 => s.snapTime
  | 0x8002 => s.snapAt
  | 0x8003 => s.snapSel.setWidth 64
  | 0x8004 => (Config.snapWord s.snapDraw s.snapSel).setWidth 64
  | _ => if 0x7000 ≤ n && n < 0x7010 then (t.rasCnt.getD (n - 0x7000) 0).setWidth 64 else 0

/-- What a lane of a wave reads from a register. -/
def State.readReg (s : State) (w : Wave) (c : Crew) (l n : Nat) : DWord :=
  if n < 0x1000 then s.ownReg w c l n
  else if n < 0x2000 then State.waveReg w c l n
  else if n = 0x2010 then (s.cluster w.cluster).issue.setWidth 64
  else if n = 0x2011 then (s.cluster w.cluster).slope.setWidth 64
  else if n < 0x4000 then s.siteReg w.core n
  else if n < 0x5000 then s.linkReg w.site n
  else s.moduleReg w.core n

/-- Only a privileged task reads the register (R240). -/
def readPriv (n : Nat) : Bool := (0x1000 ≤ n && n < 0x2000) || 0x4000 ≤ n

/-- The issuing wave's task is privileged. -/
def Issue.priv (i : Issue) : Bool :=
  match i.s.crew? i.w.crew with
  | some c => c.priv
  | none => false

/-- A read of register n (R238): per lane, a 64-bit register into a pair. -/
def sysrEff (i : Issue) (d : Sel) (n : Nat) (wide : Bool) : Eff :=
  match i.s.crew? i.w.crew with
  | none => { s := i.s }
  | some c =>
    if readPriv n && !c.priv then trapAll i 0x03 0
    else elemEff i (.dense 1 1) (if wide then 2 else 1) false false d fun l _ => .ok (i.s.readReg i.w c l n, 0)

def execSysr (x : LI) (s : State) : Result :=
  issue (.sysr x) (fun i => sysrEff i x.d x.imm.toNat (Instr.parts.sysWide x.imm)) s

/-- ST_HSCOUNT: an acquire at device scope for the records it counts (R399). -/
def execHscountRead (x : LI) (s : State) : Result :=
  issue (.hscountRead x) (fun i =>
    let e := sysrEff i x.d 0x3070 false
    if i.act.isEmpty then e else { e with s := e.s.acquireAt i.w.core i.w.key .device }) s

/-! ### Writing a register -/

/-- PWR_OPP: a clock of 400 to 1,400 MHz in steps of 25 (R401). -/
def oppWrite (old v : Word) : Word :=
  let m := (v.extractLsb' 0 16).toNat
  if 400 ≤ m && m ≤ 1400 && m % 25 = 0 then BitVec.ofNat 32 m else old

/-- A command of ST_QCMD of a task: its descriptor lies at a virtual address of its launch (R326, R417). -/
def qcmdEff (i : Issue) (v : DWord) : Eff :=
  let g := i.agent
  let op := v.extractLsb' 0 2
  let va := qcmdDesc v
  if op = 0 then { s := i.s }
  else match i.s.unitAt i.w.site g.launch va 64 true { r := true } with
    | .window => { s := i.s, stop := some .deviceWindow }
    | .page s d => trapAll { i with s := s } 0x05 d (some (BitVec.ofNat 64 va))
    | .bad s c d => trapAll { i with s := s } c d (some (BitVec.ofNat 64 va))
    | .held => i.linkHeld
    | .ok s pa =>
      if !s.qcmdReach i.w.site op pa then i.linkHeld
      else { s := (((s.flushRange i.w.core pa 64).offerTrip .scheduler i.w.site pa).queueCmd op pa).1 }

/-- A write of a plain register of the issuing site, cluster or module. -/
def State.writeReg (s : State) (w : Wave) (n : Nat) (v : DWord) : State :=
  let x : Word := v.setWidth 32
  match n with
  | 0x2010 => s.updCluster w.cluster fun c => { c with issue := x &&& 0xFF03 }
  | 0x2011 => s.updCluster w.cluster fun c => { c with slope := x &&& 0xFF }
  | 0x3020 => s.updSite w.site fun t => { t with tlbLaunch := x &&& 0xFFFF }
  | 0x3030 => s.updSite w.site fun t => { t with sched := v }
  | 0x3032 => s.writePool w.site x
  | 0x3040 => s.writeMeter w.site x
  | 0x3041 => s.updSite w.site fun t => { t with meter := { t.meter with seed := v } }
  | 0x3042 => s.updSite w.site fun t => { t with meter := { t.meter with epoch := v } }
  | 0x3061 => s.writeNegClear w.site v
  | 0x4001 => s.writeLnkCtl x
  | 0x4002 => s.writeLnkSel w.site x
  | 0x4003 => s.writeWmod w.site v
  | 0x4005 => s.writeWmap w.site v
  | 0x5000 | 0x5001 | 0x5002 | 0x5003 => { s with opp := s.opp.modify (n - 0x5000) fun o => oppWrite o x }
  | 0x7010 => s.rasClear w.site x
  | 0x8000 => s.writeSnapCtl x
  | 0x8001 => s.writeSnapTime v
  | 0x8003 => { s with snapSel := x }
  | _ => s

/-- A value of a sysw from a lane, or LATCH_LOST for all (R52). -/
def syswValue (i : Issue) (a : Sel) (wide : Bool) (l : Nat) : Except (BitVec 16) DWord := readOne i.w l wide a

/-- What a wave's SO access comes after: its entries in the side log, and its reads that have waited on them or lead (R282);
none while one must still wait. -/
def Issue.afterLog (i : Issue) : Option Issue :=
  if i.s.waveLogged i.w.core i.w.key then none
  else match i.s.forceLoads i.w.key allSlots LaneLoad.onLog with
    | (_, false) => none
    | (s, true) => some { i with s := s, w := (s.wave? i.w.key).getD i.w }

/-- sysw of a privileged register: the value of the lowest acting lane, in issue order like an SO access (R240). -/
def syswEff (i : Issue) (a : Sel) (n : Nat) (wide : Bool) : Eff :=
  if !i.priv then trapAll i 0x03 0
  else match syswValue i a wide (onceLane i.act), i.afterLog with
    | .error d, _ => trapAll i 0x02 d
    | .ok _, none => { s := i.s, hold := true }
    | .ok v, some i =>
      if n = 0x3021 then
        match i.s.tlbinv (tlbinvSites i.w.site v) (i.s.site i.w.site).tlbLaunch.toNat v with
        | some s => { s := s }
        | none => { s := i.s, hold := true }
      else if n = 0x3031 then qcmdEff i v
      else if n = 0x3050 then
        match i.s.writeScan i.w.site i.agent.launch v with
        | .next s => { s := s }
        | .refused r => { s := i.s, stop := some r }
        | .fault _ => { s := i.s }
      else { s := i.s.writeReg i.w n v }

def execSysw (x : LI) (s : State) : Result :=
  issue (.sysw x) (fun i => once i (syswEff i x.a x.imm.toNat (Instr.parts.sysWide x.imm))) s

/-- fpcr: the value of the lowest acting lane (R76, R239). -/
def execFpcrWrite (x : LI) (s : State) : Result :=
  issue (.fpcrWrite x) (fun i => once i (match syswValue i x.a false (onceLane i.act) with
    | .error d => trapAll i 0x02 d
    | .ok v => { s := i.s.setWave { i.w with fpcr := writeFpcr i.w.fpcr (v.setWidth 32) } })) s

/-- fpsr: each lane's own (R77, R239). -/
def execFpsrWrite (x : LI) (s : State) : Result :=
  issue (.fpsrWrite x) (fun i => once i (match syswValue i x.a false (onceLane i.act) with
    | .error d => trapAll i 0x02 d
    | .ok _ => { s := i.s.setWave (i.w.updLanes i.act fun l y =>
        match syswValue i x.a false l with
        | .ok v => { y with fpsr := writeFpsr (v.setWidth 32) }
        | .error _ => y) })) s

/-! ### trap and the clocks (R242, R243) -/

def execTrap (x : LI) (s : State) : Result :=
  issue (.trap x) (fun i => trapAll i 0x40 (x.imm.extractLsb' 0 16)) s

/-- The issuing task has DET = 1. -/
def Issue.det (i : Issue) : Bool :=
  match i.s.crew? i.w.crew with
  | some c => recDet c.record
  | none => false

/-- A 64-bit clock, or the lane's retired count in a deterministic task. -/
def clockEff (i : Issue) (x : LR) (v : DWord) : Eff :=
  elemEff i (.dense 1 1) 2 false false x.d fun l _ => .ok (if i.det then (i.w.lane l).retired else v, 0)

def execTime (x : LR) (s : State) : Result := issue (.time x) (fun i => clockEff i x i.s.timer) s
def execCycles (x : LR) (s : State) : Result :=
  issue (.cycles x) (fun i => clockEff i x (i.s.cluster i.w.cluster).cycles) s

/-! ### rand (R244) -/

/-- The value of a draw. -/
def drawValue (t : RandTy) (c : Ctr) : DWord :=
  let y : DWord := c.c1 ++ c.c0
  match t with
  | .i32 | .n32 => c.c0.setWidth 64
  | .i64 | .n64 => y
  | .f32 => BitVec.ofNat 64 (fF32.roundDyad .rne ⟨(c.c0.extractLsb' 8 24).toNat, -24⟩ false).bits
  | .f64 => BitVec.ofNat 64 (fF64.roundDyad .rne ⟨(y.extractLsb' 11 53).toNat, -53⟩ false).bits

/-- The draw of a lane of the issuing wave at a stream and an index. -/
def Issue.draw (i : Issue) (l : Nat) (stream : BitVec 16) (idx : Word) : Ctr :=
  match i.s.crew? i.w.crew with
  | none => philox 0 (drawCtr idx stream (crewLane i.w l) 0)
  | some c =>
    let seed := match i.s.launch? c.launch with
      | some la => la.seed
      | none => 0
    philox seed (drawCtr idx stream (crewLane i.w l) (recTindex c.record))

/-- The block of rand: dense, from F10. -/
def drawExt (x : LE) : Ext := .dense ((x.f10.extractLsb' 0 3).toNat + 1) ((x.f10.extractLsb' 3 3).toNat + 1)

/-- A 32-bit operand of rand: s, v or inline. -/
def randOperand (i : Issue) (l : Nat) (x : Sel) : Word :=
  match readOne i.w l false x with
  | .ok v => v.setWidth 32
  | .error _ => 0

/-- Without X each element written takes the counter's current value and advances it: a resumed fragment draws for the
elements from its ELEM on (R92, R244). -/
def execRand (x : LE) (t : RandTy) (s : State) : Result :=
  issue (.rand x t) (fun i =>
    let e := drawExt x
    if x.f10.getLsbD 7 then
      elemEff i e t.regs (t = .i32 || t = .i64) false x.d fun l n =>
        .ok (drawValue t (i.draw l ((randOperand i l x.b).setWidth 16) (randOperand i l x.c + BitVec.ofNat 32 n)), 0)
    else
      let s' := i.s.setWave (i.w.updLanes i.act fun _ y => { y with draws0 := y.draws0 + BitVec.ofNat 32 (e.count - i.first) })
      elemEff { i with s := s' } e t.regs (t = .i32 || t = .i64) false x.d fun l n =>
        .ok (drawValue t (i.draw l 0 ((i.w.lane l).draws0 + BitVec.ofNat 32 (n - i.first))), 0)) s

/-! ### ST_QCMD as the step of its site (R326) -/

/-- The descriptor that a command names: physical for the host's, virtual for a task's. -/
def State.qcmdPa (s : State) (w : RegWrite) : Option Nat :=
  match w.wave with
  | none => if isMemory (qcmdDesc w.value) then some (qcmdDesc w.value) else none
  | some k => match s.opAgent k with
    | none => none
    | some g => match s.unitAt w.site g.launch (qcmdDesc w.value) 64 true { r := true } with
      | .ok s pa => if s.qcmdReach w.site (w.value.extractLsb' 0 2) pa then some pa else none
      | _ => none

/-- A command with a given OP. -/
def State.qcmdStep (s : State) (w : RegWrite) (op : BitVec 2) : State :=
  if w.value.extractLsb' 0 2 != op then s
  else match s.qcmdPa w with
    | some pa => { (s.queueCmd op pa).1 with held := [] }
    | none => s

def execQcmdOpen (w : RegWrite) (s : State) : Result := .next (s.qcmdStep w 1)
def execQcmdClose (w : RegWrite) (s : State) : Result := .next (s.qcmdStep w 2)
def execQcmdRemove (w : RegWrite) (s : State) : Result := .next (s.qcmdStep w 3)

end Sys2Proof.Machine
end

