-- ==== Sys2Proof/Machine/Dispatch.lean ====
section
/-!
DEFINITION. The meaning of each instruction and step: one arm per constructor of Instr.
-/
namespace Sys2Proof.Machine

def exec (i : Instr) (s : State) : Host.Outcome State Fault Refusal :=
  match i with
  | .mov x t => Sys2Proof.Machine.execMov x t s
  | .movLi x t => Sys2Proof.Machine.execMovLi x t s
  | .movLk x t => Sys2Proof.Machine.execMovLk x t s
  | .movShort x => Sys2Proof.Machine.execMovShort x s
  | .movQPush x t => Sys2Proof.Machine.execMovQPush x t s
  | .movQPop x => Sys2Proof.Machine.execMovQPop x s
  | .iadd x t sat => Sys2Proof.Machine.execIadd x t sat s
  | .iaddLi x t sat => Sys2Proof.Machine.execIaddLi x t sat s
  | .iaddShort x => Sys2Proof.Machine.execIaddShort x s
  | .isub x t sat => Sys2Proof.Machine.execIsub x t sat s
  | .isubLi x t sat => Sys2Proof.Machine.execIsubLi x t sat s
  | .isubShort x => Sys2Proof.Machine.execIsubShort x s
  | .imul x t => Sys2Proof.Machine.execImul x t s
  | .imulLi x t => Sys2Proof.Machine.execImulLi x t s
  | .imulh x t => Sys2Proof.Machine.execImulh x t s
  | .imad x t => Sys2Proof.Machine.execImad x t s
  | .imadWide x t => Sys2Proof.Machine.execImadWide x t s
  | .idiv x t => Sys2Proof.Machine.execIdiv x t s
  | .irem x t => Sys2Proof.Machine.execIrem x t s
  | .iabs x t sat => Sys2Proof.Machine.execIabs x t sat s
  | .ineg x t sat => Sys2Proof.Machine.execIneg x t sat s
  | .imin x t => Sys2Proof.Machine.execImin x t s
  | .iminLi x t => Sys2Proof.Machine.execIminLi x t s
  | .iminShort x => Sys2Proof.Machine.execIminShort x s
  | .imax x t => Sys2Proof.Machine.execImax x t s
  | .imaxLi x t => Sys2Proof.Machine.execImaxLi x t s
  | .imaxShort x => Sys2Proof.Machine.execImaxShort x s
  | .addc x t co => Sys2Proof.Machine.execAddc x t co s
  | .subc x t co => Sys2Proof.Machine.execSubc x t co s
  | .lea x t sc => Sys2Proof.Machine.execLea x t sc s
  | .leaLi x t sc => Sys2Proof.Machine.execLeaLi x t sc s
  | .and x t => Sys2Proof.Machine.execAnd x t s
  | .andLi x t => Sys2Proof.Machine.execAndLi x t s
  | .andShort x => Sys2Proof.Machine.execAndShort x s
  | .or x t => Sys2Proof.Machine.execOr x t s
  | .orLi x t => Sys2Proof.Machine.execOrLi x t s
  | .orShort x => Sys2Proof.Machine.execOrShort x s
  | .xor x t => Sys2Proof.Machine.execXor x t s
  | .xorLi x t => Sys2Proof.Machine.execXorLi x t s
  | .xorShort x => Sys2Proof.Machine.execXorShort x s
  | .not x t => Sys2Proof.Machine.execNot x t s
  | .andn x t => Sys2Proof.Machine.execAndn x t s
  | .andnLi x t => Sys2Proof.Machine.execAndnLi x t s
  | .shl x t => Sys2Proof.Machine.execShl x t s
  | .shlLi x t => Sys2Proof.Machine.execShlLi x t s
  | .shlShort x => Sys2Proof.Machine.execShlShort x s
  | .shr x t => Sys2Proof.Machine.execShr x t s
  | .shrLi x t => Sys2Proof.Machine.execShrLi x t s
  | .shrShort x => Sys2Proof.Machine.execShrShort x s
  | .sra x t => Sys2Proof.Machine.execSra x t s
  | .sraLi x t => Sys2Proof.Machine.execSraLi x t s
  | .sraShort x => Sys2Proof.Machine.execSraShort x s
  | .shf x t right => Sys2Proof.Machine.execShf x t right s
  | .bfe x t => Sys2Proof.Machine.execBfe x t s
  | .bfi x t => Sys2Proof.Machine.execBfi x t s
  | .popc x t => Sys2Proof.Machine.execPopc x t s
  | .clz x t => Sys2Proof.Machine.execClz x t s
  | .ctz x t => Sys2Proof.Machine.execCtz x t s
  | .brev x t => Sys2Proof.Machine.execBrev x t s
  | .lut3 x table => Sys2Proof.Machine.execLut3 x table s
  | .fadd x t rm => Sys2Proof.Machine.execFadd x t rm s
  | .faddShort x => Sys2Proof.Machine.execFaddShort x s
  | .fsub x t rm => Sys2Proof.Machine.execFsub x t rm s
  | .fsubShort x => Sys2Proof.Machine.execFsubShort x s
  | .fmul x t rm => Sys2Proof.Machine.execFmul x t rm s
  | .fmulShort x => Sys2Proof.Machine.execFmulShort x s
  | .ffma x t rm => Sys2Proof.Machine.execFfma x t rm s
  | .fdiv x t rm => Sys2Proof.Machine.execFdiv x t rm s
  | .fsqrt x t rm => Sys2Proof.Machine.execFsqrt x t rm s
  | .frcpApprox x t => Sys2Proof.Machine.execFrcpApprox x t s
  | .frsqApprox x t => Sys2Proof.Machine.execFrsqApprox x t s
  | .fexp2Approx x t => Sys2Proof.Machine.execFexp2Approx x t s
  | .flog2Approx x t => Sys2Proof.Machine.execFlog2Approx x t s
  | .fsinApprox x t => Sys2Proof.Machine.execFsinApprox x t s
  | .fcosApprox x t => Sys2Proof.Machine.execFcosApprox x t s
  | .fmin x t => Sys2Proof.Machine.execFmin x t s
  | .fminShort x => Sys2Proof.Machine.execFminShort x s
  | .fmax x t => Sys2Proof.Machine.execFmax x t s
  | .fmaxShort x => Sys2Proof.Machine.execFmaxShort x s
  | .fminx x t => Sys2Proof.Machine.execFminx x t s
  | .fmaxx x t => Sys2Proof.Machine.execFmaxx x t s
  | .fabs x t => Sys2Proof.Machine.execFabs x t s
  | .fneg x t => Sys2Proof.Machine.execFneg x t s
  | .fcopysign x t => Sys2Proof.Machine.execFcopysign x t s
  | .frint x t rm ix => Sys2Proof.Machine.execFrint x t rm ix s
  | .fgetexp x t => Sys2Proof.Machine.execFgetexp x t s
  | .fgetman x t => Sys2Proof.Machine.execFgetman x t s
  | .fscale x t rm => Sys2Proof.Machine.execFscale x t rm s
  | .fclass x t => Sys2Proof.Machine.execFclass x t s
  | .ffmaMix x t rm => Sys2Proof.Machine.execFfmaMix x t rm s
  | .fdot2 x t rm => Sys2Proof.Machine.execFdot2 x t rm s
  | .icmp x t cc => Sys2Proof.Machine.execIcmp x t cc s
  | .fcmp x t cc u sig => Sys2Proof.Machine.execFcmp x t cc u sig s
  | .sel x w64 => Sys2Proof.Machine.execSel x w64 s
  | .pand x => Sys2Proof.Machine.execPand x s
  | .por x => Sys2Proof.Machine.execPor x s
  | .pxor x => Sys2Proof.Machine.execPxor x s
  | .pnot x => Sys2Proof.Machine.execPnot x s
  | .pmov x => Sys2Proof.Machine.execPmov x s
  | .cvt x rm sat dt st => Sys2Proof.Machine.execCvt x rm sat dt st s
  | .mxq x rm => Sys2Proof.Machine.execMxq x rm s
  | .shfl x mode w64 seg => Sys2Proof.Machine.execShfl x mode w64 seg s
  | .wred x op t => Sys2Proof.Machine.execWred x op t s
  | .wscan x op t excl => Sys2Proof.Machine.execWscan x op t excl s
  | .voteAny x => Sys2Proof.Machine.execVoteAny x s
  | .voteAll x => Sys2Proof.Machine.execVoteAll x s
  | .ballot x cnt => Sys2Proof.Machine.execBallot x cnt s
  | .laneFirst x => Sys2Proof.Machine.execLaneFirst x s
  | .bra x => Sys2Proof.Machine.execBra x s
  | .brx x => Sys2Proof.Machine.execBrx x s
  | .call x => Sys2Proof.Machine.execCall x s
  | .callx x => Sys2Proof.Machine.execCallx x s
  | .ret x => Sys2Proof.Machine.execRet x s
  | .exit x => Sys2Proof.Machine.execExit x s
  | .yield x => Sys2Proof.Machine.execYield x s
  | .nop x => Sys2Proof.Machine.execNop x s
  | .ldG x sz sx nt => Sys2Proof.Machine.execLdG x sz sx nt s
  | .stG x sz nt => Sys2Proof.Machine.execStG x sz nt s
  | .ldS x sz sx gr => Sys2Proof.Machine.execLdS x sz sx gr s
  | .stS x sz gr => Sys2Proof.Machine.execStS x sz gr s
  | .ldC x sz sx => Sys2Proof.Machine.execLdC x sz sx s
  | .ldF x sz sx => Sys2Proof.Machine.execLdF x sz sx s
  | .pfG x => Sys2Proof.Machine.execPfG x s
  | .atomAdd x f => Sys2Proof.Machine.execAtomAdd x f s
  | .atomSub x f => Sys2Proof.Machine.execAtomSub x f s
  | .atomMin x f => Sys2Proof.Machine.execAtomMin x f s
  | .atomMax x f => Sys2Proof.Machine.execAtomMax x f s
  | .atomAnd x f => Sys2Proof.Machine.execAtomAnd x f s
  | .atomOr x f => Sys2Proof.Machine.execAtomOr x f s
  | .atomXor x f => Sys2Proof.Machine.execAtomXor x f s
  | .atomExch x f => Sys2Proof.Machine.execAtomExch x f s
  | .atomInc x f => Sys2Proof.Machine.execAtomInc x f s
  | .atomDec x f => Sys2Proof.Machine.execAtomDec x f s
  | .atomCas x f => Sys2Proof.Machine.execAtomCas x f s
  | .loftAdd x f => Sys2Proof.Machine.execLoftAdd x f s
  | .loftMin x f => Sys2Proof.Machine.execLoftMin x f s
  | .loftMax x f => Sys2Proof.Machine.execLoftMax x f s
  | .loftCas x w64 nr => Sys2Proof.Machine.execLoftCas x w64 nr s
  | .loftSax x w64 => Sys2Proof.Machine.execLoftSax x w64 s
  | .fence x => Sys2Proof.Machine.execFence x s
  | .fenceCb x => Sys2Proof.Machine.execFenceCb x s
  | .barInit x => Sys2Proof.Machine.execBarInit x s
  | .barArrive x => Sys2Proof.Machine.execBarArrive x s
  | .barWait x => Sys2Proof.Machine.execBarWait x s
  | .barSync x => Sys2Proof.Machine.execBarSync x s
  | .barExpect x => Sys2Proof.Machine.execBarExpect x s
  | .barFree x => Sys2Proof.Machine.execBarFree x s
  | .gbar x => Sys2Proof.Machine.execGbar x s
  | .semaTake x => Sys2Proof.Machine.execSemaTake x s
  | .semaWait x => Sys2Proof.Machine.execSemaWait x s
  | .semaGive x => Sys2Proof.Machine.execSemaGive x s
  | .mmaStep x f asp bsp => Sys2Proof.Machine.execMmaStep x f asp bsp s
  | .mmaCommit x => Sys2Proof.Machine.execMmaCommit x s
  | .mmaWait x st => Sys2Proof.Machine.execMmaWait x st s
  | .mmaZero x f64 => Sys2Proof.Machine.execMmaZero x f64 s
  | .mmaZeroFree x => Sys2Proof.Machine.execMmaZeroFree x s
  | .mmaLd x f64 sp => Sys2Proof.Machine.execMmaLd x f64 sp s
  | .mmaSt x t sp => Sys2Proof.Machine.execMmaSt x t sp s
  | .mmaProg x => Sys2Proof.Machine.execMmaProg x s
  | .copy x => Sys2Proof.Machine.execCopy x s
  | .cbufInit x => Sys2Proof.Machine.execCbufInit x s
  | .cbufTake x => Sys2Proof.Machine.execCbufTake x s
  | .cbufGive x => Sys2Proof.Machine.execCbufGive x s
  | .qbind x => Sys2Proof.Machine.execQbind x s
  | .qstat x => Sys2Proof.Machine.execQstat x s
  | .meterPost x => Sys2Proof.Machine.execMeterPost x s
  | .expose x => Sys2Proof.Machine.execExpose x s
  | .spawn x => Sys2Proof.Machine.execSpawn x s
  | .post x => Sys2Proof.Machine.execPost x s
  | .join x => Sys2Proof.Machine.execJoin x s
  | .taskEnd x => Sys2Proof.Machine.execTaskEnd x s
  | .fragRead x => Sys2Proof.Machine.execFragRead x s
  | .fragWrite x => Sys2Proof.Machine.execFragWrite x s
  | .fragResume x => Sys2Proof.Machine.execFragResume x s
  | .fragKill x => Sys2Proof.Machine.execFragKill x s
  | .fragList x => Sys2Proof.Machine.execFragList x s
  | .sysr x => Sys2Proof.Machine.execSysr x s
  | .sysw x => Sys2Proof.Machine.execSysw x s
  | .trap x => Sys2Proof.Machine.execTrap x s
  | .time x => Sys2Proof.Machine.execTime x s
  | .cycles x => Sys2Proof.Machine.execCycles x s
  | .rand x t => Sys2Proof.Machine.execRand x t s
  | .snap x => Sys2Proof.Machine.execSnap x s
  | .fpcrWrite x => Sys2Proof.Machine.execFpcrWrite x s
  | .fpsrWrite x => Sys2Proof.Machine.execFpsrWrite x s
  | .hscountRead x => Sys2Proof.Machine.execHscountRead x s
  | .tlbinvRange w => Sys2Proof.Machine.execTlbinvRange w s
  | .tlbinvAll w => Sys2Proof.Machine.execTlbinvAll w s
  | .qcmdOpen w => Sys2Proof.Machine.execQcmdOpen w s
  | .qcmdClose w => Sys2Proof.Machine.execQcmdClose w s
  | .qcmdRemove w => Sys2Proof.Machine.execQcmdRemove w s
  | .poolAssign w => Sys2Proof.Machine.execPoolAssign w s
  | .meterEnable w => Sys2Proof.Machine.execMeterEnable w s
  | .meterDisable w => Sys2Proof.Machine.execMeterDisable w s
  | .meterRejClear w => Sys2Proof.Machine.execMeterRejClear w s
  | .scanEnable w => Sys2Proof.Machine.execScanEnable w s
  | .scanDisable w => Sys2Proof.Machine.execScanDisable w s
  | .negstoreClear w => Sys2Proof.Machine.execNegstoreClear w s
  | .linkPause w => Sys2Proof.Machine.execLinkPause w s
  | .linkResume w => Sys2Proof.Machine.execLinkResume w s
  | .linkRetrain w => Sys2Proof.Machine.execLinkRetrain w s
  | .linkClr w => Sys2Proof.Machine.execLinkClr w s
  | .rasClr w => Sys2Proof.Machine.execRasClr w s
  | .tagResultComplete wave tag => Sys2Proof.Machine.execTagResultComplete wave tag s
  | .waveRetire wave => Sys2Proof.Machine.execWaveRetire wave s
  | .fragmentRejoin wave => Sys2Proof.Machine.execFragmentRejoin wave s
  | .faultRecordDelivery core entry => Sys2Proof.Machine.execFaultRecordDelivery core entry s
  | .pageFaultService req ans => Sys2Proof.Machine.execPageFaultService req ans s
  | .sideLogReplay core wave => Sys2Proof.Machine.execSideLogReplay core wave s
  | .frameRetire page spare more => Sys2Proof.Machine.execFrameRetire page spare more s
  | .tileGrant cluster => Sys2Proof.Machine.execTileGrant cluster s
  | .mmaChunkApply cluster idx => Sys2Proof.Machine.execMmaChunkApply cluster idx s
  | .copyComplete cluster idx => Sys2Proof.Machine.execCopyComplete cluster idx s
  | .cbufSlotClaim cluster idx => Sys2Proof.Machine.execCbufSlotClaim cluster idx s
  | .portTakePush wave pair lane => Sys2Proof.Machine.execPortTakePush wave pair lane s
  | .rangefinderClosestHit wave pair lane => Sys2Proof.Machine.execRangefinderClosestHit wave pair lane s
  | .rangefinderAnyHit wave pair lane => Sys2Proof.Machine.execRangefinderAnyHit wave pair lane s
  | .rangefinderRasterProbe wave pair lane => Sys2Proof.Machine.execRangefinderRasterProbe wave pair lane s
  | .rangefinderTreeQuery wave pair lane => Sys2Proof.Machine.execRangefinderTreeQuery wave pair lane s
  | .hazeMarch wave pair lane => Sys2Proof.Machine.execHazeMarch wave pair lane s
  | .meterSweep site tiles => Sys2Proof.Machine.execMeterSweep site tiles s
  | .meterOfferRetry site => Sys2Proof.Machine.execMeterOfferRetry site s
  | .meterBlockFree site block => Sys2Proof.Machine.execMeterBlockFree site block s
  | .scanStart site => Sys2Proof.Machine.execScanStart site s
  | .scanoutBandStart site => Sys2Proof.Machine.execScanoutBandStart site s
  | .schedulerScan site => Sys2Proof.Machine.execSchedulerScan site s
  | .placementOffer site => Sys2Proof.Machine.execPlacementOffer site s
  | .delayedOffer idx => Sys2Proof.Machine.execDelayedOffer idx s
  | .dsPhaseCommit phase => Sys2Proof.Machine.execDsPhaseCommit phase s
  | .prewait site => Sys2Proof.Machine.execPrewait site s
  | .gangWait launch gang => Sys2Proof.Machine.execGangWait launch gang s
  | .gangLimit launch gang => Sys2Proof.Machine.execGangLimit launch gang s
  | .hang crew => Sys2Proof.Machine.execHang crew s
  | .exclusionWindowEnd core => Sys2Proof.Machine.execExclusionWindowEnd core s
  | .urgentWaveWindow core => Sys2Proof.Machine.execUrgentWaveWindow core s
  | .barrierReleaseSlice crew => Sys2Proof.Machine.execBarrierReleaseSlice crew s
  | .packetReceive flow seq => Sys2Proof.Machine.execPacketReceive flow seq s
  | .linkAckReceive flow seq => Sys2Proof.Machine.execLinkAckReceive flow seq s
  | .flitCrcError site modn lanes => Sys2Proof.Machine.execFlitCrcError site modn lanes s
  | .linkPaused => Sys2Proof.Machine.execLinkPaused s
  | .linkTrainComplete => Sys2Proof.Machine.execLinkTrainComplete s
  | .ptpSync m => Sys2Proof.Machine.execPtpSync m s
  | .headsetFrame port records => Sys2Proof.Machine.execHeadsetFrame port records s
  | .hopen d => Sys2Proof.Machine.execHopen d s
  | .elevate d => Sys2Proof.Machine.execElevate d s
  | .hclose d => Sys2Proof.Machine.execHclose d s
  | .ack d => Sys2Proof.Machine.execAck d s
  | .setip d => Sys2Proof.Machine.execSetip d s
  | .memrd d => Sys2Proof.Machine.execMemrd d s
  | .memwr d => Sys2Proof.Machine.execMemwr d s
  | .launch d => Sys2Proof.Machine.execLaunch d s
  | .lclose d => Sys2Proof.Machine.execLclose d s
  | .push d => Sys2Proof.Machine.execPush d s
  | .qcmd d => Sys2Proof.Machine.execQcmd d s
  | .tlbinv d => Sys2Proof.Machine.execTlbinv d s
  | .hsring d => Sys2Proof.Machine.execHsring d s
  | .gate d => Sys2Proof.Machine.execGate d s
  | .attest d => Sys2Proof.Machine.execAttest d s
  | .bootreq d => Sys2Proof.Machine.execBootreq d s
  | .recover d => Sys2Proof.Machine.execRecover d s
  | .rosoinuUnknownType d => Sys2Proof.Machine.execRosoinuUnknownType d s
  | .rosoinuResend => Sys2Proof.Machine.execRosoinuResend s
  | .sessionIdleTimeout session => Sys2Proof.Machine.execSessionIdleTimeout session s
  | .bootRequestRepeat site => Sys2Proof.Machine.execBootRequestRepeat site s
  | .flashReread => Sys2Proof.Machine.execFlashReread s
  | .powerOn site => Sys2Proof.Machine.execPowerOn site s
  | .dpHotplug site present => Sys2Proof.Machine.execDpHotplug site present s
  | .securityAlarm site => Sys2Proof.Machine.execSecurityAlarm site s
  | .throttle cluster watts tj => Sys2Proof.Machine.execThrottle cluster watts tj s
  | .snapTime => Sys2Proof.Machine.execSnapTime s
  | .correctedError site addr => Sys2Proof.Machine.execCorrectedError site addr s
  | .uncorrectableError addr second => Sys2Proof.Machine.execUncorrectableError addr second s
  | .lastingLaneFault core => Sys2Proof.Machine.execLastingLaneFault core s
  | .lastingPoleFault core pole => Sys2Proof.Machine.execLastingPoleFault core pole s
  | .accessPerformed idx scope => Sys2Proof.Machine.execAccessPerformed idx scope s
  | .throttleEnd cluster watts tj => Sys2Proof.Machine.execThrottleEnd cluster watts tj s

end Sys2Proof.Machine
end

