-- ==== Sys2Proof/Machine/Moves.lean ====
section
/-!
DEFINITION. The moves of engines, schedulers and controllers that may come when no wave can issue and the agenda names
none (log entry 5): the candidates that the state offers, and the first that does something.  A move that only an outside
agent makes (the host, the headset, a sensor, the system controller's choice of a mapping) comes from the agenda alone.
-/
namespace Sys2Proof.Machine

/-- Indices of a list. -/
def indices {α : Type} (l : List α) : List Nat := List.range l.length

/-! ### The candidates -/

/-- Results that a wave waits for (R47), and its retirement (R148). -/
def Wave.moves (w : Wave) : List Instr :=
  ((List.range 9).filterMap fun t => (w.pendingAt t).bind fun p =>
    if p.complete then none else some (.tagResultComplete w.key t)) ++ [.waveRetire w.key]

/-- The move of a unit behind a port for a lane's oldest push in flight (R213). -/
def unitMove (code wave pair lane : Nat) : Instr :=
  if code = 1 then .rangefinderClosestHit wave pair lane
  else if code = 2 then .rangefinderAnyHit wave pair lane
  else if code = 3 then .rangefinderRasterProbe wave pair lane
  else if code = 4 then .rangefinderTreeQuery wave pair lane
  else .hazeMarch wave pair lane

/-- The pushes of a wave's ports (R212, R213). -/
def Wave.portMoves (w : Wave) : List Instr :=
  (List.range 4).flatMap fun k =>
    let p := w.port k
    (p.held.map fun q => Instr.portTakePush w.key k q.lane) ++ p.flight.map fun q => unitMove q.code w.key k q.lane

/-- The moves of a cluster's engines (R190, R195, R206, R211). -/
def Cluster.moveList (c : Cluster) (k : Nat) : List Instr :=
  (if c.tileReqs.any (fun r => r.tile.isNone) then [Instr.tileGrant k] else []) ++
    ((indices c.steps).map fun n => Instr.mmaChunkApply k n) ++ ((indices c.copies).map fun n => Instr.cbufSlotClaim k n) ++
    (indices c.copies).map fun n => Instr.copyComplete k n

/-- The moves of a core: the replay of its side log, its fault records, and the service of pages that have become valid
(R304, R233, R416). -/
def Core.moveList (c : Core) (k : Nat) : List Instr :=
  ((indices c.sideLog).map fun n => Instr.pageFaultService (.log k n) .noChange) ++
    (c.sideLog.map fun e => Instr.sideLogReplay k e.wave) ++
    ((List.range c.bivouac.length).flatMap fun n =>
      match (c.bivouac.getD n {}).state with
      | .waiting => [Instr.faultRecordDelivery k n]
      | .controller => [Instr.pageFaultService (.frag k n) .noChange]
      | _ => [])

/-- The moves of a site's scheduler (R329, R332, R336). -/
def Site.scheduleMoves (t : Site) (x : Nat) : List Instr :=
  (if t.queues.isEmpty && t.gangWait.isEmpty then [] else [Instr.schedulerScan x, .prewait x]) ++
    (if t.placing.isEmpty then [] else [Instr.placementOffer x])

/-- The moves of a site's frameless units (R352-R358). -/
def Site.unitMoves (t : Site) (x : Nat) : List Instr :=
  (if t.meter.held.isSome then [Instr.meterOfferRetry x] else []) ++
    (t.meter.freed.map fun b => Instr.meterBlockFree x b) ++ (if t.scan.on then [Instr.scanStart x, .scanoutBandStart x] else [])

/-- The moves of the link (R288, R289, R385, R386). -/
def State.linkMoves (s : State) : List Instr :=
  (s.flows.flatMap fun f =>
    (f.transit.map fun n => Instr.packetReceive f.id n) ++ (f.held.map fun n => Instr.packetReceive f.id n) ++
      (if f.unacked.isEmpty then [] else [Instr.linkAckReceive f.id (f.expected - 1)])) ++
    (if s.pause && !s.paused then [Instr.linkPaused] else []) ++
    (if s.linkState = .training then [Instr.linkTrainComplete] else [])

/-- What waits for a page that has become valid, besides fragments and logs (R416). -/
def State.serviceMoves (s : State) : List Instr :=
  ((indices s.waiters).map fun n => Instr.pageFaultService (.wait n) .noChange) ++
    ((s.clusters.mapIdx fun k c => (k, c)).flatMap fun p => (indices p.2.steps).map fun n =>
      Instr.pageFaultService (.step p.1 n) .noChange) ++
    (s.waves.flatMap fun w => (List.range 4).flatMap fun k => (w.port k).flight.map fun q =>
      Instr.pageFaultService (.port w.key k q.lane) .noChange)

/-- The timers (R335, R339). -/
def State.timerMoves (s : State) : List Instr :=
  (s.gangs.flatMap fun g => [Instr.gangWait g.launch g.gid, .gangLimit g.launch g.gid]) ++
    (s.crews.map fun c => Instr.hang c.key)

/-- Requests of the host that wait to be executed (R395). -/
def State.requestMoves (s : State) : List Instr :=
  s.sessions.filterMap fun x => (x.held.find? fun h => h.1 = x.expected).bind fun h => requestMove h.2

/-- Moves that come again and again as time passes: windows of the cores that hold crews, sweeps of the Light meters. -/
def State.idleMoves (s : State) : List Instr :=
  let ks := (s.crews.map (·.core)).foldl (fun l k => if l.contains k then l else l ++ [k]) []
  (ks.flatMap fun k => [Instr.exclusionWindowEnd k, .urgentWaveWindow k]) ++
    ([0, 1].filter fun x => (s.site x).meter.en).map fun x => Instr.meterSweep x 1

/-- The candidates that have something to do at most once. -/
def State.workMoves (s : State) : List Instr :=
  (s.waves.flatMap Wave.moves) ++ (s.crews.map fun c => Instr.barrierReleaseSlice c.key) ++
    (s.waves.flatMap Wave.portMoves) ++ ((s.clusters.mapIdx fun k c => c.moveList k).flatten) ++
    ((s.cores.mapIdx fun k c => c.moveList k).flatten) ++
    ((indices s.inflight).map fun n => Instr.accessPerformed n .device) ++
    (s.fires.filterMap fun f => f.phase.map Instr.dsPhaseCommit) ++ ((indices s.offers).map fun n => Instr.delayedOffer n) ++
    s.siteA.scheduleMoves 0 ++ s.siteB.scheduleMoves 1 ++ s.linkMoves ++ s.serviceMoves ++ s.siteA.unitMoves 0 ++
    s.siteB.unitMoves 1 ++ s.timerMoves ++ s.requestMoves

/-- A list from a place that moves on with the steps, so that every candidate has its turn. -/
def State.turned (s : State) (l : List Instr) : List Instr := l.rotateLeft ((s.moves / 16 + s.moves % 16) % max 1 l.length)

/-- Every candidate, in the order in which they are tried. -/
def State.candidates (s : State) : List Instr := s.turned s.workMoves ++ s.turned s.idleMoves

/-! ### The default move -/

/-- A move does something: it changes more than what waits at issue and the count of free values drawn. -/
def State.changes (s : State) (i : Instr) : Bool :=
  match exec i s with
  | .next t => { t with held := [], fresh := 0 } != { s with held := [], fresh := 0 }
  | _ => true

/-- The first candidate that does something; none under the security alarm (R414). -/
def State.defaultMove (s : State) : Option Instr := if s.alarm then none else s.candidates.find? s.changes

/-! ### Moves of the agenda -/

/-- Steps that the security alarm does not stop: they reach no memory (R414). -/
def underAlarm : Instr → Bool
  | .hopen _ | .elevate _ | .hclose _ | .ack _ | .setip _ | .memrd _ | .memwr _ | .launch _ | .lclose _ | .push _
  | .qcmd _ | .tlbinv _ | .hsring _ | .gate _ | .attest _ | .rosoinuUnknownType _ | .rosoinuResend
  | .sessionIdleTimeout _ | .powerOn _ | .dpHotplug _ _ | .securityAlarm _ | .ptpSync _ | .throttle _ _ _
  | .throttleEnd _ _ _ | .rasClr _ | .snapTime => true
  | _ => false

/-- A row without a word: a step of an agent other than the issuing wave. -/
def isMove (i : Instr) : Bool :=
  match i.parts with
  | .step => true
  | _ => false

/-- The agenda's move may run now. -/
def State.allows (s : State) (i : Instr) : Bool := isMove i && (!s.alarm || underAlarm i)

end Sys2Proof.Machine
end

