-- ==== Sys2Proof/Machine/Select.lean ====
section
/-!
DEFINITION. What the next step runs: time passes, the housekeeping that no instruction does, the moves named in the
agenda, the wave that issues (09 R247), and the default moves of the other agents (log entry 5).  And how a program is placed for a step to fetch it.
-/
namespace Sys2Proof.Machine

/-! ### The wave that issues (R247, R248) -/

/-- The wave that must issue next in a quarter, if its chain still holds (R247 step 1); the quarter stays idle while that wave
waits, at wave level too (R266). -/
def State.chainedWave (s : State) (core quarter : Nat) : Option Nat :=
  match (s.core core).chained.getD quarter none with
  | some k =>
    match s.wave? k with
    | some w => if w.settled.lanes.any Lane.eligible then some k else none
    | none => none
  | none => none

/-- A wave that may issue now: an eligible lane, not waiting at issue, and not behind another wave's chain. -/
def State.mayIssue (s : State) (w : Wave) : Bool :=
  !w.settled.eligibleLanes.isEmpty && !s.held.contains w.key &&
  (match s.chainedWave w.core w.quarter with
    | some k => k = w.key
    | none => true)

/-- The order of choice: the quarter next in turn, then urgent, then longest without issuing, then the lower slot. -/
def State.rankOf (s : State) (w : Wave) : Nat :=
  ((((w.core * 4 + w.quarter + 768 - s.turn) % 768) * 2 + (if w.urgent then 0 else 1)) * (s.issues + 2) +
    min w.lastIssue (s.issues + 1)) * 128 + w.slot

/-- The wave that issues next. -/
def State.pick (s : State) : Option Wave :=
  (s.waves.filter s.mayIssue).foldl (fun m w => match m with
    | none => some w
    | some b => if s.rankOf w < s.rankOf b then some w else m) none

/-! ### Time (R5, R243) -/

/-- The rate correction of the timer, of the site whose port carries the synchronisation (R389, R390). -/
def State.timerRate (s : State) : Int := (if s.siteA.tmrStat.getLsbD 2 then s.siteB else s.siteA).tmrRate.toInt

/-- Time passes: an amount that no rule fixes here, by which the timer advances at its corrected rate, and the clocks of the
clusters. -/
def State.passTime (s : State) : State :=
  let x := (Config.elapse s.fresh * (10 ^ 9 + s.timerRate)).toNat + s.timerFrac
  let n := x / 10 ^ 9
  { s with
    timer := s.timer + BitVec.ofNat 64 n
    elapsed := s.elapsed + n
    timerFrac := x % 10 ^ 9
    clusters := s.clusters.mapIdx fun k c => { c with cycles := c.cycles + BitVec.ofNat 64 (Config.cycleStep s.fresh k) }
    fresh := s.fresh + 1, moves := s.moves + 1 }

/-- A lane that the link held goes on. -/
def Lane.unlink (x : Lane) : Lane := if x.block = .link then { x with block := .none } else x

/-- Where the link gives numbers again, the lanes that it held go on (R385). -/
def State.unlink (s : State) : State :=
  if s.numbers then { s with waves := s.waves.map fun w => { w with lanes := w.lanes.map Lane.unlink } } else s

/-- What happens by itself before anything moves: the defer bits of waves without an eligible lane are cleared, before anything
wakes a lane (R23, R252), failed launches are discarded (R324), resumed lanes rejoin at a
latch-loss point (R269), lanes that wait on a semaphore are tested (R183), gang barriers open (R181) and the lanes of opened
barriers go on (R179), lanes that the link held go on once it gives numbers (R385), joins that waited for
the link are made (R228), clusters take their new class (R333), it is noted since when crews wait for room in a phase
table (R343), and the schedulers tell each other what their cores hold (R332).  Nothing of this happens under the security alarm
(R414). -/
def State.housekeep (s : State) : State :=
  if s.alarm then s
  else
    let s := { s with waves := s.waves.map Wave.settled }.sweepFailed
    let s := { s with waves := s.waves.map Wave.rejoin }.semaSweep
    let s := (s.crews.filter fun c => c.gbar != 0).foldl (fun s c => s.checkGbar c.key) s
    s.releaseOpened.unlink.retryJoins.settleClasses.noteRooms.tellSites

/-- The state in which the next move is chosen. -/
def State.prepare (s : State) : State := s.passTime.housekeep

/-! ### The next move -/

/-- What the step runs. -/
inductive Next where
  | run (i : Instr)
  | fail (insn : LongWord) (code : BitVec 8) (detail : BitVec 16) (addr : Option DWord)
  | idle
  deriving DecidableEq, Repr

/-- What the wave w issues: its instruction, or the trap of a fetch or a decoding that fails (R30, R55).  Where the link does not
take the fetch, a pause holds the lanes, and a training the wave (R385, R386). -/
def State.nextOf (s : State) (w : Wave) : State × Next :=
  let s := { s with cur := w.key, turn := (w.core * 4 + w.quarter + 1) % 768 }
  match w.settled.minPc w.settled.eligibleLanes with
  | none => (s, .idle)
  | some pc =>
    match s.fetch w pc with
    | (s, .trap insn code d a) => (s, .fail insn code d (some a))
    | (s, .far) =>
      (if s.numbers then s.waits else { s.setWave (w.settled.holdLanes w.settled.issueSet) with held := [] }, .idle)
    | (s, .ok p0 p1) =>
      match decode p0 p1 with
      | .ok i => (s, .run i)
      | .error d => (s, .fail (if isLong p0 then p1 ++ p0 else p0.setWidth 80) 0x01 d none)

/-- Whether it is a wave's turn: of 16 moves, one is left to the other agents (log entry 5). -/
def State.wavesTurn (s : State) : Bool := s.moves % 16 != 0

/-- The move that comes next when the agenda names none. -/
def State.nextFree (s : State) : State × Next :=
  let w := if s.alarm then none else s.pick
  match (if w.isSome && s.wavesTurn then none else s.defaultMove), w with
  | some i, _ => ({ s with held := [] }, .run i)
  | none, some w => s.nextOf w
  | none, none => ({ s with held := [] }, .idle)

/-- The move that comes next when no time trigger is due: one named in the agenda, else a wave's or a default move. -/
def State.nextMove (s : State) : State × Next :=
  match s.agenda with
  | i :: is => ({ s with agenda := is }, if s.allows i then .run i else .idle)
  | [] => s.nextFree

/-- The move that comes next: the timer's trigger comes before any other, under the security alarm too (R414, R415). -/
def State.next (s : State) : State × Next := if s.snapDue then (s, .run .snapTime) else s.nextMove

/-! ### Placing a program -/

/-- The launch record of a placed program: launch 1, privileged, both sites, window of 2^20 parcels at virtual 0, root
table at 0x2_0000. -/
def placedLaunch : BitVec 512 :=
  (0xFFFFF : BitVec 512) <<< 260 ||| (1 : BitVec 512) <<< 189 ||| (1 : BitVec 512) <<< 394 ||| 0x1E0001

/-- The record of a placed task: one wave, 256 registers, 16 KiB of scratchpad, privileged, launch 1, entry 0. -/
def placedRecord : BitVec 512 :=
  (16 : BitVec 512) <<< 84 ||| (15 : BitVec 512) <<< 80 ||| (1 : BitVec 512) <<< 71 ||| (1 : BitVec 512) <<< 48

/-- The physical page that a placed program's virtual page 0 maps to: a leaf of 1 GiB. -/
def placedBase : Nat := 0x40000000

/-- The table entries of a placed program (R293): the root points to a level-2 table, whose first entry is a leaf that
may be read, written and fetched. -/
def placedTables (s : State) : State :=
  (s.pokeHome 0x20000 (toBytes (0x40001 : DWord) 8)).pokeHome 0x40000 (toBytes (BitVec.ofNat 64 (placedBase + 0x73)) 8)

/-- Bytes of code where the next step fetches: at the PC of the wave that would issue, or, when none would, at the start
of a program placed for one new wave.  A time trigger that may come first is disarmed. -/
def State.placeCode (s : State) (bs : List Byte) : State :=
  let s := { s with agenda := [], alarm := false, snapCtl := if s.snapTim then s.snapCtl &&& 0xFFFFFFFE else s.snapCtl }
  match s.prepare.pick with
  | some w =>
    let q := w.settled
    match q.minPc q.eligibleLanes, s.crew? w.crew with
    | some pc, some c =>
      match s.launch? c.launch with
      | some l =>
        (List.range bs.length).foldl (fun s k =>
          match s.xlat w.site c.launch (l.codeBase + 5 * pc.toNat + k) with
          | .ok pa _ _ => s.pokeHome pa [bs.getD k 0]
          | .fault _ => s) (s.updLaunch c.launch fun l => { l with codeFree := false })
      | none => s
    | _, _ => s
  | none =>
    let s := (placedTables s).pokeHome placedBase bs
    { s with
      launches := [{ num := 1, record := placedLaunch }]
      crews := [{ core := 0, slot := 0, record := placedRecord }]
      waves := [newWave 0 0 0 0 0 0 []] }

end Sys2Proof.Machine
end

