-- ==== Sys2Proof/Machine/Step.lean ====
section
/-!
DEFINITION. One step of the machine: one move of one agent (log entry 5).
-/
namespace Sys2Proof.Machine

/-- One step: time passes, the next move is chosen, and it is run; a launch whose code it modified is marked (R31). -/
def step (s : State) : Host.Outcome State Fault Refusal :=
  s.noteStep (match s.prepare.next with
    | (s', .run i) => exec i s'
    | (s', .fail insn code detail addr) => failIssue insn code detail addr s'
    | (s', .idle) => .next s')

/-- The state with an instruction of the opcode table where the next step fetches. -/
def State.withFetchWord (s : State) (nbits w : Nat) : State := s.placeCode (tableBytes nbits w)

end Sys2Proof.Machine
end

