-- ==== Sys2Proof/Safety.lean ====
section
/-!
DEFINITION. What counts as a safe state and a safe run, and the words in which the statements about single instructions
are made: when a wave issues an instruction, and the state that an issue without a trap leaves.
-/
namespace Sys2Proof.Machine

/-! ### Safe states and runs -/

/-- Memory is in its canonical form: addresses strictly rising, no byte that an unlisted address would read as. -/
def State.Canonical (s : State) : Prop := Memory.wf s.mem = true

/-- A wave has 32 lanes, 8 tags, 4 port pairs, 8 handles and 4 batches; its register files are canonical maps, and it stands in
a wave slot of a core (R19, R22, R26, R45, R190, R196, R212). -/
structure Wave.Shaped (w : Wave) : Prop where
  lanes   : w.lanes.length = 32
  tags    : w.tags.length = 8
  ports   : w.ports.length = 4
  handles : w.handles.length = 8
  aborts  : w.aborts.length = 4
  v       : SMap.wf w.v = true
  s       : SMap.wf w.s = true
  core    : w.core < 192
  slot    : w.slot < Config.wavesPerCore

/-- A crew stands in a crew slot of a core, and its scratchpad is a canonical map. -/
structure Crew.Shaped (c : Crew) : Prop where
  scratch : SMap.wf c.scratch = true
  core    : c.core < 192
  slot    : c.slot < 128

/-- A site has four UCIe modules, sixteen counters and four priority levels, and its maps are canonical (R329, R384, R410). -/
structure Site.Shaped (t : Site) : Prop where
  link   : t.link.length = 4
  counts : t.rasCnt.length = 16
  served : t.served.length = 4
  neg    : SMap.wf t.neg.counts = true
  poles  : SMap.wf t.loftPoles = true

/-- The lists of the machine have their lengths, its maps are canonical, no two waves or crews stand in one slot of a core, and
the writes in flight have numbers of their own (R19, R20, R21, R264, R190, R401). -/
structure State.Shaped (s : State) : Prop where
  cores    : s.cores.length = 192
  bivouacs : ∀ c ∈ s.cores, c.bivouac.length = 64
  clusters : s.clusters.length = 24
  tiles    : ∀ c ∈ s.clusters, c.tiles.length = 64
  siteA    : s.siteA.Shaped
  siteB    : s.siteB.Shaped
  opp      : s.opp.length = 4
  waves    : ∀ w ∈ s.waves, w.Shaped
  crews    : ∀ c ∈ s.crews, c.Shaped
  waveKeys : (s.waves.map Wave.key).Nodup
  crewKeys : (s.crews.map Crew.key).Nodup
  writes   : (s.inflight.map fun y => y.id).Nodup ∧ ∀ y ∈ s.inflight, y.id < s.nextId

/-- A step gives a state: it neither refuses nor faults. -/
def State.goesOn (s : State) : Prop := ∃ t, step s = .next t

/-! ### The issue of one instruction (R46) -/

/-- Wave `w` of `s` issues `i` now: it is the wave whose turn it is, it has lanes to issue, the results that `i` waits for
have come, and none of those lanes holds a deferred POISON. -/
structure Issues (i : Instr) (s : State) (w : Wave) : Prop where
  cur   : s.wave? s.cur = some w
  lanes : w.settled.issueSet ≠ []
  tags  : w.settled.tagsReady (instrHead i) = true
  clean : ∀ l ∈ w.settled.issueSet, ((w.settled.atIssue (instrHead i)).lane l).poison = none

/-- The issue of `i` in wave `w`: the state and the wave with its results landed, the lanes, and those that act. -/
def issueOf (i : Instr) (s : State) (w : Wave) : Issue := Issue.of s w.settled (instrHead i)

/-- The issuing wave after an effect that takes no trap. -/
def Issue.after (i : Issue) (e : Eff) (w : Wave) : Wave := w.finish i e e.s.issues

/-- The state after an issue with the effect `e`, which takes no trap: the registers written, the program counters
advanced, the latches shifted, and the issue counted (R46-R51, R243). -/
def State.retire (i : Issue) (e : Eff) : State :=
  match e.s.wave? i.w.key with
  | none => e.s
  | some w => (e.s.setWave (i.after e w)).issued (i.after e w) (i.after e w).chain true

/-- `i` completes in wave `w` of `s` with the effect `e`. -/
def Completes (i : Instr) (s : State) (w : Wave) (e : Eff) : Prop := exec i s = .next (State.retire (issueOf i s w) e)

/-- What an operand supplies to every element of the acting lanes. -/
def Supplies (i : Issue) (e : Ext) (t : OpTy) (x : Sel) (a : Nat → Nat → DWord) : Prop :=
  ∀ l ∈ i.act, ∀ k, i.first ≤ k → k < e.count → readSrc i.w e l k t x = .ok (a l k)

/-- The effect of writing one value per element of a block at D (R41, R44). -/
def blockOf (i : Issue) (e : Ext) (n : Nat) (sx land : Bool) (d : Sel) (f : Nat → Nat → DWord) : Eff :=
  elemEff i e n sx land d fun l k => .ok (f l k, 0)

/-- The same, with the floating-point flags that each element raises (R77, R79). -/
def blockFp (i : Issue) (e : Ext) (n : Nat) (sx land : Bool) (d : Sel) (f : Nat → Nat → DWord × Flags) : Eff :=
  elemEff i e n sx land d fun l k => .ok (f l k)

/-- The effect of writing one truth value per element of a predicate block at p (R41). -/
def predBlock (i : Issue) (e : Ext) (p : Nat) (f : Nat → Nat → Bool) : Eff :=
  predEff i e p fun l k => .ok (if f l k then 1 else 0, 0)

/-! ### Completion with a value for each element -/

/-- What an integer of the type is as a pattern of its own width, as its value, and in the low bits of 64. -/
def low (t : ITy) (x : DWord) : BitVec (wOf t) := x.setWidth (wOf t)
def intVal (t : ITy) (x : DWord) : Int := if t.signed then (low t x).toInt else (low t x).toNat
def wide {w : Nat} (x : BitVec w) : DWord := x.setWidth 64

/-- The least and the greatest value of an integer type, and the nearest of its values to `v` (R99). -/
def leastOf (t : ITy) : Int := if t.signed then -2 ^ (wOf t - 1) else 0
def greatestOf (t : ITy) : Int := if t.signed then 2 ^ (wOf t - 1) - 1 else 2 ^ wOf t - 1
def clampTo (t : ITy) (v : Int) : DWord := wide (BitVec.ofInt (wOf t) (max (leastOf t) (min (greatestOf t) v)))

/-- `i` completes, whenever its wave issues it, with the value `f` of no operand in each element of the block at D. -/
def Gives0 (i : Instr) (e : Ext) (n : Nat) (sx : Bool) (d : Sel) (f : DWord) : Prop :=
  ∀ s w, Issues i s w → Completes i s w (blockOf (issueOf i s w) e n sx false d fun _ _ => f)

/-- The same for the value `f` of what one operand supplies to the element: it must be readable in every element. -/
def Gives1 (i : Instr) (e : Ext) (n : Nat) (sx : Bool) (d : Sel) (ta : OpTy) (a : Sel) (f : DWord → DWord) : Prop :=
  ∀ s w A, Issues i s w → Supplies (issueOf i s w) e ta a A →
    Completes i s w (blockOf (issueOf i s w) e n sx false d fun l k => f (A l k))

/-- The same for two operands. -/
def Gives2 (i : Instr) (e : Ext) (n : Nat) (sx : Bool) (d : Sel) (ta : OpTy) (a : Sel) (tb : OpTy) (b : Sel)
    (f : DWord → DWord → DWord) : Prop :=
  ∀ s w A B, Issues i s w → Supplies (issueOf i s w) e ta a A → Supplies (issueOf i s w) e tb b B →
    Completes i s w (blockOf (issueOf i s w) e n sx false d fun l k => f (A l k) (B l k))

/-- The same for three operands. -/
def Gives3 (i : Instr) (e : Ext) (n : Nat) (sx : Bool) (d : Sel) (ta : OpTy) (a : Sel) (tb : OpTy) (b : Sel) (tc : OpTy)
    (c : Sel) (f : DWord → DWord → DWord → DWord) : Prop :=
  ∀ s w A B C, Issues i s w → Supplies (issueOf i s w) e ta a A → Supplies (issueOf i s w) e tb b B →
    Supplies (issueOf i s w) e tc c C →
    Completes i s w (blockOf (issueOf i s w) e n sx false d fun l k => f (A l k) (B l k) (C l k))

/-- An integer instruction in LR of the type t, with one, two and three operands; in LI; and the short form. -/
def LrGives1 (i : Instr) (x : LR) (t : ITy) (f : DWord → DWord) : Prop :=
  Gives1 i x.extent t.regs (t = .i32) x.d (.int t.regs) x.a f
def LrGives2 (i : Instr) (x : LR) (t : ITy) (nb : Nat) (f : DWord → DWord → DWord) : Prop :=
  Gives2 i x.extent t.regs (t = .i32) x.d (.int t.regs) x.a (.int nb) x.b f
def LrGives3 (i : Instr) (x : LR) (t : ITy) (nc : Nat) (f : DWord → DWord → DWord → DWord) : Prop :=
  Gives3 i x.extent t.regs (t = .i32) x.d (.int t.regs) x.a (.int t.regs) x.b (.int nc) x.c f
def LiGives (i : Instr) (x : LI) (t : ITy) (f : DWord → DWord) : Prop :=
  Gives1 i x.extent t.regs (t = .i32) x.d (.int t.regs) x.a f
def ShGives (i : Instr) (x : SH) (f : DWord → DWord → DWord) : Prop :=
  Gives2 i x.extent 1 true (.v x.da) (.int 1) (.v x.da) (.int 1) x.b f

/-! ### Completion of floating-point instructions -/

/-- An operation on the one value of an operand, or on each half of a packed operand, whose flags are those of both halves
(R67, R120). -/
def onHalves1 (t : FTy) (f : Nat → Res) (a : DWord) : Res :=
  if t.packed then
    let lo := f (a.extractLsb' 0 16).toNat
    let hi := f (a.extractLsb' 16 16).toNat
    ⟨hi.bits * 2 ^ 16 + lo.bits, lo.flags ||| hi.flags⟩
  else f (a.setWidth t.fmt.width).toNat
def onHalves2 (t : FTy) (f : Nat → Nat → Res) (a b : DWord) : Res :=
  if t.packed then
    let lo := f (a.extractLsb' 0 16).toNat (b.extractLsb' 0 16).toNat
    let hi := f (a.extractLsb' 16 16).toNat (b.extractLsb' 16 16).toNat
    ⟨hi.bits * 2 ^ 16 + lo.bits, lo.flags ||| hi.flags⟩
  else f (a.setWidth t.fmt.width).toNat (b.setWidth t.fmt.width).toNat
def onHalves3 (t : FTy) (f : Nat → Nat → Nat → Res) (a b c : DWord) : Res :=
  if t.packed then
    let lo := f (a.extractLsb' 0 16).toNat (b.extractLsb' 0 16).toNat (c.extractLsb' 0 16).toNat
    let hi := f (a.extractLsb' 16 16).toNat (b.extractLsb' 16 16).toNat (c.extractLsb' 16 16).toNat
    ⟨hi.bits * 2 ^ 16 + lo.bits, lo.flags ||| hi.flags⟩
  else f (a.setWidth t.fmt.width).toNat (b.setWidth t.fmt.width).toNat (c.setWidth t.fmt.width).toNat

/-- No element of the issue raises an exception whose enable bit is set in fpcr (R79). -/
def NoFpTrap (i : Issue) (e : Ext) (f : Nat → Nat → Res) : Prop :=
  ∀ l ∈ i.act, ∀ k, i.first ≤ k → k < e.count → fpTrapCode i.w.fpcr (f l k).flags = none

/-- `i` completes with the pattern and the flags of `f`, given fpcr and what one operand supplies, in each element; `land`:
a T instruction. -/
def FpGives1 (i : Instr) (e : Ext) (n : Nat) (sx land : Bool) (d : Sel) (ta : OpTy) (a : Sel) (f : Word → DWord → Res) : Prop :=
  ∀ s w A, Issues i s w → Supplies (issueOf i s w) e ta a A →
    let r (l k : Nat) : Res := f (issueOf i s w).w.fpcr (A l k)
    NoFpTrap (issueOf i s w) e r →
    Completes i s w (blockFp (issueOf i s w) e n sx land d fun l k => (BitVec.ofNat 64 (r l k).bits, (r l k).flags))

/-- The same for two and three operands. -/
def FpGives2 (i : Instr) (e : Ext) (n : Nat) (land : Bool) (d : Sel) (ta : OpTy) (a : Sel) (tb : OpTy) (b : Sel)
    (f : Word → DWord → DWord → Res) : Prop :=
  ∀ s w A B, Issues i s w → Supplies (issueOf i s w) e ta a A → Supplies (issueOf i s w) e tb b B →
    let r (l k : Nat) : Res := f (issueOf i s w).w.fpcr (A l k) (B l k)
    NoFpTrap (issueOf i s w) e r →
    Completes i s w (blockFp (issueOf i s w) e n false land d fun l k => (BitVec.ofNat 64 (r l k).bits, (r l k).flags))
def FpGives3 (i : Instr) (e : Ext) (n : Nat) (land : Bool) (d : Sel) (ta : OpTy) (a : Sel) (tb : OpTy) (b : Sel) (tc : OpTy)
    (c : Sel) (f : Word → DWord → DWord → DWord → Res) : Prop :=
  ∀ s w A B C, Issues i s w → Supplies (issueOf i s w) e ta a A → Supplies (issueOf i s w) e tb b B →
    Supplies (issueOf i s w) e tc c C →
    let r (l k : Nat) : Res := f (issueOf i s w).w.fpcr (A l k) (B l k) (C l k)
    NoFpTrap (issueOf i s w) e r →
    Completes i s w (blockFp (issueOf i s w) e n false land d fun l k => (BitVec.ofNat 64 (r l k).bits, (r l k).flags))

/-- An instruction in LR of the type t with one, two and three operands of that type, and the f32 short form. -/
def LrFp1 (i : Instr) (x : LR) (t : FTy) (land : Bool) (f : Word → Nat → Res) : Prop :=
  FpGives1 i x.extent t.regs false land x.d (.fp t) x.a fun c => onHalves1 t (f c)
def LrFp2 (i : Instr) (x : LR) (t : FTy) (land : Bool) (f : Word → Nat → Nat → Res) : Prop :=
  FpGives2 i x.extent t.regs land x.d (.fp t) x.a (.fp t) x.b fun c => onHalves2 t (f c)
def LrFp3 (i : Instr) (x : LR) (t : FTy) (f : Word → Nat → Nat → Nat → Res) : Prop :=
  FpGives3 i x.extent t.regs false x.d (.fp t) x.a (.fp t) x.b (.fp t) x.c fun c => onHalves3 t (f c)
def ShFp (i : Instr) (x : SH) (f : Word → Nat → Nat → Res) : Prop :=
  FpGives2 i x.extent 1 false (.v x.da) (.fp .f32) (.v x.da) (.fp .f32) x.b fun c => onHalves2 .f32 (f c)

/-- The bits of a register that values of the type occupy, and their sign bits (R64, R67, R120). -/
def valueMask (t : FTy) : DWord := BitVec.ofNat 64 (if t.packed then 2 ^ 32 - 1 else 2 ^ t.fmt.width - 1)
def signMask (t : FTy) : DWord := if t.packed then 0x80008000 else BitVec.twoPow 64 (t.fmt.width - 1)

/-- k is the floor of the binary logarithm of n / d. -/
def IsLog2 (n d : Nat) (k : Int) : Prop :=
  d * 2 ^ k.toNat ≤ n * 2 ^ (-k).toNat ∧ n * 2 ^ (-k).toNat < 2 * (d * 2 ^ k.toNat)

/-- A magnitude with its sign. -/
def signed (neg : Bool) (m : Nat) : Int := if neg then -(m : Int) else m

/-- `r` is the value n / d of sign `neg` rounded as R126 says: for f32 to 22 significant bits, below 2^-126 to the grid of
2^-149, and for the others correctly; of the flags overflow alone. -/
def RoundedApprox (f : Fmt) (neg : Bool) (n d : Nat) (r : Res) : Prop :=
  ∀ k : Int, IsLog2 n d k →
    if f = fF32 then
      (if k < -126 then r = ⟨(if neg then 2 ^ 31 else 0) + (roundUnits n d (-149) .rne neg).1, 0⟩
       else
        let t := f.roundDyad .rne ⟨signed neg (roundUnits n d (k - 21) .rne neg).1, k - 21⟩ neg
        r = ⟨t.bits, t.flags &&& flOF⟩)
    else r = ⟨(f.roundTo .rne neg n d).bits, (f.roundTo .rne neg n d).flags &&& flOF⟩

/-- The value that 32 bits of an f32 hold is no NaN and no infinity (R142). -/
def finite32 (x : Nat) : Bool := !(fF32.unpack x).isNan && !(fF32.unpack x).isInf

/-- An integer type of cvt: its bits, and whether it is signed; a pattern of n bits as its value, and as it stands in its
register (R68). -/
def intOfBits (n : Nat) (sgn : Bool) (x : Nat) : Int := if sgn then (BitVec.ofNat n x).toInt else (BitVec.ofNat n x).toNat
def inRegister (n : Nat) (sgn : Bool) (v : Int) : Nat :=
  if n < 32 then (BitVec.ofInt 32 (intOfBits n sgn (BitVec.ofInt n v).toNat)).toNat else (BitVec.ofInt n v).toNat

/-! ### The order of sums (R82, R84) -/

/-- The pairwise tree over 2^n neighbouring lanes from `lo` on, the lower half on the left, with the flags of its nodes. -/
def treeRes (c : Nat → Nat → Res) (x : Nat → Nat) : Nat → Nat → Res
  | 0, lo => ⟨x lo, 0⟩
  | n + 1, lo =>
    let a := treeRes c x n lo
    let b := treeRes c x n (lo + 2 ^ n)
    let r := c a.bits b.bits
    ⟨r.bits, a.flags ||| b.flags ||| r.flags⟩

/-- What lane l holds after the first n levels of the scan: lane l - 2^d combines on the left of lane l at level d. -/
def scanValue (c : Nat → Nat → Res) (x : Nat → Nat) : Nat → Nat → Nat
  | 0, l => x l
  | d + 1, l => if 2 ^ d ≤ l then (c (scanValue c x d (l - 2 ^ d)) (scanValue c x d l)).bits else scanValue c x d l

/-- The flags of every combination of the five levels. -/
def scanFlags (c : Nat → Nat → Res) (x : Nat → Nat) : Flags :=
  (List.range 5).foldl (fun fl d => (List.range 32).foldl (fun fl l =>
    if 2 ^ d ≤ l then fl ||| (c (scanValue c x d (l - 2 ^ d)) (scanValue c x d l)).flags else fl) fl) 0

/-! ### Accesses to memory (06) -/

/-- The issuing wave has no read still to be performed and no entry in the side log, and its crew is `c` (R45, R302). -/
structure Ready (i : Issue) (c : Crew) : Prop where
  crew  : i.s.crew? i.w.crew = some c
  loads : ∀ k < 9, ∀ p, i.w.pendingAt k = some p → p.loads = []
  log   : (i.s.core i.w.core).sideLog = []

/-- An access of n bytes at `va` passes the checks of R154, and its page is in the TLB and maps it to `pa`, with its D bit
seen set when it writes. -/
structure Mapped (i : Issue) (c : Crew) (need : Need) (n : Nat) (va : DWord) (pa : Nat) (kind : PKind) : Prop where
  below   : va.toNat < 2 ^ 52
  aligned : va.toNat % n = 0
  noCode  : need.w = true → meet va.toNat n (i.s.codeWindow c.launch).1 (i.s.codeWindow c.launch).2 = false
  page    : ∃ t, ((i.s.site (i.w.core / 96)).tlb.find? fun t => t.maps c.launch va.toNat) = some t ∧
    i.s.xlatOf t va.toNat = .ok pa kind t.leaf ∧ denies t.leaf c.priv need = false ∧ (need.w = true → t.dirty = true)
  memory  : isMemory pa = true

/-- An access of n bytes at offset `a` of the crew's own scratchpad passes the checks of R154. -/
structure OwnScratch (i : Issue) (c : Crew) (n : Nat) (a : DWord) (wr : Bool) : Prop where
  inside  : (a.extractLsb' 0 32).toNat < c.scratchBytes
  aligned : (a.extractLsb' 0 32).toNat % n = 0
  free    : wr = true → i.s.armed c (a.extractLsb' 0 32).toNat n = false ∧ c.tagged (a.extractLsb' 0 32).toNat n = false

/-- The lanes that a load performs: all that act, or the lowest for an s destination (R156). -/
def loadLanes (i : Issue) (d : Sel) : List Nat :=
  match d with
  | .s _ => i.act.take 1
  | _ => i.act

/-- What a load of n bytes leaves in its destination, given the bytes of each lane: 8- and 16-bit values extended, zeros above
a 32-bit value in an s register (R156). -/
def loaded (i : Issue) (d : Sel) (n : Nat) (sx : Bool) (bytes : Nat → List Byte) : Pending :=
  let v (l : Nat) : Int :=
    if sx && n < 4 then (BitVec.ofNat (8 * n) (ofBytes (bytes l))).toInt else (ofBytes (bytes l) : Nat)
  match d with
  | .s r => { sw := i.act.head?.map fun l => (r.toNat, BitVec.ofInt 64 (v l)) }
  | .v r => { vw := i.act.flatMap fun l => regWords r.toNat l (max 1 (n / 4)) (BitVec.ofInt 512 (v l)) }
  | _ => {}

/-- The last of the lanes whose n bytes at `pa` hold an address. -/
def lastWriter (ls : List Nat) (pa : Nat → Nat) (n a : Nat) : Option Nat := ls.reverse.find? fun l => pa l ≤ a && a < pa l + n

/-- Lanes that change n bytes each in turn: the bytes at the end, and what each lane found (R163). -/
def inTurn (get : Nat → Byte) (pa : Nat → Nat) (n : Nat) (f : Nat → Nat → Nat) : List Nat → (Nat → Byte) × List (Nat × Nat)
  | [] => (get, [])
  | l :: ls =>
    let old := readNum get (pa l) n
    let r := inTurn (fun a => if pa l ≤ a && a < pa l + n then BitVec.ofNat 8 (f l old / 256 ^ (a - pa l)) else get a) pa n f ls
    (r.1, (l, old) :: r.2)

/-- The new value of an atomic over n bytes; compare and swap stand in the data of cas (R163). -/
def atomGives (op : AtomOp) (sgn : Bool) (n : Nat) (data : List Byte) (old : Nat) : Nat :=
  let v := ofBytes (data.take n)
  let a : BitVec (8 * n) := BitVec.ofNat (8 * n) old
  let b : BitVec (8 * n) := BitVec.ofNat (8 * n) v
  match op with
  | .add => (a + b).toNat
  | .sub => (a - b).toNat
  | .and => (a &&& b).toNat
  | .or => (a ||| b).toNat
  | .xor => (a ^^^ b).toNat
  | .exch => v
  | .min => if (if sgn then b.toInt < a.toInt else v < old) then v else old
  | .max => if (if sgn then a.toInt < b.toInt else old < v) then v else old
  | .inc => if old < v then old + 1 else old
  | .dec => if v < old then old - 1 else old
  | .cas => if old = v then ofBytes ((data.drop n).take n) else old

/-- The new value of loft.add, loft.min, loft.max and loft.cas (R166, R167). -/
def loftGives (op : LoftOp) (flt sgn : Bool) (n : Nat) (data : List Byte) (old : Nat) : Nat :=
  let v := ofBytes (data.take n)
  let f : Fmt := if n = 8 then fF64 else fF32
  match op with
  | .add => if flt then (f.add .rne old v).bits else atomGives .add sgn n data old
  | .min => if flt then (f.minmaxNum false old v).bits else atomGives .min sgn n data old
  | .max => if flt then (f.minmaxNum true old v).bits else atomGives .max sgn n data old
  | .cas | .sax => if old = v then ofBytes ((data.drop n).take n) else old

/-- The pending result of a returning form: what each lane found, in n bytes. -/
def returned (d : Sel) (n : Nat) (olds : List (Nat × Nat)) : Pending :=
  match d with
  | .v r => { vw := olds.flatMap fun p => regWords r.toNat p.1 (n / 4) (BitVec.ofNat 512 p.2) }
  | _ => {}

/-- Only copies that cores keep differ, in the cores. -/
def sameCores (s t : State) : Prop :=
  t.cores.length = s.cores.length ∧ ∀ k, t.core k = { s.core k with copies := (t.core k).copies }

/-- Only copies differ: those of cores, of the clusters' L2 slices and of the sites' remote-line caches. -/
def sameButCopies (s t : State) : Prop :=
  sameCores s t ∧ t.clusters.length = s.clusters.length ∧ (∀ k, t.cluster k = { s.cluster k with l2 := (t.cluster k).l2 }) ∧
    t.siteA = { s.siteA with rlc := t.siteA.rlc } ∧ t.siteB = { s.siteB with rlc := t.siteB.rlc }

/-- The packets of lanes that reach the other site: each a request in the flow of the core's accesses, and for a value that
returns a response in the reverse flow (R287). -/
def State.crosses (s : State) (core : Nat) (ret : Bool) (pa : Nat → Nat) (kind : Nat → PKind) (ls : List Nat) : State :=
  ls.foldl (fun s l =>
    let f := accessFlow core (kind l)
    if Config.homeSite (pa l) = some (core / 96) then s
    else if ret then (s.passPacket f).passPacket { f with dst := core / 96 } else s.passPacket f) s

/-- The one lane of `j` that acts takes a trap before the instruction does anything (R154, R261, R262). -/
def TrapsAlone (j : Instr) (s : State) (w : Wave) (l : Nat) (code : BitVec 8) (detail : BitVec 16) (va : DWord) : Prop :=
  ∃ e, exec j s = finishIssue (issueOf j s w) (instrWord j) e ∧ e.s = (issueOf j s w).s ∧ e.stop = none ∧ e.hold = false ∧
    e.traps = [{ lane := l, code := code, detail := detail, addr := some va }] ∧ e.held = [] ∧ e.vw = [] ∧ e.sw = none ∧
    e.pw = [] ∧ e.pcs = [] ∧ e.entry = none

/-- A page of the launch that no table maps: the TLB does not hold it, the walk stops with the DETAIL `d`, and reads tables of
the site alone (R293, R297). -/
def Unmapped (i : Issue) (c : Crew) (va : DWord) (d : BitVec 16) : Prop :=
  ∃ la lvl cause, i.s.tlb? (i.w.core / 96) c.launch va.toNat = none ∧ i.s.launch? c.launch = some la ∧
    walkFrom i.s va.toNat 3 la.root = .fail lvl cause ∧ i.s.farWalk (i.w.core / 96) c.launch va.toNat = [] ∧ d = pageDetail lvl cause

/-- A release point of the wave has nothing to wait for and nothing to do: the machine has no write and no packet in flight, and
the wave no exposed record that is not yet visible (R158, R219, R276). -/
structure Calm (i : Issue) (c : Crew) : Prop where
  ready   : Ready i c
  writes  : i.s.inflight = []
  flows   : i.s.flows = []
  link    : i.s.linkOpen = true
  records : ∀ x < 2, ∀ r ∈ (i.s.site x).neg.rings, r.2.wave ≠ some i.w.key

/-- A page that an engine's probe finds for a crew: the site's TLB maps it, its leaf allows the access, its D bit is seen set for a
write, and it is no device window (R306). -/
def Probes (i : Issue) (c : Crew) (need : Need) (page base : Nat) (kind : PKind) : Prop :=
  (∃ t, i.s.tlb? (i.w.core / 96) c.launch (4096 * page) = some t ∧ i.s.xlatOf t (4096 * page) = .ok base kind t.leaf ∧
    denies t.leaf c.priv need = false ∧ (need.w = true → t.dirty = true)) ∧
  ∀ k < 4096, isWindow (base + k) = false

/-- Bytes of a page lie in n bytes from an address. -/
def reachesPage (a n page : Nat) : Prop := a / 4096 ≤ page ∧ 4096 * page < a + n

/-- The copies that an engine of a core could read stand for no older byte, and nothing is in flight: its reads give the home
(R275, R276, R285). -/
structure EngineSees (s : State) (core : Nat) : Prop where
  writes : s.inflight = []
  lines  : s.badLines = []
  copies : ∀ k, 1 ≤ k → k < 3 → ∀ p ∈ s.copiesAt core k, p.2 = s.homeByte p.1

/-- An instruction that acts once, or once for each lane, completes in the state `u` with the value `v` of each lane in D, of
`n` registers for a v destination (R186). -/
def Answers (j : Instr) (s : State) (w : Wave) (u : State) (n : Nat) (d : Sel) (v : Nat → DWord) : Prop :=
  let i := issueOf j s w
  ∃ e, Completes j s w e ∧ e.s = u ∧ e.traps = [] ∧ e.pcs = [] ∧ e.pw = [] ∧ e.pend = none ∧
    (∀ r, d = .v r → e.sw = none ∧ e.vw = i.act.flatMap fun l => regWords r.toNat l n ((v l).setWidth 512)) ∧
    ∀ r, d = .s r → e.vw = [] ∧ e.sw = i.act.head?.map fun l => (r.toNat, v l)

/-- A unit of a site reaches the n aligned bytes at `va` of a launch: their page is in the site's TLB and maps them to readable
memory of the site at `pa`, with its D bit seen set for a write (R300, R417). -/
structure UnitMapped (s : State) (site launch va n : Nat) (priv : Bool) (need : Need) (pa : Nat) : Prop where
  below   : va < 2 ^ 52
  aligned : va % n = 0
  page    : ∃ t k, ((s.site site).tlb.find? fun t => t.maps launch va) = some t ∧ s.xlatOf t va = .ok pa k t.leaf ∧
    denies t.leaf priv need = false ∧ (need.w = true → t.dirty = true)
  memory  : isMemory pa = true
  lines   : s.badLines = []
  home    : Config.homeSite pa = some site

/-- The little-endian word of the n bytes at an address of memory. -/
def State.wordAt (s : State) (pa n : Nat) : BitVec 512 :=
  BitVec.ofNat 512 (ofBytes ((List.range n).map fun k => s.homeByte (pa + k)))

/-- A queue of a site is open, has room, its next ring slot lies at `p` in memory of the site, as its descriptor does, and no
store of a scheduler waits for the link. -/
structure TakesRecord (s : State) (site : Nat) (q : Queue) (p : Nat) : Prop where
  here   : s.queue? q.desc = some (site, q)
  opened : q.state = .opened
  room   : q.full = false
  slot   : UnitMapped s site q.owner (q.slot q.tail) 64 true { w := true } p
  home   : Config.homeSite q.desc = some site
  idle   : ∀ x ∈ s.inflight, x.unit ≠ .scheduler

/-- From `s` to `t` the queue has taken the entry: it stands last, its record in the ring and the tail in the descriptor, and no
other byte of memory has changed (R327). -/
def Pushed (s t : State) (site : Nat) (q : Queue) (p : Nat) (e : QEntry) : Prop :=
  (t.site site).queues = (s.site site).queues.map (fun y =>
    if y.desc = q.desc then { q with tail := q.tail + 1, entries := q.entries ++ [e] } else y) ∧
  (∀ m < 4, t.homeByte (q.desc + 52 + m) = (q.tail + 1).extractLsb' (8 * m) 8) ∧
  ∀ a, a < q.desc ∨ q.desc + 64 ≤ a →
    t.homeByte a = if p ≤ a ∧ a < p + 64 then e.record.extractLsb' (8 * (a - p)) 8 else s.homeByte a

/-- The task of a record has started on a core, beside the crews `cs` and the waves `ws`: its crew, and a wave for each of its
waves with every lane at the record's entry, ARGS in s0 to s2 and FRAME in s3, all other registers 0 (R223). -/
def Starts (cs : List Crew) (ws : List Wave) (t : State) (core : Nat) (p : Popped) (phase : Option Nat) : Prop :=
  ∃ c new, t.crews = cs ++ [c] ∧ t.waves = ws ++ new ∧ c.core = core ∧ c.record = p.record ∧ c.queue = some p.queue ∧
    c.popped = p.order ∧ c.scope = p.scope ∧ c.phase = phase ∧ c.scratch = [] ∧ c.cc = 0 ∧
    new.map Wave.num = List.range ((recWaves p.record).toNat + 1) ∧
    ∀ y ∈ new, y.core = core ∧ y.crew = c.key ∧ y.v = [] ∧ y.lanes = List.replicate 32 { pc := recEntry p.record } ∧
      SMap.get y.s 0 = (recArgs p.record).extractLsb' 0 64 ∧ SMap.get y.s 1 = (recArgs p.record).extractLsb' 64 64 ∧
      SMap.get y.s 2 = (recArgs p.record).extractLsb' 128 64 ∧ SMap.get y.s 3 = recFrame p.record ∧
      ∀ k, 4 ≤ k → SMap.get y.s k = 0

/-! ### Chunks of the matrix engine (03 R85-R88, 07 R193, 13 R311) -/

/-- Position p of a row of elements: its bits; two e2m1 elements share a byte, the even one low. -/
def elemBits (get : Nat → Byte) (f : MFmt) (row p : Nat) : Nat :=
  if f = .e2m1 then (if p % 2 = 0 then (get (row + p / 2)).toNat % 16 else (get (row + p / 2)).toNat / 16)
  else readNum get (row + f.rowLen 1 * p) (f.rowLen 1)

/-- Its value: of e2m1 under the scale of the chunk's block in the row, a power of two, or NaN for 255 (R66, R87). -/
def elemValue (get : Nat → Byte) (f : MFmt) (d : MDesc) (r chunk p : Nat) : Val :=
  let v := f.fmt.unpack (elemBits get f (rowAt d.base d.stride r) p)
  let e := (get (d.sbase + r * d.sstride + chunk)).toNat
  if f = .e2m1 then (if e = 255 then quietNan else scaled v e) else v

/-- The stored positions of a row of A in a chunk and the positions in K that they stand for: a dense row's own, a sparse row's
by the nibbles of its metadata (R88, R193). -/
def chunkCells (get : Nat → Byte) (m : MStep) (r : Nat) : List (Nat × Nat) :=
  let t := m.fmt.terms
  let d := descOf true m.a
  let k0 := m.chunk * t
  if m.sparse = 0 then (List.range t).map fun p => (k0 + p, k0 + p)
  else
    let p0 := k0 / 16 * m.sparse
    let n := ((k0 + t - 1) / 16 + 1 - k0 / 16) * m.sparse
    ((List.range n).map fun j =>
      let p := p0 + j
      let b := (get (d.mbase + r * d.mstride + p / 2)).toNat
      (p, 16 * (p / m.sparse) + if p % 2 = 0 then b % 16 else b / 16)).filter fun q => k0 ≤ q.2 && q.2 < k0 + t

/-- Element (i, j) after the chunk: the fused chain in f32 and f64, else the exact sum of the products rounded once into an f32
accumulator (R85, R86). -/
def chunkGives (get : Nat → Byte) (m : MStep) (old i j : Nat) : Res :=
  let da := descOf true m.a
  let db := descOf true m.b
  let cells := chunkCells get m i
  if m.fmt = .f32 ∨ m.fmt = .f64 then
    cells.foldl (fun (r : Res) q =>
      let x := m.fmt.fmt.fma .rne (elemBits get m.fmt (rowAt da.base da.stride i) q.1)
        (elemBits get m.fmt (rowAt db.base db.stride j) q.2) r.bits
      ⟨x.bits, r.flags ||| x.flags⟩) ⟨old, 0⟩
  else addChunk old (chunkSum (cells.map fun q => (elemValue get m.fmt da i m.chunk q.1, elemValue get m.fmt db j m.chunk q.2)))

/-! ### Rays and marches (16 R366, R375, R376) -/

/-- Where a ray from o along v meets the triangle with the words `tw`: its distance, the two barycentric coordinates, and whether it
meets the front; none for a ray in its plane, a culled face, or a point outside (R366). -/
def triangleHit (tw : List Word) (flags : Word) (o v : V3) : Option (Q × Q × Q × Bool) :=
  match v3Of tw 0, v3Of tw 3, v3Of tw 6 with
  | some v0, some v1, some v2 =>
    let e1 := v1.sub v0
    let e2 := v2.sub v0
    let det := (e1.cross e2).dot v
    let dm := e1.dot (v.cross e2)
    let b := ((o.sub v0).dot (v.cross e2)).div dm
    let c := (v.dot ((o.sub v0).cross e1)).div dm
    let t := (e2.dot ((o.sub v0).cross e1)).div dm
    if det.isZero || flags.getLsbD (if det.num < 0 then 9 else 8) || decide (b.num < 0) || decide (c.num < 0) ||
      (Q.ofInt 1).lt (b.add c) then none
    else some (t, b, c, decide (det.num < 0))
  | _, _, _ => none

/-- Of triangles in an order, the nearest that is met in [tmin, tmax], the first of equals; with `any` the first that is met
(R366, R368). -/
def bestHit (any : Bool) (tmin tmax : ER) (hit : Nat → Option (Q × Q × Q × Bool)) (ks : List Nat) :
    Option (Nat × Q × Q × Q × Bool) :=
  ks.foldl (fun best k => match best, hit k with
    | none, some h => if tmin.le (.fin h.1) && (ER.fin h.1).le tmax then some (k, h) else none
    | some b, some h => if !any && tmin.le (.fin h.1) && h.1.lt b.2.1 then some (k, h) else some b
    | best, none => best) none

/-- The record of a ray: its hit, rounded once, or a miss (R215, R366). -/
def rayRecord : Option (Nat × Q × Q × Q × Bool) → List Word
  | none => missRecord
  | some (k, t, b, c, front) => [if front then 0x102 else 2, BitVec.ofNat 32 (t.round .rne fF32), BitVec.ofNat 32 k, 0xFFFFFFFF,
      BitVec.ofNat 32 (b.round .rne fF32), BitVec.ofNat 32 (c.round .rne fF32), 0, 0]

/-- A march's record: n draws, its type, o + t d with one rounding, t, a word, the cell and the brick's majorant (R215, R376). -/
def marchRecord (words : List Word) (n ty : Nat) (t w5 : Word) (cell : Nat → Nat) (maj : Nat) : List Word :=
  let pos (a : Nat) : Word := BitVec.ofNat 32 (fF32.fma .rne t.toNat (words.getD (4 + a) 0).toNat (words.getD a 0).toNat).bits
  [BitVec.ofNat 24 n ++ BitVec.ofNat 8 ty, pos 0, pos 1, pos 2, t, w5,
    0#2 ++ BitVec.ofNat 10 (cell 2) ++ BitVec.ofNat 10 (cell 1) ++ BitVec.ofNat 10 (cell 0),
    BitVec.ofNat 32 (cvtFloat fF16 fF32 .rne false maj).bits]

/-! ### Requests of the host (17 R391-R396) -/

/-- A request of a session arrives in its turn: its datagram is for the module and holds the message, both sites have booted, no alarm stands, it has
the number that the session expects next, and no later request is held. -/
structure InTurn (d : Datagram) (type : BitVec 8) (s : State) (x : Session) (r : Req) : Prop where
  heard   : s.listens d = true
  parse   : parseReq d = some r
  type    : r.type = type
  booted  : s.booted = true
  alarm   : s.alarm = false
  session : s.session? r.session = some x
  turn    : r.seq = x.expected
  held    : x.held = []

/-- The session as the request finds it: the module knows where the host is, and when it was heard last. -/
def State.hearing (s : State) (x : Session) (d : Datagram) (r : Req) : Session :=
  { x with port := d.port, addr := d.src, sport := d.sport, lastAt := s.elapsed, held := [(r.seq, d)] }

/-- The request is executed in a state `u` with the property P and answered there with a status and a payload (R392, R395). -/
def Responds (j : Instr) (s : State) (x : Session) (r : Req) (status : Nat) (payload : List Byte) (P : State → Prop) : Prop :=
  ∃ u, P u ∧ exec j s = .next (u.answered x.num r status payload)

/-! ### Barriers (06 R172-R178) -/

/-- The crew's barrier at `off` takes the object `b` and the masks, and opens when its arrivals are complete; `u` differs from
the issue in this alone, and in the lanes that an opening lets go or, without one, in what `ws` says of the waves. -/
def BarChange (i : Issue) (c : Crew) (off : Nat) (b : BarObj) (members arrived : BitVec 1024) (ws : List Wave) (u : State) : Prop :=
  let opens : Bool := b.arr = b.exp && b.bytes = 0
  ∃ d, u = { i.s with crews := u.crews, waves := u.waves } ∧ u.crew? c.key = some d ∧
    d = { c with scratch := d.scratch, bars := d.bars } ∧ (∀ k, k ≠ c.key → u.crew? k = i.s.crew? k) ∧
    d.barWord off = (if opens then barObj (b.exp - b.xit) 0 0 0 (b.ph + 1) else b) ∧
    d.slotAt off = some { off := off, cbuf := false, members := members, arrived := if opens then 0 else arrived } ∧
    (∀ o, o ≠ off → d.slotAt o = c.slotAt o) ∧
    (∀ a, a < off ∨ off + 16 ≤ a → SMap.get d.scratch a = SMap.get c.scratch a) ∧
    u.waves = if opens then (i.s.letGo c.key off).waves else ws

end Sys2Proof.Machine
end

