-- ==== Sys2Proof/Certificates/Slice0/Obligations.lean ====
section
/-!
DEFINITION. The statements about the machine, each with the rule of spec/ that it formalises.
-/
open Sys2Proof Sys2Proof.Machine

/-! ### Encoding (02) -/

/-- Decoding the word of a well-formed encoded instruction gives the instruction back, every field of it. -/
def Obligations.EncodedInstructionsDecode : Prop :=
  ∀ i : Instr, i.WellFormed = true → encode i ≠ .none → decodeEncoded (encode i) = some i

/-- Whatever the decoder accepts is well-formed, and encodes to the parcels it was read from (R29, R33, R35, R37).  What it
refuses, it refuses with a detail from 0x01 to 0x07: 0x01 for an OP of no instruction, 0x03 for bit 39 of a short word, and for
the long iadd the first check of R55 that fails: FN or MOD, a tag number without its valid bit, the guard, the kind of A, B or
D, the place of a v block, an unused field or a header bit that does not apply. -/
def Obligations.DecodedParcelsEncode : Prop :=
  (∀ (p0 p1 : Parcel) (i : Instr), decode p0 p1 = .ok i →
    i.WellFormed = true ∧ encode i = if isLong p0 then .long (p1 ++ p0) else .short p0) ∧
  (∀ (p0 p1 : Parcel) (d : BitVec 16), decode p0 p1 = .error d → 1 ≤ d.toNat ∧ d.toNat ≤ 7) ∧
  (∀ p0 p1 : Parcel, isLong p0 = true →
    (∀ i : Instr, i.WellFormed = true → ∀ u, encode i = .long u → longOp u ≠ longOp (p1 ++ p0)) → decode p0 p1 = .error 1) ∧
  (∀ p0 p1 : Parcel, isLong p0 = false → p0.getLsbD 39 = true → decode p0 p1 = .error 3) ∧
  ∀ p0 p1 : Parcel, isLong p0 = true → longOp (p1 ++ p0) = 0x01 → (p1 ++ p0).getLsbD 14 = false →
    let w : LongWord := p1 ++ p0
    let x := lrOf w
    let n := if w.getLsbD 10 then 2 else 1
    let rows := x.exr.toNat + 1
    let cols := x.exc.toNat + 1
    let stride := if x.rs = 0 then cols else if x.rs = 1 then 8 else if x.rs = 2 then 16 else 32
    let reads (y : Sel) : Bool := match y with
      | .v _ | .s _ | .b _ | .p _ | .inl _ => true
      | _ => false
    let writes : Bool := match x.d with
      | .v _ => true
      | .s _ => rows * cols = 1
      | _ => false
    let fits (y : Sel) : Bool := match y with
      | .v r => r.toNat % n = 0 && r.toNat + n * ((rows - 1) * stride + cols) ≤ 256
      | _ => true
    let inV : Bool := match x.d with
      | .v _ => true
      | _ => false
    decode p0 p1 =
      if w.getLsbD 11 || w.getLsbD 13 || w.extractLsb' 78 2 != 0 then .error 2
      else if !x.h.tav && x.h.tat != 0 then .error 3
      else if 12 ≤ x.h.gp.toNat && (x.h.gp != 15 || x.h.gn) then .error 4
      else if !reads x.a || !reads x.b || !writes then .error 5
      else if !fits x.a || !fits x.b || !fits x.d then .error 6
      else if x.c != .v 0 || x.h.tav || (x.h.ws && !inV) then .error 7
      else .ok (.iadd x (if w.getLsbD 10 then (if w.getLsbD 9 then .n64 else .i64) else if w.getLsbD 9 then .n32 else .i32)
        (w.getLsbD 12))

/-- The words that the spec works out bit by bit decode to the instructions they stand for: ffma and a short fadd of 02,
iadd.sat of 04, cvt of 05, call and ld.g of 06, mma.step of 07, trap of 08 and snap of 18. -/
def Obligations.WorkedWordsDecode : Prop :=
  let h : Hdr := { tc := 0, tav := false, tat := 0, ch := false, ws := false, gn := false, gp := 15 }
  (decodeBytes [0x47, 0x12, 0x29, 0x20, 0x40, 0x00, 0x50, 0x10, 0x68, 0x16]).toOption =
    some (.ffma { h := { h with tc := 8, ch := true, gn := true, gp := 2 }
                  rs := 1, exc := 3, exr := 1, c := .b 0, b := .s 5, a := .v 0, d := .v 16 } .f32 .rne) ∧
  (decodeBytes [0x96, 0xA1, 0x37, 0x12, 0x1A]).toOption =
    some (.faddShort { ch := false, ws := false, twv := true, twt := 5, gn := false, gp := 1
                       exc := 1, exr := 0, b := .inl 61, da := 12 }) ∧
  (decodeBytes [0x03, 0xD0, 0x07, 0x00, 0x50, 0xA0, 0x80, 0xA1, 0x0F, 0x00]).toOption =
    some (.iaddLi { h := h, imm := 1000, exc := 3, exr := 0, a := .v 20, d := .v 20 } .i32 true) ∧
  (decodeBytes [0xA1, 0x92, 0x07, 0x00, 0x28, 0xA0, 0x40, 0x20, 0x00, 0x06]).toOption =
    some (.cvt { h := h, rs := 0, exc := 3, exr := 0, c := .v 0, b := .v 0, a := .v 20, d := .v 10 } .rne true .e4m3 .f32) ∧
  (decodeBytes [0xC5, 0x80, 0x07, 0x00, 0x00, 0xFF, 0xFF, 0xFF, 0x23, 0x03]).toOption =
    some (.call { h := h, kind := 0, lk := .v 200, tgt := 0xFFFFFFC0 }) ∧
  (decodeBytes [0xE1, 0x84, 0x07, 0x02, 0x10, 0x10, 0x00, 0x40, 0x00, 0x46]).toOption =
    some (.ldG { h := { h with tav := true }, scp := 4, ord := 1, sc := 2, imm := 16, o := .v 0, sb := 2, d := .v 4 }
      .b32 false false) ∧
  (decodeBytes [0x61, 0x95, 0x07, 0x00, 0x60, 0x45, 0xC8, 0x10, 0x3B, 0xB2]).toOption =
    some (.mmaStep { h := h, f10 := 0x2C8, c := .inl 88, b := .s 12, a := .s 8, d := .m 0 } .f16 true false) ∧
  (decodeBytes [0xC5, 0x81, 0x07, 0x00, 0x00, 0x00, 0x00, 0x08, 0x01, 0x00]).toOption =
    some (.trap { h := h, imm := 0x42, exc := 0, exr := 0, a := .v 0, d := .v 0 }) ∧
  (decodeBytes [0xCD, 0x81, 0x07, 0x00, 0x00, 0x00, 0x00, 0x00, 0x00, 0x00]).toOption =
    some (.snap { h := h, rs := 0, exc := 0, exr := 0, c := .v 0, b := .v 0, a := .v 0, d := .v 0 })

/-! ### Steps and states -/

/-- A step fetches and decodes at the least PC of the wave whose turn it is, and runs the instruction; a fetch or a decoding
that fails is a trap.  The lanes that issue are the eligible lanes at the least PC; of the waves of a quarter that may issue it
takes an urgent one before another, then the one that has not issued for longest, then the lowest slot (R22, R247).  A move
of the agenda is run as it stands, when it is the step of an agent other than a wave and the
security alarm does not stop it; a time trigger that is due comes before either, under the alarm too (R22, R30, R55, R414,
R415).  A fetch whose packet the link does not take leaves the lanes held, or the wave waiting while the link trains (R385,
R386).  Around the instruction a step does one thing more: it
marks the launches whose code window it modified while they ran from it (R31), which a step that leaves memory
as it was does not do, and which changes nothing else.  The model's choice: one agent moves in a step, named in the agenda or
in turn (log entry 5), and a modified window is marked as a whole (log entry 9). -/
def Obligations.StepRunsTheDecodedInstruction : Prop :=
  (∀ (s u : State) (w : Wave) (pc : Word) (p0 p1 : Parcel),
    s.prepare.agenda = [] → s.prepare.alarm = false → s.prepare.snapDue = false → s.prepare.wavesTurn = true →
    s.prepare.pick = some w → w.settled.minPc w.settled.eligibleLanes = some pc →
    let q : State := { s.prepare with cur := w.key, turn := (w.core * 4 + w.quarter + 1) % 768 }
    (∀ i, q.fetch w pc = (u, .ok p0 p1) → decode p0 p1 = .ok i → step s = s.noteStep (exec i u)) ∧
    (∀ d, q.fetch w pc = (u, .ok p0 p1) → decode p0 p1 = .error d →
      step s = s.noteStep (failIssue (if isLong p0 then p1 ++ p0 else p0.setWidth 80) 0x01 d none u)) ∧
    (∀ insn code d a, q.fetch w pc = (u, .trap insn code d a) →
      step s = s.noteStep (failIssue insn code d (some a) u)) ∧
    (q.fetch w pc = (u, .far) → step s = s.noteStep (.next (if u.numbers then { u with held := u.cur :: u.held }
      else { u.setWave (w.settled.holdLanes w.settled.issueSet) with held := [] })))) ∧
  (∀ (s : State) (i : Instr) (is : List Instr), s.prepare.agenda = i :: is → i.parts = .step →
    (s.prepare.alarm = true → underAlarm i = true) → s.prepare.snapDue = false →
      step s = s.noteStep (exec i { s.prepare with agenda := is })) ∧
  (∀ s : State, s.prepare.snapDue = true → step s = s.noteStep (exec .snapTime s.prepare)) ∧
  (∀ (s : State) (w : Wave), s.pick = some w →
    w ∈ s.waves ∧ w.settled.eligibleLanes ≠ [] ∧ w.key ∉ s.held ∧
    ∀ u ∈ s.waves, u.core = w.core → u.quarter = w.quarter → u.settled.eligibleLanes ≠ [] → u.key ∉ s.held →
      (s.chainedWave w.core w.quarter = none ∨ s.chainedWave w.core w.quarter = some u.key) →
      u.slot < 128 → w.slot < 128 → u.lastIssue ≤ s.issues → w.lastIssue ≤ s.issues →
      (u.urgent = true → w.urgent = true) ∧ (u.urgent = w.urgent → w.lastIssue ≤ u.lastIssue ∧
        (w.lastIssue = u.lastIssue → w.slot ≤ u.slot))) ∧
  (∀ (w : Wave) (pc : Word), w.lanes.length = 32 → w.minPc w.eligibleLanes = some pc →
    (∃ l ∈ w.eligibleLanes, (w.lane l).pc = pc) ∧ (∀ l ∈ w.eligibleLanes, pc.toNat ≤ (w.lane l).pc.toNat) ∧
    (∀ l, l ∈ w.eligibleLanes ↔ w.parked = [] ∧ l < 32 ∧ (w.lane l).life = .live ∧ (w.lane l).defer = false ∧
      (w.lane l).block = .none) ∧
    (w.rejoins = [] → ∀ l, l ∈ w.issueSet ↔ l ∈ w.eligibleLanes ∧ (w.lane l).pc = pc)) ∧
  (∀ (s t : State), ∃ ls : List Launch, s.noteStep (.next t) = .next { t with launches := ls } ∧
    ls.map (fun l => { l with codeFree := false }) = t.launches.map (fun l => { l with codeFree := false }) ∧
    (t.mem = s.mem → ls = t.launches)) ∧
  (∀ (s : State) (f : Fault), s.noteStep (.fault f) = .fault f) ∧
  (∀ (s : State) (r : Refusal), s.noteStep (.refused r) = .refused r)

/-- Memory has its canonical form at reset, the state its shape, and nothing runs: no launch, no crew, no wave.  The model's
choice: memory lists nothing at reset (log entry 1), and reset is the state of a booted module (log entry 4). -/
def Obligations.ResetIsCanonical : Prop :=
  State.reset.Canonical ∧ State.reset.Shaped ∧ State.reset.mem = [] ∧ State.reset.waves = [] ∧ State.reset.crews = [] ∧ State.reset.launches = []

/-- Every step keeps the canonical form of memory. -/
def Obligations.StepKeepsMemoryCanonical : Prop := ∀ s t : State, s.Canonical → step s = .next t → t.Canonical

/-- The registers that the spec gives a reset value hold it after reset: ST_SCHED, ST_POOL, ST_TLBLAUNCH (R338, R333, R301),
CL_ISSUE, CL_SLOPE (R256, R402), the operating points (R401), ST_METER and ST_SCAN disabled (R348, R356), full link width
(R384); a new wave has fpcr and fpsr 0 and empty latches (R76, R77, R50), and its lanes begin at the task's entry (R223).  The
model's choice: reset is the state of a booted module, whose controllers hold these values (log entry 4). -/
def Obligations.ResetValues : Prop :=
  (∀ x, let t := State.reset.site x
    t.sched = 0x03E807D001F40014 ∧ t.pool = 0 ∧ t.tlbLaunch = 0 ∧ t.meter.en = false ∧ t.scan.reg = 0 ∧ t.queues = [] ∧
    t.link.length = 4 ∧ ∀ m ∈ t.link, m.width = 3 ∧ m.wreq = 3 ∧ m.wbad = 0 ∧ m.wmap = 0) ∧
  (∀ k < 24, (State.reset.cluster k).issue = 0x0403 ∧ (State.reset.cluster k).slope = 8 ∧ (State.reset.cluster k).cycles = 0) ∧
  State.reset.opp = [1200, 1000, 800, 600] ∧
  (∀ core slot quarter crew num entry regs, let w := newWave core slot quarter crew num entry regs
    w.fpcr = 0 ∧ (∀ l < 32, (w.lane l).fpsr = 0 ∧ (w.lane l).pc = entry ∧ (w.lane l).life = .live) ∧
    ∀ x ∈ w.latches, x.empty = true)

/-- Register files and memories are maps that hold what was written last, leave every other place alone, and keep their
canonical form, in which maps that read alike everywhere are equal.  Every step keeps the shape of the state: the lengths of
its lists, the canonical form of its maps, and that no two waves or crews stand in one slot of a core (R19, R20, R26, R264).
The premises about shape in the other statements are parts of this invariant. -/
def Obligations.MapsHoldWhatWasWritten : Prop :=
  (∀ (w : Nat) (m : SMap w) (k : Nat) (v : BitVec w), SMap.wf m = true →
    SMap.wf (SMap.set m k v) = true ∧ ∀ j, SMap.get (SMap.set m k v) j = if j = k then v else SMap.get m j) ∧
  (∀ (w : Nat) (m n : SMap w), SMap.wf m = true → SMap.wf n = true → (∀ k, SMap.get m k = SMap.get n k) → m = n) ∧
  ∀ s t : State, s.Shaped → step s = .next t → t.Shaped

/-! ### The issue of an instruction (02 R46-R52, 03 R79, 10 R260-R266) -/

/-- An encoded instruction whose tags are not complete waits at issue, and nothing of it is done (R46, R48).  The model's
choice (log entry 5): the wait is a mark in the list of waves held until something changes, and an instruction without an
issuing wave has no meaning, which no step meets. -/
def Obligations.IssueWaitsForTags : Prop :=
  ∀ (i : Instr) (s : State), i.parts ≠ .step →
    (s.wave? s.cur = none → exec i s = .fault .noIssuingWave) ∧
    (∀ w, s.wave? s.cur = some w → w.settled.issueSet ≠ [] → w.settled.tagsReady (instrHead i) = false →
      exec i s = .next { s with held := s.cur :: s.held })

/-- What an issue without a trap leaves, given its effect: its words and its predicates written in the issuing wave unless WS
suppresses them, its s register, every issuing lane at its branch target or past the instruction's parcels with one more
instruction retired, the latches shifted under CH and lost without it; nothing else changes but the issuing core and crew
and the count of issues (R22, R30, R34, R50, R51, R243, R247). -/
def Obligations.RetiringAnIssue : Prop :=
  ∀ (i : Instr) (s : State) (w w1 : Wave) (e : Eff), Issues i s w → w.lanes.length = 32 → e.traps = [] → e.pend = none → e.held = [] →
    e.s.wave? s.cur = some w1 → w1.key = s.cur → w1.lanes.length = 32 →
    let iss := issueOf i s w
    let t := State.retire iss e
    let k := if iss.h.ch && !iss.h.blk then Entry.latch e.entry :: w1.latches.take 3
      else (Entry.latch e.entry :: w1.latches.take 3).map fun x => { x with lost := true }
    t = { e.s with waves := t.waves, cores := t.cores, crews := t.crews, issues := e.s.issues + 1, held := [] } ∧
    (∀ c, c ≠ s.cur → t.wave? c = e.s.wave? c) ∧
    (∀ c, c ≠ w1.core → t.core c = e.s.core c) ∧
    (∀ c, c ≠ w1.crew → t.crew? c = e.s.crew? c) ∧
    ∃ w' : Wave, t.wave? s.cur = some w' ∧
      w'.v = (if iss.h.ws then w1.v else SMap.setAll w1.v e.vw) ∧
      w'.s = (match e.sw with
        | some (r, x) => if iss.h.ws then w1.s else SMap.set w1.s r x
        | none => w1.s) ∧
      w'.latches = k ∧ w'.fpcr = w1.fpcr ∧ w'.ports = w1.ports ∧ w'.handles = w1.handles ∧
      (∀ l ∈ iss.xs,
        (w'.lane l).pc = (match e.pcs.find? fun q => q.1 = l with
          | some q => q.2
          | none => (w1.lane l).pc + BitVec.ofNat 32 iss.h.len) ∧
        (w'.lane l).retired = (w1.lane l).retired + 1) ∧
      (∀ l, l ∉ iss.xs → (w'.lane l).pc = (w1.lane l).pc ∧ (w'.lane l).retired = (w1.lane l).retired) ∧
      (∀ l, (w'.lane l).life = (w1.lane l).life ∧ (w'.lane l).fpsr = (w1.lane l).fpsr ∧ (w'.lane l).block = (w1.lane l).block) ∧
      ∀ l < 32, ∀ j < 12, (w'.lane l).pred j = match e.pw.reverse.find? fun q => q.1 = l && q.2.1 = j with
        | some q => q.2.2
        | none => (w1.lane l).pred j

/-- What writing a block comes to: one word for each register of each element of each acting lane at a v destination, at the
place that the extent gives it, with the elements as the next instruction's latch entry; at an s destination element 0 of
the lowest acting lane; nothing else, and no trap (R41, R42, R43, R44, R50). -/
def Obligations.BlocksWriteTheirElements : Prop :=
  ∀ (i : Issue) (e : Ext) (n : Nat) (sx : Bool) (f : Nat → Nat → DWord), i.first = 0 → 0 < e.count →
    (∀ r : BitVec 8, let b := blockOf i e n sx false (.v r) f
      (∀ key word, (key, word) ∈ b.vw ↔ ∃ l ∈ i.act, ∃ k < e.count, ∃ h < n,
        key = 32 * (r.toNat + n * (k / e.cols * e.stride + k % e.cols) + h) + l ∧
        word = ((f l k).setWidth 512).extractLsb' (32 * h) 32) ∧
      b.sw = none ∧ b.pw = [] ∧ b.pcs = [] ∧ b.pend = none ∧ b.traps = [] ∧ b.s = i.s ∧
      ∃ x, b.entry = some x ∧ x.wide = decide (n = 2) ∧ x.count = min e.count 8 ∧
        ∀ key v, (key, v) ∈ x.elems ↔ ∃ l ∈ i.act, ∃ k < min e.count 8, key = 32 * k + l ∧ v = f l k) ∧
    (∀ r : BitVec 6, let b := blockOf i e n sx false (.s r) f
      b.vw = [] ∧ b.pw = [] ∧ b.pcs = [] ∧ b.pend = none ∧ b.traps = [] ∧ b.entry = none ∧ b.s = i.s ∧
      b.sw = i.act.head?.map fun l => (r.toNat,
        if n = 1 then (if sx then ((f l 0).setWidth 32).signExtend 64 else ((f l 0).setWidth 32).setWidth 64) else f l 0))

/-- A group of lanes that takes an exception parks as one fragment in the lowest free entry of its core's bivouac, with the
PC, the instruction, the element, the code and the detail; a page fault goes to the system controller first, any other to
the handler; with no entry free it parks at wave level.  Its lanes are parked, and nothing else of the wave and of the state
changes: no register, predicate, latch, tag, port or handle, no other lane (R262, R264, R265, R266). -/
def Obligations.TrappedLanesPark : Prop :=
  ∀ (s : State) (key : Nat) (g : TrapGroup) (w : Wave) (c : Crew), s.wave? key = some w → s.crew? w.crew = some c →
    w.lanes.length = 32 → w.core < s.cores.length → (s.core w.core).bivouac.length = 64 →
    let t := s.park key g
    (∀ k, k ≠ key → t.wave? k = s.wave? k) ∧ t = { s with waves := t.waves, cores := t.cores, nextId := s.nextId + 1 } ∧
    (∀ k, k ≠ w.core → t.core k = s.core k) ∧
    (∃ w' : Wave, t.wave? key = some w' ∧ w' = { w with lanes := w'.lanes, parked := w'.parked } ∧ w'.lanes.length = 32 ∧
      ∀ l < 32, w'.lane l = if l ∈ g.lanes then { w.lane l with life := .parked } else w.lane l) ∧
    match (s.core w.core).freeEntry with
    | some n => ∃ b : Bivouac, (t.core w.core).bivouac[n]? = some b ∧ (∀ m, m ≠ n →
          (t.core w.core).bivouac[m]? = (s.core w.core).bivouac[m]?) ∧
        b.state = (if g.code = 0x05 then .controller else .waiting) ∧ b.lanes = g.lanes ∧ b.pc = g.pc ∧ b.code = g.code ∧
        b.detail = g.detail ∧ b.elem = g.elem ∧ b.insn = g.insn ∧ b.addrs = g.addrs ∧ b.latches = g.latches ∧
        b.launch = c.launch ∧ b.tindex = recTindex c.record ∧ b.wave = w.key ∧ ∀ w', t.wave? key = some w' → w'.parked = w.parked
    | none => t.cores = s.cores ∧
        ∃ w' : Wave, t.wave? key = some w' ∧ w'.parked = w.parked ++ [{ g with order := s.nextId }]

/-- A fetch or a decoding that fails is a trap of every lane at the issue address: it waits for an untagged result, which lands
first (R48); then the lanes park together at element 0 with the instruction's word, and the wave's latches are lost (R30, R51,
R55).  An instruction whose operand cannot be read in some element takes LATCH_LOST there, with the lowest detail that holds: 1
lost, 2 empty, 3 too few elements, 4 another width; stated for iadd with a latch as A and v registers as B, at the element
where it begins (R52, R259). -/
def Obligations.IssuesThatTrap : Prop :=
  (∀ (s : State) (insn : LongWord) (code : BitVec 8) (detail : BitVec 16) (w : Wave), s.wave? s.cur = some w →
    w.settled.issueSet ≠ [] → w.settled.directReady = false →
    failIssue insn code detail none s = .next { s with held := s.cur :: s.held }) ∧
  (∀ (s : State) (insn : LongWord) (code : BitVec 8) (detail : BitVec 16) (w : Wave) (c : Crew) (n : Nat) (l : Nat)
      (ls : List Nat), s.wave? s.cur = some w → s.crew? w.crew = some c → w.lanes.length = 32 → w.core < s.cores.length →
    w.settled.issueSet = l :: ls → w.settled.rejoinNow = none → w.settled.directReady = true →
    (s.core w.core).bivouac.length = 64 → (s.core w.core).freeEntry = some n →
    ∃ t b, failIssue insn code detail none s = .next t ∧ (t.core w.core).bivouac[n]? = some b ∧
      b.code = code ∧ b.detail = detail ∧ b.elem = 0 ∧ b.insn = insn ∧ b.pc = (w.lane l).pc ∧ b.lanes = l :: ls ∧
      ∃ w', t.wave? s.cur = some w' ∧ (∀ m ∈ l :: ls, (w'.lane m).life = .parked ∧ (w'.lane m).pc = (w.lane m).pc) ∧
        (∀ x ∈ w'.latches, x.lost = true) ∧ w'.direct = none ∧
        (∀ p, w.direct = some p → w'.v = SMap.setAll w.v p.vw ∧
          w'.s = match p.sw with
            | some (r, x) => SMap.set w.s r x
            | none => w.s) ∧
        (w.direct = none → w'.v = w.v ∧ w'.s = w.s)) ∧
  (∀ (x : LR) (t : ITy) (sat : Bool) (s : State) (w : Wave) (b : BitVec 2) (r : BitVec 8), Issues (.iadd x t sat) s w →
    x.a = .b b → x.b = .v r →
    let i := issueOf (.iadd x t sat) s w
    let y := i.w.latches.getD b.toNat {}
    i.first < x.extent.count →
    (y.lost = true ∨ y.empty = true ∨ y.count ≤ i.first ∨ y.wide ≠ decide (t.regs = 2)) →
    ∃ e : Eff, exec (.iadd x t sat) s = finishIssue i (instrWord (.iadd x t sat)) e ∧
      e.traps = i.act.map (fun l =>
        { lane := l, code := 0x02
          detail := if y.lost then 1 else if y.empty then 2 else if y.count ≤ i.first then 3 else 4
          elem := i.first }) ∧
      e.vw = [] ∧ e.sw = none)

/-! ### Integer, logic, compare and predicate instructions (04) -/

/-- mov copies A, an immediate extended to the type, a literal (sign-extended for .i64), or B in the short form (R98, R38). -/
def Obligations.MovesCopy : Prop :=
  (∀ x t, LrGives1 (.mov x t) x t fun a => a) ∧
  (∀ x t, Gives0 (.movLi x t) x.extent t.regs (t = .i32) x.d (wide (low t (x.imm.signExtend 64)))) ∧
  (∀ x t, t = .i64 → Gives0 (.movLk x t) x.extent t.regs false x.d (x.imm.signExtend 64)) ∧
  (∀ x t, t ≠ .i64 → Gives0 (.movLk x t) x.extent t.regs (t = .i32) x.d (x.imm.setWidth 64)) ∧
  (∀ x, ShGives (.movShort x) x fun _ b => b)

/-- iadd, isub, imul and their LI and short forms: the exact result wrapped to the type's width, or held to its range with
.sat; imulh, imad, imad.wide, iabs and ineg; imin and imax in all forms (R99, R100, R38). -/
def Obligations.IntegerArithmetic : Prop :=
   ((∀ x t sat, LrGives2 (.iadd x t sat) x t t.regs fun a b =>
      if sat then clampTo t (intVal t a + intVal t b) else wide (low t a + low t b)) ∧
    (∀ x t sat, LrGives2 (.isub x t sat) x t t.regs fun a b =>
      if sat then clampTo t (intVal t a - intVal t b) else wide (low t a - low t b)) ∧
    (∀ x t, LrGives2 (.imul x t) x t t.regs fun a b => wide (low t a * low t b)) ∧
    (∀ x t sat, LiGives (.iaddLi x t sat) x t fun a =>
      if sat then clampTo t (intVal t a + intVal t (x.imm.signExtend 64))
      else wide (low t a + low t (x.imm.signExtend 64))) ∧
    (∀ x t sat, LiGives (.isubLi x t sat) x t fun a =>
      if sat then clampTo t (intVal t a - intVal t (x.imm.signExtend 64))
      else wide (low t a - low t (x.imm.signExtend 64))) ∧
    (∀ x t, LiGives (.imulLi x t) x t fun a => wide (low t a * low t (x.imm.signExtend 64))) ∧
    (∀ x, ShGives (.iaddShort x) x fun a b => wide (low .i32 a + low .i32 b)) ∧
    (∀ x, ShGives (.isubShort x) x fun a b => wide (low .i32 a - low .i32 b))) ∧
   ((∀ x t, LrGives2 (.imulh x t) x t t.regs fun a b =>
      wide (BitVec.ofInt (wOf t) (intVal t a * intVal t b / 2 ^ wOf t))) ∧
    (∀ x t, LrGives3 (.imad x t) x t t.regs fun a b c => wide (low t a * low t b + low t c)) ∧
    (∀ x t, t.regs = 1 → Gives3 (.imadWide x t) x.extent 2 false x.d (.int 1) x.a (.int 1) x.b (.int 2) x.c fun a b c =>
      BitVec.ofInt 64 (intVal t a * intVal t b) + c) ∧
    (∀ x t sat, t.signed = true → LrGives1 (.iabs x t sat) x t fun a =>
      if sat then clampTo t (intVal t a).natAbs else wide (BitVec.ofInt (wOf t) (intVal t a).natAbs)) ∧
    (∀ x t sat, t.signed = true → LrGives1 (.ineg x t sat) x t fun a =>
      if sat then clampTo t (-intVal t a) else wide (-low t a)) ∧
    (∀ x t, LrGives2 (.imin x t) x t t.regs fun a b => wide (BitVec.ofInt (wOf t) (min (intVal t a) (intVal t b)))) ∧
    (∀ x t, LrGives2 (.imax x t) x t t.regs fun a b => wide (BitVec.ofInt (wOf t) (max (intVal t a) (intVal t b)))) ∧
    (∀ x t, LiGives (.iminLi x t) x t fun a =>
      wide (BitVec.ofInt (wOf t) (min (intVal t a) (intVal t (x.imm.signExtend 64))))) ∧
    (∀ x t, LiGives (.imaxLi x t) x t fun a =>
      wide (BitVec.ofInt (wOf t) (max (intVal t a) (intVal t (x.imm.signExtend 64))))) ∧
    (∀ x, ShGives (.iminShort x) x fun a b => wide (BitVec.ofInt 32 (min (intVal .i32 a) (intVal .i32 b)))) ∧
    (∀ x, ShGives (.imaxShort x) x fun a b => wide (BitVec.ofInt 32 (max (intVal .i32 a) (intVal .i32 b)))))

/-- addc and subc: the sum or difference with bit 0 of C as carry in, or its carry or borrow out (R102); lea: (A + ext(B) x 2^s)
mod 2^64, in both forms (R103). -/
def Obligations.CarriesAndAddresses : Prop :=
  (∀ x t co, LrGives3 (.addc x t co) x t 1 fun a b c =>
    let cin := (c.getLsbD 0).toNat
    if co then (if 2 ^ wOf t ≤ (low t a).toNat + (low t b).toNat + cin then 1 else 0)
    else wide (low t a + low t b + BitVec.ofNat _ cin)) ∧
  (∀ x t co, LrGives3 (.subc x t co) x t 1 fun a b c =>
    let cin := (c.getLsbD 0).toNat
    if co then (if ((low t a).toNat : Int) - (low t b).toNat - cin < 0 then 1 else 0)
    else wide (low t a - low t b - BitVec.ofNat _ cin)) ∧
  (∀ x t sc, Gives2 (.lea x t sc) x.extent 2 false x.d (.int 2) x.a (.int t.regs) x.b fun a b =>
    a + BitVec.ofInt 64 (intVal t b) * BitVec.twoPow 64 sc.toNat) ∧
  (∀ x t sc, Gives1 (.leaLi x t sc) x.extent 2 false x.d (.int 2) x.a fun a =>
    a + x.imm.signExtend 64 * BitVec.twoPow 64 sc.toNat)

/-- idiv and irem: the quotient truncated toward zero and the remainder with the sign of the dividend; of a zero divisor
that does not trap, all ones and the dividend (R101).  The result lands later, with the instruction's tag if it has one.  A zero
divisor with fpcr.IDZE set takes INT_DIVZERO at its element, and the elements before it are written (R76, R101, R259). -/
def Obligations.DivisionAndRemainder : Prop :=
  let quotient (t : ITy) (a b : DWord) : DWord :=
    if b = 0 then wide (BitVec.allOnes (wOf t))
    else if t.signed then wide ((low t a).sdiv (low t b)) else wide (low t a / low t b)
  let remainder (t : ITy) (a b : DWord) : DWord :=
    if b = 0 then a
    else if t.signed then wide ((low t a).srem (low t b)) else wide (low t a % low t b)
  ∀ x t s w A B,
    let gives (i : Instr) (f : DWord → DWord → DWord) : Prop :=
      Issues i s w → Supplies (issueOf i s w) x.extent (.int t.regs) x.a A →
      Supplies (issueOf i s w) x.extent (.int t.regs) x.b B →
      (∀ l ∈ (issueOf i s w).act, ∀ k, (issueOf i s w).first ≤ k → k < x.extent.count →
        B l k ≠ 0 ∨ (issueOf i s w).w.fpcr.getLsbD 8 = false) →
      Completes i s w (blockOf (issueOf i s w) x.extent t.regs (t = .i32) true x.d fun l k => f (A l k) (B l k))
    let traps (j : Instr) (f : DWord → DWord → DWord) : Prop :=
      let i := issueOf j s w
      Issues j s w → Supplies i x.extent (.int t.regs) x.a A → Supplies i x.extent (.int t.regs) x.b B →
      i.w.fpcr.getLsbD 8 = true → ∀ z : Nat → Nat,
      (∀ l ∈ i.act, i.first ≤ z l ∧ z l < x.extent.count ∧ B l (z l) = 0 ∧ ∀ k, i.first ≤ k → k < z l → B l k ≠ 0) →
      ∃ e : Eff, exec j s = finishIssue i (instrWord j) e ∧
        e.traps = i.act.map (fun l => { lane := l, code := 0x18, elem := z l }) ∧ e.vw = [] ∧
        ∀ d, x.d = .v d → ∃ p, e.pend = some p ∧ ∀ key word, (key, word) ∈ p.vw ↔
          ∃ l ∈ i.act, ∃ k, i.first ≤ k ∧ k < z l ∧ ∃ h < t.regs,
            key = 32 * (d.toNat + t.regs * (k / x.extent.cols * x.extent.stride + k % x.extent.cols) + h) + l ∧
            word = ((f (A l k) (B l k)).setWidth 512).extractLsb' (32 * h) 32
    gives (.idiv x t) (quotient t) ∧ gives (.irem x t) (remainder t) ∧ traps (.idiv x t) (quotient t) ∧
    traps (.irem x t) (remainder t)

/-- and, or, xor, andn and not, in all forms; pand, por, pxor, pnot and pmov write one predicate from the truth of their sources
(R104, R38, R114). -/
def Obligations.LogicOnPatternsAndPredicates : Prop :=
   ((∀ x t, LrGives2 (.and x t) x t t.regs fun a b => a &&& b) ∧
    (∀ x t, LrGives2 (.or x t) x t t.regs fun a b => a ||| b) ∧
    (∀ x t, LrGives2 (.xor x t) x t t.regs fun a b => a ^^^ b) ∧
    (∀ x t, LrGives2 (.andn x t) x t t.regs fun a b => a &&& wide (~~~low t b)) ∧
    (∀ x t, LrGives1 (.not x t) x t fun a => wide (~~~low t a)) ∧
    (∀ x t, LiGives (.andLi x t) x t fun a => a &&& wide (low t (x.imm.signExtend 64))) ∧
    (∀ x t, LiGives (.orLi x t) x t fun a => a ||| wide (low t (x.imm.signExtend 64))) ∧
    (∀ x t, LiGives (.xorLi x t) x t fun a => a ^^^ wide (low t (x.imm.signExtend 64))) ∧
    (∀ x t, LiGives (.andnLi x t) x t fun a => a &&& wide (~~~low t (x.imm.signExtend 64))) ∧
    (∀ x, ShGives (.andShort x) x fun a b => a &&& b) ∧
    (∀ x, ShGives (.orShort x) x fun a b => a ||| b) ∧
    (∀ x, ShGives (.xorShort x) x fun a b => a ^^^ b)) ∧
   (∀ x s w A B,
      let gives (i : Instr) (f : Bool → Bool → Bool) : Prop :=
        Issues i s w → Supplies (issueOf i s w) (.dense 1 1) (.int 1) x.a A →
        Supplies (issueOf i s w) (.dense 1 1) (.int 1) x.b B →
        Completes i s w (predBlock (issueOf i s w) (.dense 1 1) (predOf x.d) fun l k =>
          f (decide (A l k ≠ 0)) (decide (B l k ≠ 0)))
      gives (.pand x) (fun a b => a && b) ∧ gives (.por x) (fun a b => a || b) ∧ gives (.pxor x) (fun a b => a ^^ b) ∧
      gives (.pnot x) (fun a _ => !a) ∧ gives (.pmov x) (fun a _ => a))

/-- shl, shr and sra in all forms: the count is 32 bits unmasked, an immediate count included (R105, R38). -/
def Obligations.Shifts : Prop :=
  (∀ x t, LrGives2 (.shl x t) x t 1 fun a k => wide (low t a <<< k.toNat)) ∧
  (∀ x t, LrGives2 (.shr x t) x t 1 fun a k => wide (low t a >>> k.toNat)) ∧
  (∀ x t, LrGives2 (.sra x t) x t 1 fun a k => wide ((low t a).sshiftRight k.toNat)) ∧
  (∀ x t, LiGives (.shlLi x t) x t fun a => wide (low t a <<< (x.imm.signExtend 32).toNat)) ∧
  (∀ x t, LiGives (.shrLi x t) x t fun a => wide (low t a >>> (x.imm.signExtend 32).toNat)) ∧
  (∀ x t, LiGives (.sraLi x t) x t fun a => wide ((low t a).sshiftRight (x.imm.signExtend 32).toNat)) ∧
  (∀ x, ShGives (.shlShort x) x fun a k => wide (low .i32 a <<< k.toNat)) ∧
  (∀ x, ShGives (.shrShort x) x fun a k => wide (low .i32 a >>> k.toNat)) ∧
  (∀ x, ShGives (.sraShort x) x fun a k => wide ((low .i32 a).sshiftRight k.toNat))

/-- shf, bfe, bfi and lut3 (R106, R107, R109). -/
def Obligations.FieldsOfBits : Prop :=
  (∀ x t right, LrGives3 (.shf x t right) x t 1 fun a b c =>
    let k := c.toNat % (2 * wOf t)
    let cat := low t a ++ low t b
    if right then wide ((cat >>> k).setWidth (wOf t)) else wide ((cat <<< k).extractLsb' (wOf t) (wOf t))) ∧
  (∀ x t, LrGives2 (.bfe x t) x t 1 fun a c =>
    let pos := min (c.extractLsb' 0 8).toNat (wOf t)
    let len := min (c.extractLsb' 8 8).toNat (wOf t - pos)
    let f := (low t a).extractLsb' pos len
    if t.signed then wide (f.signExtend (wOf t)) else wide f) ∧
  (∀ x t, LrGives3 (.bfi x t) x t 1 fun a b c =>
    let pos := min (c.extractLsb' 0 8).toNat (wOf t)
    let len := min (c.extractLsb' 8 8).toNat (wOf t - pos)
    let mask : BitVec (wOf t) := (BitVec.allOnes len).setWidth (wOf t) <<< pos
    wide ((low t b &&& ~~~mask) ||| ((low t a <<< pos) &&& mask))) ∧
  (∀ x (table : BitVec 8), ∃ f : DWord → DWord → DWord → DWord,
    Gives3 (.lut3 x table) x.extent 1 false x.d (.int 1) x.a (.int 1) x.b (.int 1) x.c f ∧
    ∀ a b c, (∀ j < 32, (f a b c).getLsbD j =
        table.getLsbD (4 * (a.getLsbD j).toNat + 2 * (b.getLsbD j).toNat + (c.getLsbD j).toNat)) ∧
      ∀ j, 32 ≤ j → (f a b c).getLsbD j = false)

/-- popc, clz, ctz and brev (R108). -/
def Obligations.CountsOfBits : Prop :=
  (∀ x t, LrGives1 (.popc x t) x t fun a => BitVec.ofNat 64 ((List.range (wOf t)).countP fun j => a.getLsbD j)) ∧
  (∀ x t, ∃ f : DWord → DWord, LrGives1 (.clz x t) x t f ∧
    ∀ a, (f a).toNat ≤ wOf t ∧ (∀ j < wOf t, wOf t - (f a).toNat ≤ j → (low t a).getLsbD j = false) ∧
      ((f a).toNat < wOf t → (low t a).getLsbD (wOf t - 1 - (f a).toNat) = true)) ∧
  (∀ x t, ∃ f : DWord → DWord, LrGives1 (.ctz x t) x t f ∧
    ∀ a, (f a).toNat ≤ wOf t ∧ (∀ j < (f a).toNat, (low t a).getLsbD j = false) ∧
      ((f a).toNat < wOf t → (low t a).getLsbD (f a).toNat = true)) ∧
  (∀ x t, ∃ f : DWord → DWord, LrGives1 (.brev x t) x t f ∧
    ∀ a, (∀ j < wOf t, (f a).getLsbD j = (low t a).getLsbD (wOf t - 1 - j)) ∧ ∀ j, wOf t ≤ j → (f a).getLsbD j = false)

/-- icmp writes the truth of the relation to predicate element n; sel copies A or B by C ≠ 0 (R111, R113). -/
def Obligations.CompareAndSelect : Prop :=
  (∀ x t cc s w A B, Issues (.icmp x t cc) s w →
    Supplies (issueOf (.icmp x t cc) s w) x.extent (.int t.regs) x.a A →
    Supplies (issueOf (.icmp x t cc) s w) x.extent (.int t.regs) x.b B →
    Completes (.icmp x t cc) s w (predBlock (issueOf (.icmp x t cc) s w) x.extent (predOf x.d) fun l k =>
      let a := intVal t (A l k)
      let b := intVal t (B l k)
      match cc with
      | .eq => decide (a = b)
      | .ne => decide (a ≠ b)
      | .lt => decide (a < b)
      | .le => decide (a ≤ b)
      | .gt => decide (b < a)
      | .ge => decide (b ≤ a))) ∧
  (∀ x w64, Gives3 (.sel x w64) x.extent (if w64 then 2 else 1) false x.d (.int (if w64 then 2 else 1)) x.a
    (.int (if w64 then 2 else 1)) x.b (.int 1) x.c fun a b c => if c = 0 then b else a)


/-! ### Numbers and floating-point instructions (03, 05) -/

/-- A rounding gives one of the two neighbours of the exact value n / d in units of 2^q that the mode asks for, and reports
whether it is inexact (R71).  Into a format, the unit is that of the value's binade, or of the subnormal numbers; a magnitude
above the largest finite one overflows to infinity or to the largest, as the mode, the format and .sat say, with overflow and
inexact (R73); any other result is that number, with inexact when it differs from the value, and with underflow when it also
was tiny after rounding (R74).  A zero has the sign given, and no flag (R75). -/
def Obligations.RoundingFollowsTheMode : Prop :=
  (∀ (n d : Nat) (q : Int) (rm : Mode) (neg : Bool), 0 < d →
    let num := n * 2 ^ (-q).toNat
    let den := d * 2 ^ q.toNat
    let lo := num / den
    let m := (roundUnits n d q rm neg).1
    ((roundUnits n d q rm neg).2 = true ↔ num % den ≠ 0) ∧
    (num % den = 0 → m = lo) ∧
    (num % den ≠ 0 →
      match rm with
      | .rne => if 2 * (num % den) < den then m = lo else if den < 2 * (num % den) then m = lo + 1
          else m % 2 = 0 ∧ (m = lo ∨ m = lo + 1)
      | .rna => m = if 2 * (num % den) < den then lo else lo + 1
      | .rtz => m = lo
      | .rup => m = if neg then lo else lo + 1
      | .rdn => m = if neg then lo + 1 else lo)) ∧
  (∀ f ∈ [fF64, fF32, fF16, fBf16, fE4m3, fE5m2, fE2m1], ∀ (rm : Mode) (neg sat : Bool) (n d : Nat) (k : Int),
    0 < n → 0 < d → IsLog2 n d k →
    let least : Int := 1 - (f.bias : Int)
    let q := max (k - f.fbits) (least - f.fbits)
    let r := roundUnits n d q rm neg
    let u := (roundUnits n d (k - f.fbits) rm neg).1
    let tiny : Bool := u * 2 ^ (k - f.fbits - least).toNat < 2 ^ (least + f.fbits - k).toNat
    let res := f.roundTo rm neg n d sat
    ∀ M E, f.unpack f.maxBits = .fin false M E →
      if M * 2 ^ (E - q).toNat < r.1 * 2 ^ (q - E).toNat then
        res.flags = flOF ||| flIX ∧
        res.bits = (if neg then 2 ^ (f.width - 1) else 0) +
          (if !f.nan || sat then f.maxBits
           else if !f.inf then f.maxBits + 1
           else match rm with
             | .rne | .rna => f.maxBits + 1
             | .rtz => f.maxBits
             | .rup => if neg then f.maxBits else f.maxBits + 1
             | .rdn => if neg then f.maxBits + 1 else f.maxBits)
      else
        res.flags = (if r.2 then flIX else 0) ||| (if r.2 && tiny then flUF else 0) ∧
        ∃ m e, f.unpack res.bits = .fin neg m e ∧ m * 2 ^ (e - q).toNat = r.1 * 2 ^ (q - e).toNat) ∧
  ∀ (f : Fmt) (rm : Mode) (m e : Int) (zneg sat : Bool),
    f.roundDyad rm ⟨m, e⟩ zneg sat =
      if m = 0 then ⟨if zneg then 2 ^ (f.width - 1) else 0, 0⟩
      else f.roundTo rm (decide (m < 0)) (m.natAbs * 2 ^ e.toNat) (2 ^ (-e).toNat) sat

/-- A value that the format represents is its own rounding in every mode, and raises no exception (R71, R74). -/
def Obligations.RepresentableValuesRoundToThemselves : Prop :=
  ∀ f ∈ [fF64, fF32, fF16, fBf16, fE4m3, fE5m2, fE2m1], ∀ (rm : Mode) (sat : Bool) (x : Nat) (neg : Bool) (m : Nat) (e : Int),
    x < 2 ^ f.width → f.unpack x = .fin neg m e → f.roundDyad rm (.ofFin neg m e) neg sat = ⟨x, 0⟩

/-- The result with a NaN operand is the first NaN quieted, and invalid is raised just when some operand is signalling;
in a fused operation also for 0 x infinity (R70, R78). -/
def Obligations.FirstNanPropagates : Prop :=
  ∀ f ∈ [fF64, fF32, fF16, fBf16], ∀ (rm : Mode) (a b c : Nat),
    let nan (x : Nat) : Bool := (f.unpack x).isNan
    let snan (x : Nat) : Bool := (f.unpack x).isSnan
    let quiet (x : Nat) : Nat := (x ||| 2 ^ (f.fbits - 1)) % 2 ^ f.width
    let iv (raised : Bool) : Flags := if raised then flIV else 0
    let prod : Bool := ((f.unpack a).isInf && (f.unpack b).isZero) || ((f.unpack a).isZero && (f.unpack b).isInf)
    (nan a → f.sqrt rm a = ⟨quiet a, iv (snan a)⟩) ∧
    (nan a || nan b → ∀ op ∈ [f.add rm, f.sub rm, f.mul rm, f.div rm],
      op a b = ⟨quiet (if nan a then a else b), iv (snan a || snan b)⟩) ∧
    (nan a || nan b || nan c →
      f.fma rm a b c = ⟨quiet (if nan a then a else if nan b then b else c), iv (snan a || snan b || snan c || prod)⟩)

/-- fadd, fsub, fmul, ffma, fdiv and fsqrt: one correct rounding of the exact result in the mode, of each half of a packed type;
the short forms, f32 in the dynamic mode with D = A = DA; ffma.mix, which adds a product of a narrow type to a wider value, and
fdot2, two products of halves to an f32 value, each with one rounding (R124, R67, R72, R38, R128, R133, R134).  Of finite
operands the result is the exact sum, difference, product, fused sum, quotient, or root (to more bits than the format has, with
a last one that marks the rest) rounded once, a zero with the sign of R75; division by zero and roots below zero as R125 says.
An element whose exception is enabled traps with the code of the first one, and the elements before it stand; stated for fadd
(R79, R80). -/
def Obligations.FloatingPointArithmetic : Prop :=
  (∀ x t rm, LrFp2 (.fadd x t rm) x t false fun c a b => t.fmt.add (rm.mode c) a b) ∧
  (∀ x t rm, LrFp2 (.fsub x t rm) x t false fun c a b => t.fmt.sub (rm.mode c) a b) ∧
  (∀ x t rm, LrFp2 (.fmul x t rm) x t false fun c a b => t.fmt.mul (rm.mode c) a b) ∧
  (∀ x t rm, LrFp3 (.ffma x t rm) x t fun c p q r => t.fmt.fma (rm.mode c) p q r) ∧
  (∀ x t rm, LrFp2 (.fdiv x t rm) x t true fun c a b => t.fmt.div (rm.mode c) a b) ∧
  (∀ x t rm, LrFp1 (.fsqrt x t rm) x t true fun c a => t.fmt.sqrt (rm.mode c) a) ∧
  (∀ x, ShFp (.faddShort x) x fun c a b => fF32.add (modeOfFpcr c) a b) ∧
  (∀ x, ShFp (.fsubShort x) x fun c a b => fF32.sub (modeOfFpcr c) a b) ∧
  (∀ x, ShFp (.fmulShort x) x fun c a b => fF32.mul (modeOfFpcr c) a b) ∧
  (∀ x, ShFp (.fminShort x) x fun _ a b => fF32.minmaxNum false a b) ∧
  (∀ x, ShFp (.fmaxShort x) x fun _ a b => fF32.minmaxNum true a b) ∧
  (∀ x t rm, t = .f32 ∨ t = .f16 ∨ t = .bf16 →
    let w : FTy := if t = .f32 then .f64 else .f32
    FpGives3 (.ffmaMix x t rm) x.extent w.regs false x.d (.fp t) x.a (.fp t) x.b (.fp w) x.c fun c p q r =>
      fmaMix t.fmt w.fmt (rm.mode c) (p.setWidth t.fmt.width).toNat (q.setWidth t.fmt.width).toNat r.toNat) ∧
  (∀ x t rm, t.packed = true →
    FpGives3 (.fdot2 x t rm) x.extent 1 false x.d (.fp t) x.a (.fp t) x.b (.fp .f32) x.c fun c p q r =>
      dot2 t.fmt (rm.mode c) p.toNat q.toNat r.toNat) ∧
  (∀ f ∈ [fF64, fF32, fF16, fBf16], ∀ (rm : Mode) (a b c : Nat) (na nb nc : Bool) (ma mb mc : Nat) (ea eb ec : Int),
    f.unpack a = .fin na ma ea → f.unpack b = .fin nb mb eb → f.unpack c = .fin nc mc ec →
    let x := signed na ma
    let y := signed nb mb
    let z := signed nc mc
    let zero (p q : Bool) : Bool := if p = q then p else rm = .rdn
    let sign (p : Bool) : Nat := if p then 2 ^ (f.width - 1) else 0
    f.add rm a b = f.roundDyad rm ⟨x * 2 ^ (ea - eb).toNat + y * 2 ^ (eb - ea).toNat, min ea eb⟩ (zero na nb) ∧
    f.sub rm a b = f.roundDyad rm ⟨x * 2 ^ (ea - eb).toNat - y * 2 ^ (eb - ea).toNat, min ea eb⟩ (zero na !nb) ∧
    f.mul rm a b = f.roundDyad rm ⟨x * y, ea + eb⟩ (na != nb) ∧
    f.fma rm a b c = f.roundDyad rm
      ⟨x * y * 2 ^ (ea + eb - ec).toNat + z * 2 ^ (ec - (ea + eb)).toNat, min (ea + eb) ec⟩ (zero (na != nb) nc) ∧
    f.div rm a b = (if mb = 0 then (if ma = 0 then ⟨f.defaultNan, flIV⟩
        else ⟨sign (na != nb) + (2 ^ f.ebits - 1) * 2 ^ f.fbits, flDZ⟩)
      else if ma = 0 then ⟨sign (na != nb), 0⟩
      else f.roundTo rm (na != nb) (ma * 2 ^ (ea - eb).toNat) (mb * 2 ^ (eb - ea).toNat)) ∧
    (ma = 0 → f.sqrt rm a = ⟨sign na, 0⟩) ∧ (ma ≠ 0 → na = true → f.sqrt rm a = ⟨f.defaultNan, flIV⟩) ∧
    (ma ≠ 0 → na = false → ∃ (r k : Nat) (q : Int), r * r ≤ ma * 2 ^ k ∧ ma * 2 ^ k < (r + 1) * (r + 1) ∧
      ea - k = 2 * (q + 1) ∧ 2 ^ (f.fbits + 2) ≤ r ∧
      f.sqrt rm a = f.roundDyad rm ⟨2 * r + (if r * r = ma * 2 ^ k then 0 else 1), q⟩ false)) ∧
  (∀ p ∈ [(fF32, fF64), (fF16, fF32), (fBf16, fF32)], ∀ (rm : Mode) (a b c : Nat) (na nb nc : Bool) (ma mb mc : Nat)
      (ea eb ec : Int),
    p.1.unpack a = .fin na ma ea → p.1.unpack b = .fin nb mb eb → p.2.unpack c = .fin nc mc ec →
    fmaMix p.1 p.2 rm a b c = p.2.roundDyad rm
      ⟨signed na ma * signed nb mb * 2 ^ (ea + eb - ec).toNat + signed nc mc * 2 ^ (ec - (ea + eb)).toNat, min (ea + eb) ec⟩
      (if (na != nb) = nc then nc else rm = .rdn)) ∧
  (∀ f ∈ [fF16, fBf16], ∀ (rm : Mode) (a0 a1 b0 b1 c : Nat) (n0 n1 p0 p1 nc : Bool) (m0 m1 k0 k1 mc : Nat)
      (e0 e1 g0 g1 ec : Int), a0 < 65536 → a1 < 65536 → b0 < 65536 → b1 < 65536 →
    f.unpack a0 = .fin n0 m0 e0 → f.unpack a1 = .fin n1 m1 e1 → f.unpack b0 = .fin p0 k0 g0 → f.unpack b1 = .fin p1 k1 g1 →
    fF32.unpack c = .fin nc mc ec →
    let x := signed n0 m0 * signed p0 k0 * 2 ^ (e0 + g0 - (e1 + g1)).toNat +
      signed n1 m1 * signed p1 k1 * 2 ^ (e1 + g1 - (e0 + g0)).toNat
    let e := min (e0 + g0) (e1 + g1)
    dot2 f rm (a0 + 65536 * a1) (b0 + 65536 * b1) c = fF32.roundDyad rm
      ⟨x * 2 ^ (e - ec).toNat + signed nc mc * 2 ^ (ec - e).toNat, min e ec⟩
      (if m0 * k0 = 0 ∧ m1 * k1 = 0 ∧ mc = 0 ∧ (n0 != p0) = nc ∧ (n1 != p1) = nc then nc else rm = .rdn)) ∧
  (∀ (fpcr : Word) (fl : Flags), fpTrapCode fpcr fl =
    ((List.range 5).find? fun b => fl.getLsbD b && fpcr.getLsbD (3 + b)).map fun b => 0x10 + BitVec.ofNat 8 b) ∧
  (∀ (x : LR) (t : FTy) (rm : Rm) (s : State) (w : Wave) (A B : Nat → Nat → DWord) (z : Nat → Nat),
    Issues (.fadd x t rm) s w →
    let i := issueOf (.fadd x t rm) s w
    let r (l k : Nat) : Res := onHalves2 t (t.fmt.add (rm.mode i.w.fpcr)) (A l k) (B l k)
    Supplies i x.extent (.fp t) x.a A → Supplies i x.extent (.fp t) x.b B →
    (∀ l ∈ i.act, i.first ≤ z l ∧ z l < x.extent.count ∧ (fpTrapCode i.w.fpcr (r l (z l)).flags).isSome = true ∧
      ∀ k, i.first ≤ k → k < z l → fpTrapCode i.w.fpcr (r l k).flags = none) →
    ∃ e : Eff, exec (.fadd x t rm) s = finishIssue i (instrWord (.fadd x t rm)) e ∧
      e.traps = i.act.map (fun l =>
        { lane := l, code := (fpTrapCode i.w.fpcr (r l (z l)).flags).getD 0, elem := z l }) ∧
      ∀ d, x.d = .v d → ∀ key word, (key, word) ∈ e.vw ↔ ∃ l ∈ i.act, ∃ k, i.first ≤ k ∧ k < z l ∧ ∃ h < t.regs,
        key = 32 * (d.toNat + t.regs * (k / x.extent.cols * x.extent.stride + k % x.extent.cols) + h) + l ∧
        word = ((BitVec.ofNat 64 (r l k).bits).setWidth 512).extractLsb' (32 * h) 32)

/-- fmin, fmax, fminx and fmaxx by the table of R128; the operand that is no NaN, or the smaller or larger one, passes with
its bits. -/
def Obligations.FloatingPointMinimumAndMaximum : Prop :=
  let before (x y : Val) : Bool := x.lt y || (!y.lt x && x.neg && !y.neg)
  let order (greater : Bool) (f : Fmt) (a b : Nat) : Nat :=
    if greater then (if before (f.unpack a) (f.unpack b) then b else a)
    else if before (f.unpack b) (f.unpack a) then b else a
  let table (greater nanWins : Bool) (f : Fmt) (a b : Nat) : Res :=
    let na := (f.unpack a).isNan
    let nb := (f.unpack b).isNan
    let fl : Flags := if (f.unpack a).isSnan || (f.unpack b).isSnan then flIV else 0
    let quiet (x : Nat) : Nat := (x ||| 2 ^ (f.fbits - 1)) % 2 ^ f.width
    if na && nb then ⟨quiet a, fl⟩
    else if na then ⟨if nanWins then quiet a else b, fl⟩
    else if nb then ⟨if nanWins then quiet b else a, fl⟩
    else ⟨order greater f a b, 0⟩
  (∀ x t, LrFp2 (.fmin x t) x t false fun _ a b => table false false t.fmt a b) ∧
  (∀ x t, LrFp2 (.fmax x t) x t false fun _ a b => table true false t.fmt a b) ∧
  (∀ x t, LrFp2 (.fminx x t) x t false fun _ a b => table false true t.fmt a b) ∧
  (∀ x t, LrFp2 (.fmaxx x t) x t false fun _ a b => table true true t.fmt a b)

/-- fabs, fneg and fcopysign change sign bits alone, of NaNs too, and raise no flag; frint, fgetexp, fgetman, fscale and fclass
complete with the integral part, the exponent, the significand, the scaled value and the class of each value (R129-R132): of a
finite nonzero value m x 2^e, the integer that the mode gives, floor(log2 |x|), the magnitude in [1, 2) with the sign, and
m x 2^(e + n) rounded; zeros, infinities and NaNs as R130 and R131 list them.  The model's choice (log entry 71): the exponent 0
is +0. -/
def Obligations.SignsAndPartsOfFloatingPointValues : Prop :=
   ((∀ x t, FpGives1 (.fabs x t) x.extent t.regs false false x.d (.fp t) x.a fun _ a =>
      ⟨(a &&& valueMask t &&& ~~~signMask t).toNat, 0⟩) ∧
    (∀ x t, FpGives1 (.fneg x t) x.extent t.regs false false x.d (.fp t) x.a fun _ a =>
      ⟨((a &&& valueMask t) ^^^ signMask t).toNat, 0⟩) ∧
    (∀ x t, FpGives2 (.fcopysign x t) x.extent t.regs false x.d (.fp t) x.a (.fp t) x.b fun _ a b =>
      ⟨((a &&& valueMask t &&& ~~~signMask t) ||| (b &&& signMask t)).toNat, 0⟩)) ∧
   ((∀ x t rm ix, LrFp1 (.frint x t rm ix) x t false fun c a => t.fmt.rint (rm.mode c) ix a) ∧
    (∀ x t, LrFp1 (.fgetexp x t) x t false fun _ a => t.fmt.getexp a) ∧
    (∀ x t, LrFp1 (.fgetman x t) x t false fun _ a => t.fmt.getman a) ∧
    (∀ x t rm, FpGives2 (.fscale x t rm) x.extent t.regs false x.d (.fp t) x.a (.int 1) x.b fun c a b =>
      onHalves1 t (fun v => t.fmt.scale (rm.mode c) v (b.setWidth 32).toInt) a) ∧
    (∀ x t, FpGives1 (.fclass x t) x.extent 1 false false x.d (.fp t) x.a fun _ =>
      onHalves1 t fun v => ⟨match t.fmt.unpack v with
        | .nan _ true _ => 2
        | .nan _ false _ => 1
        | .inf true => 4
        | .inf false => 512
        | .fin true m _ => if m = 0 then 32 else if m < 2 ^ t.fmt.fbits then 16 else 8
        | .fin false m _ => if m = 0 then 64 else if m < 2 ^ t.fmt.fbits then 128 else 256, 0⟩)) ∧
   ∀ f ∈ [fF64, fF32, fF16, fBf16], ∀ (rm : Mode) (ix : Bool) (a : Nat) (n : Int),
    let inf : Nat := (2 ^ f.ebits - 1) * 2 ^ f.fbits
    let same : Res := ⟨a % 2 ^ f.width, 0⟩
    match f.unpack a with
    | .nan _ quiet _ =>
      let q : Res := ⟨(a ||| 2 ^ (f.fbits - 1)) % 2 ^ f.width, if quiet then 0 else flIV⟩
      f.rint rm ix a = q ∧ f.getexp a = q ∧ f.getman a = q ∧ f.scale rm a n = q
    | .inf _ => f.rint rm ix a = same ∧ f.getexp a = ⟨inf, 0⟩ ∧ f.getman a = same ∧ f.scale rm a n = same
    | .fin neg m e =>
      (m = 0 → f.rint rm ix a = same ∧ f.getexp a = ⟨2 ^ (f.width - 1) + inf, flDZ⟩ ∧ f.getman a = same ∧
        f.scale rm a n = same) ∧
      (0 ≤ e → f.rint rm ix a = same) ∧
      (m ≠ 0 → e < 0 →
        let k := roundUnits m (2 ^ (-e).toNat) 0 rm neg
        f.rint rm ix a = ⟨(f.roundDyad .rne ⟨signed neg k.1, 0⟩ neg).bits, if ix && k.2 then flIX else 0⟩) ∧
      (m ≠ 0 → ∀ E, IsLog2 (m * 2 ^ e.toNat) (2 ^ (-e).toNat) E →
        f.getexp a = ⟨(f.roundDyad .rne ⟨E, 0⟩ false).bits, 0⟩) ∧
      (∀ k : Nat, 2 ^ k ≤ m → m < 2 ^ (k + 1) →
        f.getman a = ⟨(f.roundDyad .rne ⟨signed neg m, -(k : Int)⟩ neg).bits, 0⟩) ∧
      (m ≠ 0 → -8192 ≤ n → n ≤ 8192 → f.scale rm a n = f.roundDyad rm ⟨signed neg m, e + n⟩ neg) ∧
      (8192 ≤ n → f.scale rm a n = f.scale rm a 8192) ∧ (n ≤ -8192 → f.scale rm a n = f.scale rm a (-8192))

/-- fcmp writes the relation of the operands' values to predicate element n; unordered operands give 0, or 1 with .u; invalid
for a signalling NaN, and with .sig for any NaN (R112). -/
def Obligations.FloatingPointCompare : Prop :=
  ∀ x t cc u sig s w A B, t.packed = false → Issues (.fcmp x t cc u sig) s w →
    let i := issueOf (.fcmp x t cc u sig) s w
    Supplies i x.extent (.fp t) x.a A → Supplies i x.extent (.fp t) x.b B →
    let va (l k : Nat) : Val := t.fmt.unpack ((A l k).setWidth t.fmt.width).toNat
    let vb (l k : Nat) : Val := t.fmt.unpack ((B l k).setWidth t.fmt.width).toNat
    let holds (l k : Nat) : Bool :=
      let unordered := (va l k).isNan || (vb l k).isNan
      let below := (va l k).lt (vb l k)
      let above := (vb l k).lt (va l k)
      match cc with
      | .ord => !unordered
      | .uno => unordered
      | .eq => if unordered then u else !below && !above
      | .ne => if unordered then u else below || above
      | .lt => if unordered then u else below
      | .le => if unordered then u else !above
      | .gt => if unordered then u else above
      | .ge => if unordered then u else !below
    let flags (l k : Nat) : Flags :=
      if (va l k).isSnan || (vb l k).isSnan || (sig && ((va l k).isNan || (vb l k).isNan)) then flIV else 0
    NoFpTrap i x.extent (fun l k => ⟨0, flags l k⟩) →
    Completes (.fcmp x t cc u sig) s w (predEff i x.extent (predOf x.d) fun l k =>
      .ok (if holds l k then 1 else 0, flags l k))

/-- The approximate functions: the special operands of R127, NaN operands quieted, and any other value rounded as R126 says;
the result lands with the instruction's tag.  frcp and frsq round the exact quotient and root, and fexp2 of an integer and
flog2 of a power of two are exact.  What fexp2, flog2, fsin and fcos round is the value that the model computes in fixed point
of 704 bits, which is the model's choice (log entry 12), as the sign of a zero logarithm is (log entry 71). -/
def Obligations.ApproximateFunctions : Prop :=
  (∀ x t, LrFp1 (.frcpApprox x t) x t true fun _ a => approx .rcp t.fmt a) ∧
  (∀ x t, LrFp1 (.frsqApprox x t) x t true fun _ a => approx .rsq t.fmt a) ∧
  (∀ x t, LrFp1 (.fexp2Approx x t) x t true fun _ a => approx .exp2 t.fmt a) ∧
  (∀ x t, LrFp1 (.flog2Approx x t) x t true fun _ a => approx .log2 t.fmt a) ∧
  (∀ x t, LrFp1 (.fsinApprox x t) x t true fun _ a => approx .sin t.fmt a) ∧
  (∀ x t, LrFp1 (.fcosApprox x t) x t true fun _ a => approx .cos t.fmt a) ∧
  (∀ f ∈ [fF32, fF16, fBf16], ∀ neg : Bool,
    let zero (b : Bool) : Nat := if b then 2 ^ (f.width - 1) else 0
    let inf (b : Bool) : Nat := zero b + (2 ^ f.ebits - 1) * 2 ^ f.fbits
    let one := f.bias * 2 ^ f.fbits
    approx .rcp f (zero neg) = ⟨inf neg, flDZ⟩ ∧ approx .rsq f (zero neg) = ⟨inf neg, flDZ⟩ ∧
    approx .exp2 f (zero neg) = ⟨one, 0⟩ ∧ approx .log2 f (zero neg) = ⟨inf true, flDZ⟩ ∧
    approx .sin f (zero neg) = ⟨zero neg, 0⟩ ∧ approx .cos f (zero neg) = ⟨one, 0⟩ ∧
    approx .rcp f (inf neg) = ⟨zero neg, 0⟩ ∧
    approx .rsq f (inf neg) = (if neg then ⟨f.defaultNan, flIV⟩ else ⟨0, 0⟩) ∧
    approx .exp2 f (inf neg) = (if neg then ⟨0, 0⟩ else ⟨inf false, 0⟩) ∧
    approx .log2 f (inf neg) = (if neg then ⟨f.defaultNan, flIV⟩ else ⟨inf false, 0⟩) ∧
    approx .sin f (inf neg) = ⟨f.defaultNan, flIV⟩ ∧ approx .cos f (inf neg) = ⟨f.defaultNan, flIV⟩) ∧
  (∀ f ∈ [fF32, fF16, fBf16], ∀ (a : Nat) (fn : ApproxFn), (f.unpack a).isNan = true →
    approx fn f a = ⟨(a ||| 2 ^ (f.fbits - 1)) % 2 ^ f.width, if (f.unpack a).isSnan then flIV else 0⟩) ∧
  ∀ f ∈ [fF32, fF16, fBf16], ∀ (a : Nat) (neg : Bool) (m : Nat) (e : Int), f.unpack a = .fin neg m e → m ≠ 0 →
    RoundedApprox f neg (2 ^ (-e).toNat) (m * 2 ^ e.toNat) (approx .rcp f a) ∧
    (neg = true → approx .rsq f a = ⟨f.defaultNan, flIV⟩ ∧ approx .log2 f a = ⟨f.defaultNan, flIV⟩) ∧
    (neg = false → ∃ (r k : Nat) (q : Int), r * r * m ≤ 2 ^ k ∧ 2 ^ k < (r + 1) * (r + 1) * m ∧ (k : Int) + e = -2 * (q + 1) ∧
      2 ^ 30 ≤ r ∧
      let v := 2 * r + (if r * r * m = 2 ^ k then 0 else 1)
      RoundedApprox f false (v * 2 ^ q.toNat) (2 ^ (-q).toNat) (approx .rsq f a)) ∧
    RoundedApprox f false (exactExp2 neg m e).n (exactExp2 neg m e).d (approx .exp2 f a) ∧
    (neg = false → (exactLog2 m e).n ≠ 0 →
      RoundedApprox f (exactLog2 m e).neg (exactLog2 m e).n (exactLog2 m e).d (approx .log2 f a)) ∧
    ((exactSin neg m e).n ≠ 0 →
      RoundedApprox f (exactSin neg m e).neg (exactSin neg m e).n (exactSin neg m e).d (approx .sin f a)) ∧
    ((exactCos m e).n ≠ 0 → RoundedApprox f (exactCos m e).neg (exactCos m e).n (exactCos m e).d (approx .cos f a)) ∧
    (∀ j : Nat, j < 2000 → m * 2 ^ e.toNat = j * 2 ^ (-e).toNat →
      RoundedApprox f false (if neg then 1 else 2 ^ j) (if neg then 2 ^ j else 1) (approx .exp2 f a)) ∧
    (neg = false → ∀ k : Nat, m = 2 ^ k → approx .log2 f a =
      if (k : Int) + e = 0 then ⟨0, 0⟩ else ⟨(f.roundDyad .rne ⟨k + e, 0⟩ false).bits, 0⟩)

/-- cvt converts each element by the rule of its pair, of a packed pair each half: a floating-point value rounded into the
destination, an infinity to the infinity or as an overflow, a NaN with what fits of its fraction, quieted; to an integer type
the value rounded in the mode and held to the range, with invalid outside it; from an integer type its value, rounded into a
floating-point type, or its low bits or the clamped value in an integer type; to and from the scales e8m0 by the tables of R139
(R135-R140).  mxq quantises 32 elements with one scale (R142).  That integer 0 converts to +0 is the model's choice (log entry
71). -/
def Obligations.Conversions : Prop :=
  let fp : List (CvtTy × Fmt) :=
    [(.f64, fF64), (.f32, fF32), (.f16, fF16), (.bf16, fBf16), (.e4m3, fE4m3), (.e5m2, fE5m2), (.e2m1, fE2m1)]
  let ints : List (CvtTy × Nat × Bool) :=
    [(.i8, 8, true), (.i16, 16, true), (.i32, 32, true), (.i64, 64, true), (.n8, 8, false), (.n16, 16, false),
     (.n32, 32, false), (.n64, 64, false)]
  let least (n : Nat) (sgn : Bool) : Int := if sgn then -2 ^ (n - 1) else 0
  let greatest (n : Nat) (sgn : Bool) : Int := if sgn then 2 ^ (n - 1) - 1 else 2 ^ n - 1
  (∀ x rm sat dt st, FpGives1 (.cvt x rm sat dt st) x.extent dt.regs (dt = .i32) false x.d (.cv st) x.a fun c a =>
    cvtVal st dt (rm.mode c) sat a.toNat) ∧
  (∀ p ∈ fp, ∀ r ∈ fp, ∀ (rm : Mode) (sat : Bool) (x : Nat), x < 2 ^ p.2.width →
    let sign (neg : Bool) : Nat := if neg then 2 ^ (r.2.width - 1) else 0
    match p.2.unpack x with
    | .fin neg m e => cvtVal p.1 r.1 rm sat x = r.2.roundDyad rm ⟨signed neg m, e⟩ neg sat
    | .inf neg => cvtVal p.1 r.1 rm sat x =
        if r.2.inf then ⟨sign neg + (2 ^ r.2.ebits - 1) * 2 ^ r.2.fbits, 0⟩
        else ⟨sign neg + (if r.2.nan && !sat then 127 else r.2.maxBits), flOF ||| flIX⟩
    | .nan neg quiet frac => cvtVal p.1 r.1 rm sat x =
        if !r.2.nan then ⟨0, flIV⟩
        else ⟨sign neg + (if r.2.inf then (2 ^ r.2.ebits - 1) * 2 ^ r.2.fbits +
            ((if p.2.fbits ≤ r.2.fbits then frac * 2 ^ (r.2.fbits - p.2.fbits) else frac / 2 ^ (p.2.fbits - r.2.fbits)) |||
              2 ^ (r.2.fbits - 1)) else 127),
          if quiet then 0 else flIV⟩) ∧
  (∀ p ∈ fp.take 4, ∀ r ∈ ints, ∀ (rm : Mode) (sat : Bool) (x : Nat), x < 2 ^ p.2.width →
    let n := r.2.1
    let sgn := r.2.2
    match p.2.unpack x with
    | .nan .. => cvtVal p.1 r.1 rm sat x = ⟨0, flIV⟩
    | .inf neg => cvtVal p.1 r.1 rm sat x = ⟨inRegister n sgn (if neg then least n sgn else greatest n sgn), flIV⟩
    | .fin neg m e =>
      let k := roundUnits (m * 2 ^ e.toNat) (2 ^ (-e).toNat) 0 rm neg
      let v := signed neg k.1
      cvtVal p.1 r.1 rm sat x =
        ⟨inRegister n sgn (max (least n sgn) (min (greatest n sgn) v)),
          if v < least n sgn ∨ greatest n sgn < v then flIV else if k.2 then flIX else 0⟩) ∧
  (∀ p ∈ ints, ∀ (rm : Mode) (sat : Bool) (x : Nat),
    let v := intOfBits p.2.1 p.2.2 x
    (∀ r ∈ fp.take 4, cvtVal p.1 r.1 rm sat x = r.2.roundDyad rm ⟨v, 0⟩ false) ∧
    ∀ r ∈ ints, cvtVal p.1 r.1 rm sat x =
      ⟨inRegister r.2.1 r.2.2 (if sat then max (least r.2.1 r.2.2) (min (greatest r.2.1 r.2.2) v) else v), 0⟩) ∧
  (∀ r ∈ fp.take 4, ∀ (rm : Mode) (sat : Bool) (x : Nat), x < 256 → cvtVal .e8m0 r.1 rm sat x =
    if x = 255 then ⟨r.2.defaultNan, 0⟩ else r.2.roundDyad rm ⟨1, (x : Int) - 127⟩ false) ∧
  (∀ p ∈ fp.take 4, ∀ (rm : Mode) (sat : Bool) (x : Nat), x < 2 ^ p.2.width →
    match p.2.unpack x with
    | .nan _ quiet _ => cvtVal p.1 .e8m0 rm sat x = ⟨255, if quiet then 0 else flIV⟩
    | .inf neg => cvtVal p.1 .e8m0 rm sat x = if neg then ⟨255, flIV⟩ else ⟨254, flOF ||| flIX⟩
    | .fin neg m e =>
      (m = 0 ∨ neg = true → cvtVal p.1 .e8m0 rm sat x = ⟨255, flIV⟩) ∧
      ∀ k : Nat, neg = false → 2 ^ k ≤ m → m < 2 ^ (k + 1) →
        let up : Bool := match rm with
          | .rtz | .rdn => false
          | .rup => m != 2 ^ k
          | .rne | .rna => 3 * 2 ^ k ≤ 2 * m
        let j := (k : Int) + e + (if up then 1 else 0)
        cvtVal p.1 .e8m0 rm sat x = if 127 < j then ⟨254, flOF ||| flIX⟩
          else if j < -127 then ⟨0, flUF ||| flIX⟩ else ⟨(j + 127).toNat, if m = 2 ^ k then 0 else flIX⟩) ∧
  (∀ p ∈ [(CvtTy.f16x2, CvtTy.f16), (.bf16x2, .bf16)], ∀ r ∈ [(CvtTy.f16x2, CvtTy.f16), (.bf16x2, .bf16)], ∀ (rm : Mode) (x y : Nat),
    x < 65536 → y < 65536 →
    let lo := cvtVal p.2 r.2 rm false x
    let hi := cvtVal p.2 r.2 rm false y
    cvtVal p.1 r.1 rm false (x + 65536 * y) = ⟨lo.bits + 65536 * hi.bits, lo.flags ||| hi.flags⟩) ∧
  (∀ x rm s w A, Issues (.mxq x rm) s w →
    let i := issueOf (.mxq x rm) s w
    x.extent.count = 32 → i.first = 0 → Supplies i x.extent (.fp .f32) x.a A →
    (∀ l ∈ i.act, fpTrapCode i.w.fpcr (mxqOf (rm.mode i.w.fpcr) ((List.range 32).map fun k => (A l k).toNat)).2.2 = none) →
    ∃ e : Eff, Completes (.mxq x rm) s w e ∧ e.traps = [] ∧ ∀ l ∈ i.act,
      let r := mxqOf (rm.mode i.w.fpcr) ((List.range 32).map fun k => (A l k).toNat)
      (32 * selV x.b + l, BitVec.ofNat 32 r.1) ∈ e.vw ∧
      ∀ g < 4, (32 * (selV x.d + g) + l,
        BitVec.ofNat 32 ((List.range 8).map fun j => r.2.1.getD (8 * g + j) 0 * 16 ^ j).sum) ∈ e.vw) ∧
  ∀ (rm : Mode) (xs : List Nat),
    (xs.all finite32 = false → mxqOf rm xs = (255, xs.map (fun _ => 0),
      if xs.any fun x => (fF32.unpack x).isSnan || (fF32.unpack x).isInf then flIV else 0)) ∧
    ∀ X : Int, xs.all finite32 = true →
      ((∀ x ∈ xs, (fF32.unpack x).isZero = true) → X = -127) →
      (∀ x ∈ xs, ∀ neg m e E, fF32.unpack x = .fin neg m e → m ≠ 0 → IsLog2 (m * 2 ^ e.toNat) (2 ^ (-e).toNat) E → E - 2 ≤ X) →
      -127 ≤ X →
      (-127 < X → ∃ x ∈ xs, ∃ neg m e, fF32.unpack x = .fin neg m e ∧ m ≠ 0 ∧
        IsLog2 (m * 2 ^ e.toNat) (2 ^ (-e).toNat) (X + 2)) →
      ∃ rs : List Res, rs.length = xs.length ∧
        (∀ k < xs.length, ∀ neg m e, fF32.unpack (xs.getD k 0) = .fin neg m e →
          rs[k]? = some (fE2m1.roundDyad rm ⟨signed neg m, e - X⟩ neg)) ∧
        mxqOf rm xs = ((X + 127).toNat, rs.map (·.bits), if rs.any fun r => r.flags.getLsbD 4 then flIX else 0)

/-! ### Lane crossing (03 R82-R84, 04 R115-R119) -/

/-- shfl takes element n of the lane that its mode and B name within the segment of G lanes, and the fill operand C where that
lane lies outside the segment or outside the executing set (R116); vote.any, vote.all, ballot and lane.first over the executing
set (R118, R119). -/
def Obligations.LanesExchangeValues : Prop :=
  (∀ (x : LR) (mode : ShMode) (w64 : Bool) (seg : BitVec 2) (s : State) (w : Wave) (A B C : Nat → Nat → DWord),
    let i := issueOf (.shfl x mode w64 seg) s w
    let n := if w64 then 2 else 1
    let g : Nat := match seg with
      | 0 => 32 | 1 => 16 | 2 => 8 | _ => 4
    Issues (.shfl x mode w64 seg) s w → Supplies i x.extent (.int n) x.a A → Supplies i x.extent (.int 1) x.b B →
    Supplies i x.extent (.int n) x.c C →
    Completes (.shfl x mode w64 seg) s w (blockOf i x.extent n false false x.d fun l k =>
      let b := (B l k).toNat
      let r := l % g
      let src : Int := match mode with
        | .idx => (b % g : Nat)
        | .up => (r : Int) - b
        | .down => (r : Int) + b
        | .xor => (r ^^^ (b % g) : Nat)
      let m := l - r + src.toNat
      if 0 ≤ src ∧ src < g ∧ m ∈ i.act then A m k else C l k)) ∧
  (∀ (x : LR) (s : State) (w : Wave) (A : Nat → Nat → DWord),
    let ready (i : Instr) : Prop := Issues i s w ∧ Supplies (issueOf i s w) x.extent (.int 1) x.a A
    let yes (i : Instr) (k : Nat) : List Nat := (issueOf i s w).act.filter fun l => A l k ≠ 0
    (ready (.voteAny x) → Completes (.voteAny x) s w (predBlock (issueOf (.voteAny x) s w) x.extent (predOf x.d) fun _ k =>
      decide (∃ l ∈ (issueOf (.voteAny x) s w).act, A l k ≠ 0))) ∧
    (ready (.voteAll x) → Completes (.voteAll x) s w (predBlock (issueOf (.voteAll x) s w) x.extent (predOf x.d) fun _ k =>
      decide (∀ l ∈ (issueOf (.voteAll x) s w).act, A l k ≠ 0))) ∧
    (∀ cnt, ready (.ballot x cnt) → Completes (.ballot x cnt) s w (blockOf (issueOf (.ballot x cnt) s w) x.extent 1 false
      false x.d fun _ k => BitVec.ofNat 64 (if cnt then (yes (.ballot x cnt) k).length
        else ((yes (.ballot x cnt) k).map fun l => 2 ^ l).sum))) ∧
    (∀ m, (∀ l ∈ (issueOf (.laneFirst x) s w).act, m ∈ (issueOf (.laneFirst x) s w).act ∧ m ≤ l) → ready (.laneFirst x) →
      Completes (.laneFirst x) s w (blockOf (issueOf (.laneFirst x) s w) x.extent 1 false false x.d fun _ k => A m k)))

/-- wred: the pairwise tree over the 32 lanes, an idle lane giving the identity, one combination at each node in the wave's
dynamic mode; of integers with add it is the wrapped sum.  A 16-bit format takes the low 16 bits of its register.  wscan: lane L receives the inclusive scan in the Hillis-Steele order,
or with .excl that of lane L - 1 and lane 0 the identity; the flags of every node of the element are raised in every executing
lane (R82, R83, R84, R81, R117). -/
def Obligations.ReductionsAndScans : Prop :=
  (∀ (x : LR) (op : RedOp) (t : RedTy) (s : State) (w : Wave) (A : Nat → Nat → DWord),
    let i := issueOf (.wred x op t) s w
    let ty : OpTy := match t with
      | .int u => .int u.regs
      | .fp u => .fp u
    let own (x : DWord) : Nat := match t with
      | .int _ => x.toNat
      | .fp u => (x &&& valueMask u).toNat
    let leaf (k l : Nat) : Nat := if l ∈ i.act then own (A l k) else identityOf t op
    let r (k : Nat) : Res := treeRes (combineTy t (modeOfFpcr i.w.fpcr) op) (leaf k) 5 0
    Issues (.wred x op t) s w → Supplies i x.extent ty x.a A → NoFpTrap i x.extent (fun _ k => r k) →
    Completes (.wred x op t) s w (blockFp i x.extent t.regs (t = .int .i32) false x.d fun _ k =>
      (BitVec.ofNat 64 (r k).bits, (r k).flags)) ∧
    ∀ u, t = .int u → op = .add →
      Completes (.wred x op t) s w (blockOf i x.extent u.regs (u = .i32) false x.d fun _ k =>
        wide (BitVec.ofNat (wOf u) ((i.act.map fun l => (A l k).toNat).sum)))) ∧
  (∀ (x : LR) (op : RedOp) (t : RedTy) (excl : Bool) (s : State) (w : Wave) (A : Nat → Nat → DWord),
    let i := issueOf (.wscan x op t excl) s w
    let ty : OpTy := match t with
      | .int u => .int u.regs
      | .fp u => .fp u
    let c := combineTy t (modeOfFpcr i.w.fpcr) op
    let own (x : DWord) : Nat := match t with
      | .int _ => x.toNat
      | .fp u => (x &&& valueMask u).toNat
    let leaf (k l : Nat) : Nat := if l ∈ i.act then own (A l k) else identityOf t op
    let flags (k : Nat) : Flags := scanFlags c (leaf k)
    Issues (.wscan x op t excl) s w → Supplies i x.extent ty x.a A → NoFpTrap i x.extent (fun _ k => ⟨0, flags k⟩) →
    Completes (.wscan x op t excl) s w (blockFp i x.extent t.regs (t = .int .i32) false x.d fun l k =>
      (BitVec.ofNat 64 (if excl then (if l = 0 then identityOf t op else scanValue c (leaf k) 5 (l - 1))
        else scanValue c (leaf k) 5 l), flags k)))

/-! ### Control flow (06 R145-R149) -/

/-- bra and call move the acting lanes to PC + TGT, brx, callx and ret to their own targets; call and callx write PC + 2 to
each acting lane's link register, or once to an s register; nop does nothing else (R145-R147, R149). -/
def Obligations.BranchesMoveTheirLanes : Prop :=
  (∀ x s w, Issues (.bra x) s w →
    let i := issueOf (.bra x) s w
    Completes (.bra x) s w { s := i.s, pcs := i.act.map fun l => (l, i.pc + x.tgt) }) ∧
  (∀ x s w (r : BitVec 8), x.lk = .v r → Issues (.call x) s w →
    let i := issueOf (.call x) s w
    Completes (.call x) s w { s := i.s, pcs := i.act.map fun l => (l, i.pc + x.tgt)
                              vw := i.act.map fun l => (32 * r.toNat + l, i.pc + 2)
                              entry := some ⟨false, 1, i.act.map fun l => (l, (i.pc + 2).setWidth 64)⟩ }) ∧
  (∀ x s w (r : BitVec 6), x.lk = .s r → Issues (.call x) s w →
    let i := issueOf (.call x) s w
    Completes (.call x) s w { s := i.s, pcs := i.act.map fun l => (l, i.pc + x.tgt)
                              sw := if i.act = [] then none else some (r.toNat, (i.pc + 2).setWidth 64) }) ∧
  (∀ x s w T, Issues (.brx x) s w → Supplies (issueOf (.brx x) s w) (.dense 1 1) (.int 1) x.a T →
    (issueOf (.brx x) s w).first = 0 →
    let i := issueOf (.brx x) s w
    Completes (.brx x) s w { s := i.s, pcs := i.act.map fun l => (l, (T l 0).setWidth 32) }) ∧
  (∀ x s w T, Issues (.ret x) s w → Supplies (issueOf (.ret x) s w) (.dense 1 1) (.int 1) x.a T →
    (issueOf (.ret x) s w).first = 0 →
    let i := issueOf (.ret x) s w
    Completes (.ret x) s w { s := i.s, pcs := i.act.map fun l => (l, (T l 0).setWidth 32) }) ∧
  (∀ x s w T (r : BitVec 8), x.d = .v r → Issues (.callx x) s w →
    Supplies (issueOf (.callx x) s w) (.dense 1 1) (.int 1) x.a T → (issueOf (.callx x) s w).first = 0 →
    let i := issueOf (.callx x) s w
    Completes (.callx x) s w { s := i.s, pcs := i.act.map fun l => (l, (T l 0).setWidth 32)
                               vw := i.act.map fun l => (32 * r.toNat + l, i.pc + 2)
                               entry := some ⟨false, 1, i.act.map fun l => (l, (i.pc + 2).setWidth 64)⟩ }) ∧
  (∀ x s w T (r : BitVec 6), x.d = .s r → Issues (.callx x) s w →
    Supplies (issueOf (.callx x) s w) (.dense 1 1) (.int 1) x.a T → (issueOf (.callx x) s w).first = 0 →
    let i := issueOf (.callx x) s w
    Completes (.callx x) s w { s := i.s, pcs := i.act.map fun l => (l, (T l 0).setWidth 32)
                               sw := if i.act = [] then none else some (r.toNat, (i.pc + 2).setWidth 64) }) ∧
  (∀ x s w, Issues (.nop x) s w → Completes (.nop x) s w { s := (issueOf (.nop x) s w).s })

/-- exit ends its lanes: they stop being live, and nothing blocks them any longer; yield sets their defer bits.  Either way every issuing
lane's PC advances by 2, and no register, no predicate and no byte of memory changes (R148, R149). -/
def Obligations.ExitAndYield : Prop :=
  ∀ (x : LR) (s : State) (w : Wave), w.lanes.length = 32 →
    let leaves (i : Instr) (f : Nat → Lane → Lane → Prop) : Prop :=
      Issues i s w → ∃ t w', exec i s = .next t ∧ t.wave? s.cur = some w' ∧ t.mem = s.mem ∧ t.inflight = s.inflight ∧
        w'.v = (issueOf i s w).w.v ∧ w'.s = (issueOf i s w).w.s ∧
        ∀ l < 32, (w'.lane l).preds = (w.lane l).preds ∧ f l ((issueOf i s w).w.lane l) (w'.lane l) ∧
          (l ∈ (issueOf i s w).xs → (w'.lane l).pc = (w.lane l).pc + 2)
    leaves (.exit x) (fun l a b => b.life = (if l ∈ (issueOf (.exit x) s w).act then .exited else a.life) ∧
      (l ∈ (issueOf (.exit x) s w).act → b.block = .none)) ∧
    leaves (.yield x) (fun l a b => b.life = a.life ∧
      b.defer = (a.defer || decide (l ∈ (issueOf (.yield x) s w).act)))

/-! ### Memory (06 R151-R171, 11) -/

/-- A plain ld.g or ld.f with a tag leaves one read to be performed for each of its lanes at the lane's address (for an s
destination, the lowest lane's alone), and nothing else; pf.g changes nothing.  A lane of ld.g that fails a check traps with the
CODE and DETAIL of the first that fails: PROTECT, ALIGN, PAGE with the walk's DETAIL, PROTECT for the page's permissions.  Where
a pause stands, lanes whose bytes lie on the other site become ineligible and nothing is done; a load that one lane performs for
all at an s destination holds them all, which is the model's choice (log entry 80) (R156, R45, R152, R154, R159, R297, R385). -/
def Obligations.TaggedLoadsWaitToBePerformed : Prop :=
  (∀ x sz sx nt s w c (pa : Nat → Nat) (kind : Nat → PKind), Issues (.ldG x sz sx nt) s w →
    let i := issueOf (.ldG x sz sx nt) s w
    Ready i c → i.h.ta.isSome → x.ord = 0 →
    (∀ l ∈ loadLanes i x.d, Mapped i c { r := true } sz.bytes (effAddr i.w x l) (pa l) (kind l) ∧ kind l ≠ .so ∧
      (Config.homeSite (pa l) = some (i.w.core / 96) ∨ i.s.numbers = true)) →
    Completes (.ldG x sz sx nt) s w { s := i.s, pend := some { loads := (loadLanes i x.d).map (fun l =>
      laneLoad l (effAddr i.w x l) (.global (pa l) (kind l)) sz.bytes sx x.d) } }) ∧
  (∀ x sz sx s w c (pa : Nat → Nat) (kind : Nat → PKind), Issues (.ldF x sz sx) s w →
    let i := issueOf (.ldF x sz sx) s w
    Ready i c → i.h.ta.isSome → x.ord = 0 → recFrame c.record ≠ 0 →
    (∀ l ∈ loadLanes i x.d, (effAddr i.w x l).toNat < 4096 ∧ (effAddr i.w x l).toNat % sz.bytes = 0 ∧
      Mapped i c { r := true } sz.bytes (recFrame c.record + effAddr i.w x l) (pa l) (kind l) ∧ kind l ≠ .so ∧
      (Config.homeSite (pa l) = some (i.w.core / 96) ∨ i.s.numbers = true)) →
    Completes (.ldF x sz sx) s w { s := i.s, pend := some { loads := (loadLanes i x.d).map (fun l =>
      { laneLoad l (recFrame c.record + effAddr i.w x l) (.global (pa l) (kind l)) sz.bytes sx x.d with
        named := effAddr i.w x l }) } }) ∧
  (∀ x s w, Issues (.pfG x) s w → Completes (.pfG x) s w { s := (issueOf (.pfG x) s w).s }) ∧
  (∀ x sz sx nt s w c l code detail, Issues (.ldG x sz sx nt) s w →
    let i := issueOf (.ldG x sz sx nt) s w
    let va := effAddr i.w x l
    i.s.crew? i.w.crew = some c → i.act = [l] → i.s.logCovers i.w.core i.w.key va.toNat sz.bytes = false →
    (if 2 ^ 52 ≤ va.toNat then code = 0x06 ∧ detail = 0x01
     else if va.toNat % sz.bytes ≠ 0 then code = 0x04 ∧ detail = 0
     else (code = 0x05 ∧ Unmapped i c va detail) ∨ (code = 0x06 ∧ detail = 0x02 ∧
       ∃ t, i.s.tlb? (i.w.core / 96) c.launch va.toNat = some t ∧ denies t.leaf c.priv { r := true } = true)) →
    TrapsAlone (.ldG x sz sx nt) s w l code detail va) ∧
  (∀ x sz sx nt s w c (pa : Nat → Nat) (kind : Nat → PKind), Issues (.ldG x sz sx nt) s w →
    let i := issueOf (.ldG x sz sx nt) s w
    Ready i c → i.act = i.xs → i.s.pause = true →
    (∀ l ∈ loadLanes i x.d, Mapped i c { r := true } sz.bytes (effAddr i.w x l) (pa l) (kind l) ∧
      Config.homeSite (pa l) = some (1 - i.w.core / 96)) →
    exec (.ldG x sz sx nt) s = .next { s.setWave (w.settled.holdLanes i.xs) with held := [] })

/-- A load without a tag reads at once: ld.s the bytes of its crew's scratchpad, or with .gr those of its gang's member; ld.c
those of its launch's bank; ld.g what its core sees, where no copy on its path is older.  With nothing in flight an acquire, and a
load of an SO page, read the home, whatever older copies the core holds nearer than the acquire's scope, which are then dropped;
on a DS page a crew of a phase reads its own view.  Each lane that reads the other site sends a request and gets a response.
8- and 16-bit values are extended (R156, R48, R152, R158, R276, R282, R284, R287).  That the read is performed at issue, and reads
what its core sees then, is the model's choice (log entries 10 and 11). -/
def Obligations.LoadsWithoutATagRead : Prop :=
  (∀ x sz sx s w c, Issues (.ldS x sz sx false) s w →
    let i := issueOf (.ldS x sz sx false) s w
    Ready i c → i.h.ta = none → x.ord = 0 → c.badLines = [] → ((∃ r, x.d = .v r) ∨ ∃ r, x.d = .s r) →
    (∀ l ∈ loadLanes i x.d, OwnScratch i c sz.bytes (effAddr i.w x l) false) →
    Completes (.ldS x sz sx false) s w { s := i.s, pend := some (loaded i x.d sz.bytes sx fun l =>
      (List.range sz.bytes).map fun k => SMap.get c.scratch (((effAddr i.w x l).extractLsb' 0 32).toNat + k)) }) ∧
  (∀ x sz sx s w c (d : Nat → Crew), Issues (.ldS x sz sx true) s w →
    let i := issueOf (.ldS x sz sx true) s w
    let off (l : Nat) : Nat := ((effAddr i.w x l).extractLsb' 0 32).toNat
    let rank (l : Nat) : Nat := ((effAddr i.w x l).extractLsb' 32 3).toNat
    Ready i c → i.h.ta = none → x.ord = 0 → recGang c.record = true → ((∃ r, x.d = .v r) ∨ ∃ r, x.d = .s r) →
    (∀ l ∈ loadLanes i x.d, rank l ≤ (recGsize c.record).toNat ∧ (i.s.gangMember c (rank l)).1 = some (d l) ∧
      i.s.crew? (d l).key = some (d l) ∧ (d l).badLines = [] ∧ off l < (d l).scratchBytes ∧ off l % sz.bytes = 0) →
    Completes (.ldS x sz sx true) s w { s := i.s, pend := some (loaded i x.d sz.bytes sx fun l =>
      (List.range sz.bytes).map fun k => SMap.get (d l).scratch (off l + k)) }) ∧
  (∀ x sz sx s w c la, Issues (.ldC x sz sx) s w →
    let i := issueOf (.ldC x sz sx) s w
    Ready i c → i.h.ta = none → x.ord = 0 → i.s.launch? c.launch = some la → ((∃ r, x.d = .v r) ∨ ∃ r, x.d = .s r) →
    (∀ l ∈ loadLanes i x.d, (effAddr i.w x l).toNat < la.bankBytes ∧ (effAddr i.w x l).toNat % sz.bytes = 0) →
    Completes (.ldC x sz sx) s w { s := i.s, pend := some (loaded i x.d sz.bytes sx fun l =>
      (List.range sz.bytes).map fun k => SMap.get la.bank ((effAddr i.w x l).toNat + k)) }) ∧
  (∀ x sz sx nt s w c (pa : Nat → Nat) (kind : Nat → PKind), Issues (.ldG x sz sx nt) s w →
    let i := issueOf (.ldG x sz sx nt) s w
    let v := i.s.crosses i.w.core true pa kind (loadLanes i x.d)
    Ready i c → i.h.ta = none → x.ord = 0 → i.s.badLines = [] → ((∃ r, x.d = .v r) ∨ ∃ r, x.d = .s r) →
    (∀ l ∈ loadLanes i x.d, Mapped i c { r := true } sz.bytes (effAddr i.w x l) (pa l) (kind l) ∧
      (kind l = .rc ∨ kind l = .uo ∨ (kind l = .ds ∧ c.phase = none)) ∧ i.s.reaches (i.w.core / 96) (pa l) = true) →
    (∀ y ∈ i.s.inflight, y.pkt = none ∧ (y.wave = i.w.key → y.kind = .uo → y.fenced = true)) →
    (∀ k < 3, ∀ p ∈ i.s.copiesAt i.w.core k, p.2 = i.s.seen i.w.core p.1) →
    ∃ u, u.fresh = i.s.fresh + (loadLanes i x.d).length ∧ sameButCopies v u ∧
      u = { v with cores := u.cores, clusters := u.clusters, siteA := u.siteA, siteB := u.siteB, fresh := u.fresh } ∧
      Completes (.ldG x sz sx nt) s w { s := u, pend := some (loaded i x.d sz.bytes sx fun l =>
        (List.range sz.bytes).map fun k => i.s.seen i.w.core (pa l + k)) }) ∧
  (∀ x sz sx nt s w c (pa : Nat → Nat) (kind : Nat → PKind), Issues (.ldG x sz sx nt) s w →
    let i := issueOf (.ldG x sz sx nt) s w
    let v := i.s.crosses i.w.core true pa kind (loadLanes i x.d)
    let point := if ordAcquire x.ord then pointOf (scopeOf x.scp) else 0
    Ready i c → (i.h.ta = none ∨ ordAcquire x.ord = true ∨ ∀ l ∈ loadLanes i x.d, kind l = .so) →
    i.s.badLines = [] → i.s.inflight = [] → ((∃ r, x.d = .v r) ∨ ∃ r, x.d = .s r) →
    (∀ l ∈ loadLanes i x.d, Mapped i c { r := true } sz.bytes (effAddr i.w x l) (pa l) (kind l) ∧
      i.s.reaches (i.w.core / 96) (pa l) = true) →
    (∀ k < 3, point ≤ k → ∀ p ∈ i.s.copiesAt i.w.core k, p.2 = i.s.homeByte p.1) →
    ∃ u, u.fresh = i.s.fresh + (loadLanes i x.d).length ∧ sameButCopies v u ∧
      u = { v with cores := u.cores, clusters := u.clusters, siteA := u.siteA, siteB := u.siteB, fresh := u.fresh } ∧
      (i.act ≠ [] → ∀ k < point, u.copiesAt i.w.core k = []) ∧
      Completes (.ldG x sz sx nt) s w { s := u, pend := some (loaded i x.d sz.bytes sx fun l =>
        (List.range sz.bytes).map fun k =>
          if kind l = .ds ∧ c.phase ≠ none then i.s.dsView c.key (pa l + k) else i.s.homeByte (pa l + k)) })

/-- A plain store changes the bytes that its lanes name and no other: for st.g as the storing core sees them, until it is
performed at a wider scope, for st.s in the crew's scratchpad, or with .gr in its gang's member's; of lanes that meet, the highest
wins.  With nothing in flight, a store to an SO page and one that releases at device scope write the home.  A crew of a phase
that stores to a DS page changes its own view alone.  Where no table maps the page, the store enters the side log; the log full, or
a check failing, its lane traps: PROTECT, ALIGN, OPERAND_HAZARD, BARRIER_CLOBBER, PAGE.  The data are the low bytes of D,
little-endian (R157, R154, R158, R276, R282, R284, R302, R341, R4).  That a plain store stays in flight, seen by its core alone
until it is performed (log entry 11), and that a store to an SO page and one that releases at device scope write the home when
they issue (log entry 10: R282 and R276 give an order only), is the model's choice. -/
def Obligations.PlainStoresAreSeen : Prop :=
  (∀ x sz nt s w c (pa : Nat → Nat) (kind : Nat → PKind) (data : Nat → List Byte), Issues (.stG x sz nt) s w →
    let i := issueOf (.stG x sz nt) s w
    Ready i c → x.ord = 0 →
    (∀ l ∈ i.act, storeData i.w l sz.bytes x.d = .ok (data l) ∧
      Mapped i c { w := true } sz.bytes (effAddr i.w x l) (pa l) (kind l) ∧
      (kind l = .rc ∨ kind l = .uo ∨ (kind l = .ds ∧ c.phase = none))) →
    ∃ u, u = { i.s with inflight := u.inflight, nextId := u.nextId, cores := u.cores } ∧
      sameCores i.s u ∧ Completes (.stG x sz nt) s w { s := u } ∧
      (∀ a, u.seen i.w.core a = match lastWriter i.act pa sz.bytes a with
        | some l => (data l).getD (a - pa l) 0
        | none => i.s.seen i.w.core a) ∧
      ∀ k a, k ≠ i.w.core → u.seen k a = i.s.seen k a) ∧
  (∀ x sz nt s w c (pa : Nat → Nat) (kind : Nat → PKind) (data : Nat → List Byte), Issues (.stG x sz nt) s w →
    let i := issueOf (.stG x sz nt) s w
    let v := i.s.crosses i.w.core false pa kind i.act
    Calm i c → i.s.badLines = [] → s.Canonical →
    (∀ l ∈ i.act, storeData i.w l sz.bytes x.d = .ok (data l) ∧
      Mapped i c { w := true } sz.bytes (effAddr i.w x l) (pa l) (kind l) ∧
      (kind l = .so ∨ (ordRelease x.ord = true ∧ pointOf (scopeOf x.scp) = 3 ∧ (kind l = .ds → c.phase = none)))) →
    ∃ u, u = { v with mem := u.mem, nextId := u.nextId, cores := u.cores, clusters := u.clusters, siteA := u.siteA
                      siteB := u.siteB } ∧
      sameButCopies v u ∧ Completes (.stG x sz nt) s w { s := u } ∧
      ∀ a, u.homeByte a = match lastWriter i.act pa sz.bytes a with
        | some l => (data l).getD (a - pa l) 0
        | none => i.s.homeByte a) ∧
  (∀ x sz nt s w c l (pa ph : Nat) (data : List Byte), Issues (.stG x sz nt) s w →
    let i := issueOf (.stG x sz nt) s w
    Ready i c → i.act = [l] → x.ord = 0 → i.s.inflight = [] → i.s.badLines = [] → s.Canonical → c.phase = some ph →
    storeData i.w l sz.bytes x.d = .ok data → Mapped i c { w := true } sz.bytes (effAddr i.w x l) pa .ds →
    Config.homeSite pa = some (i.w.core / 96) → (∀ d ∈ i.s.siteA.dsLines ++ i.s.siteB.dsLines, d.old.length = 64) →
    (∀ d, i.s.dsLine? pa = some d → d.phase = ph) → i.s.dsFull .store pa sz.bytes data = false →
    i.s.beyondQuota c.key .store pa sz.bytes data = none →
    ∃ u, Completes (.stG x sz nt) s w { s := u } ∧ u.inflight = [] ∧ u.waves = i.s.waves ∧ u.crews = i.s.crews ∧
      u.dsWrites = i.s.dsWrites ++ [⟨ph, recTindex c.record, c.key, pa, .store, sz.bytes, data,
        ⟨c.launch, recTindex c.record, effAddr i.w x l, l, i.pc⟩⟩] ∧
      (∀ a, u.dsView c.key a = if pa ≤ a ∧ a < pa + sz.bytes then data.getD (a - pa) 0 else i.s.dsView c.key a) ∧
      ∀ k a, k ≠ c.key → u.dsView k a = i.s.dsView k a) ∧
  (∀ x sz nt s w c la (data : Nat → List Byte) (detail : Nat → BitVec 16), Issues (.stG x sz nt) s w →
    let i := issueOf (.stG x sz nt) s w
    Ready i c → x.ord = 0 → i.s.launch? c.launch = some la → i.act.length ≤ Config.sideLogEntries →
    (∀ l ∈ i.act, let va := effAddr i.w x l
      storeData i.w l sz.bytes x.d = .ok (data l) ∧ va.toNat < 2 ^ 52 ∧ va.toNat % sz.bytes = 0 ∧
      meet va.toNat sz.bytes la.codeBase (5 * la.window) = false ∧ Unmapped i c va (detail l)) →
    Completes (.stG x sz nt) s w { s := i.s.updCore i.w.core fun k => { k with sideLog := i.act.map fun l =>
      { wave := i.w.key, crew := c.key, launch := c.launch, priv := c.priv, tindex := recTindex c.record, op := .store
        bytes := sz.bytes, ord := x.ord, scp := x.scp, va := effAddr i.w x l, data := data l, pc := i.pc, lane := l
        detail := detail l, group := i.s.issues + 1 } } }) ∧
  (∀ x sz nt s w c l (data : List Byte) code detail, Issues (.stG x sz nt) s w →
    let i := issueOf (.stG x sz nt) s w
    let va := effAddr i.w x l
    let win := i.s.codeWindow c.launch
    i.s.crew? i.w.crew = some c → i.act = [l] → x.ord = 0 → storeData i.w l sz.bytes x.d = .ok data →
    i.s.logPage i.w.core i.w.key va.toNat = false →
    (if 2 ^ 52 ≤ va.toNat then code = 0x06 ∧ detail = 0x01
     else if meet va.toNat sz.bytes win.1 win.2 = true then code = 0x06 ∧ detail = 0x03
     else if va.toNat % sz.bytes ≠ 0 then code = 0x04 ∧ detail = 0
     else (code = 0x05 ∧ Unmapped i c va detail ∧ i.s.logRoom i.w.core = false) ∨
       (code = 0x06 ∧ detail = 0x02 ∧ ∃ t, i.s.tlb? (i.w.core / 96) c.launch va.toNat = some t ∧
         denies t.leaf c.priv { w := true } = true)) →
    TrapsAlone (.stG x sz nt) s w l code detail va) ∧
  (∀ x sz s w c (data : Nat → List Byte), Issues (.stS x sz false) s w →
    let i := issueOf (.stS x sz false) s w
    let off (l : Nat) : Nat := ((effAddr i.w x l).extractLsb' 0 32).toNat
    Ready i c → x.ord = 0 → c.badLines = [] → SMap.wf c.scratch = true →
    (∀ l ∈ i.act, storeData i.w l sz.bytes x.d = .ok (data l) ∧ OwnScratch i c sz.bytes (effAddr i.w x l) true) →
    ∃ u d, u = { i.s with crews := u.crews } ∧ Completes (.stS x sz false) s w { s := u } ∧
      u.crew? c.key = some d ∧ d = { c with scratch := d.scratch } ∧ (∀ k, k ≠ c.key → u.crew? k = i.s.crew? k) ∧
      ∀ a, SMap.get d.scratch a = match lastWriter i.act off sz.bytes a with
        | some l => (data l).getD (a - off l) 0
        | none => SMap.get c.scratch a) ∧
  (∀ x sz s w c d l (data : List Byte), Issues (.stS x sz true) s w →
    let i := issueOf (.stS x sz true) s w
    let off := ((effAddr i.w x l).extractLsb' 0 32).toNat
    let rank := ((effAddr i.w x l).extractLsb' 32 3).toNat
    Ready i c → i.act = [l] → x.ord = 0 → storeData i.w l sz.bytes x.d = .ok data → recGang c.record = true →
    rank ≤ (recGsize c.record).toNat → (i.s.gangMember c rank).1 = some d → i.s.crew? d.key = some d → d.badLines = [] →
    SMap.wf d.scratch = true → off < d.scratchBytes → off % sz.bytes = 0 → i.s.armed d off sz.bytes = false →
    d.tagged off sz.bytes = false →
    ∃ u e, u = { i.s with crews := u.crews } ∧ Completes (.stS x sz true) s w { s := u } ∧ u.crew? d.key = some e ∧
      e = { d with scratch := e.scratch } ∧ (∀ k, k ≠ d.key → u.crew? k = i.s.crew? k) ∧
      ∀ a, SMap.get e.scratch a = if off ≤ a ∧ a < off + sz.bytes then data.getD (a - off) 0 else SMap.get d.scratch a) ∧
  (∀ x sz s w c l (data : List Byte) code, Issues (.stS x sz false) s w →
    let i := issueOf (.stS x sz false) s w
    let off := ((effAddr i.w x l).extractLsb' 0 32).toNat
    i.s.crew? i.w.crew = some c → i.act = [l] → x.ord = 0 → storeData i.w l sz.bytes x.d = .ok data →
    (if c.scratchBytes ≤ off then code = 0x06
     else if off % sz.bytes ≠ 0 then code = 0x04
     else if i.s.armed c off sz.bytes = true then code = 0x20
     else code = 0x28 ∧ c.tagged off sz.bytes = true) →
    TrapsAlone (.stS x sz false) s w l code (if code = 0x06 then 0x04 else 0) (effAddr i.w x l)) ∧
  (∀ (w : Wave) (l n : Nat) (r : BitVec 8), n ∈ [1, 2, 4, 8, 16, 32, 64] →
    ∃ d : List Byte, storeData w l n (.v r) = .ok d ∧ d.length = n ∧
      ∀ k < n, d.getD k 0 = (w.vreg (r.toNat + k / 4) l).extractLsb' (8 * (k % 4)) 8)

/-- The atomics and the loft commands: lane after lane changes the bytes at its address at their home, or in the crew's
scratchpad, by the operation, and no other byte; the returning forms leave in D what each lane found.  loft.sax scales and adds
a vector, here one that does not meet its source.  An acquiring form drops the copies on the core's path that are nearer than its
scope, and a lane on the other site sends its command there, with a response when it returns a value.  Stated with nothing in
flight and no poisoned line, and for releasing and acquiring forms where the release has nothing to wait for (R158, R162-R164,
R166-R168, R287).  That they act at their home when they issue is the model's choice (log entry 10). -/
def Obligations.AtomicsActInTurn : Prop :=
  let drops (i : Issue) (x : LM) (acq : Bool) (u : State) : Prop :=
    acq = true → ordAcquire x.ord = true → i.act ≠ [] → ∀ k < pointOf (scopeOf x.scp), u.copiesAt i.w.core k = []
  let acts (j : Instr) (x : LM) (n : Nat) (ret loft acq : Bool) (s : State) (w : Wave) (c : Crew) (f : Nat → Nat → Nat) : Prop :=
    let i := issueOf j s w
    ∀ (pa : Nat → Nat) (kind : Nat → PKind), s.Canonical → i.s.inflight = [] → i.s.badLines = [] →
      (∀ l ∈ i.act, Mapped i c { r := true, w := true } n (effAddr i.w x l) (pa l) (kind l) ∧
        (loft = true → isLoft (pa l) = true) ∧ i.s.reaches (i.w.core / 96) (pa l) = true ∧ (kind l = .ds → c.phase = none)) →
      let v := i.s.crosses i.w.core ret pa kind i.act
      ∃ u, u = { v with mem := u.mem, cores := u.cores, clusters := u.clusters, siteA := u.siteA, siteB := u.siteB } ∧
        sameButCopies v u ∧ drops i x acq u ∧ (∀ a, u.homeByte a = (inTurn i.s.homeByte pa n f i.act).1 a) ∧
        Completes j s w { s := u, pend := if ret then some (returned x.d n (inTurn i.s.homeByte pa n f i.act).2) else none }
  let inPad (j : Instr) (x : LM) (n : Nat) (ret : Bool) (s : State) (w : Wave) (c : Crew) (f : Nat → Nat → Nat) : Prop :=
    let i := issueOf j s w
    let off (l : Nat) : Nat := ((effAddr i.w x l).extractLsb' 0 32).toNat
    c.badLines = [] → SMap.wf c.scratch = true → (∀ l ∈ i.act, OwnScratch i c n (effAddr i.w x l) true) →
      ∃ u d, u = { i.s with crews := u.crews, cores := u.cores, clusters := u.clusters, siteA := u.siteA, siteB := u.siteB } ∧
        sameButCopies i.s u ∧ drops i x true u ∧ (x.ord = 0 → u = { i.s with crews := u.crews }) ∧
        u.crew? c.key = some d ∧ d = { c with scratch := d.scratch } ∧ (∀ k, k ≠ c.key → u.crew? k = i.s.crew? k) ∧
        (∀ a, SMap.get d.scratch a = (inTurn (SMap.get c.scratch) off n f i.act).1 a) ∧
        Completes j s w
          { s := u, pend := if ret then some (returned x.d n (inTurn (SMap.get c.scratch) off n f i.act).2) else none }
  let may (i : Issue) (x : LM) (c : Crew) : Prop := (Ready i c ∧ x.ord = 0) ∨ Calm i c
  (∀ (x : LM) (f : AtomF) (op : AtomOp) (s : State) (w : Wave) (c : Crew) (data : Nat → List Byte),
    let j : Instr := match op with
      | .add => .atomAdd x f | .sub => .atomSub x f | .min => .atomMin x f | .max => .atomMax x f
      | .and => .atomAnd x f | .or => .atomOr x f | .xor => .atomXor x f | .exch => .atomExch x f
      | .inc => .atomInc x f | .dec => .atomDec x f | .cas => .atomCas x f
    let i := issueOf j s w
    let n := f.sz.bytes
    let g (l old : Nat) : Nat := atomGives op f.sgn n (data l) old
    Issues j s w → may i x c → (f.nr = false → ∃ r, x.d = .v r) →
    (∀ l ∈ i.act, atomData i.w l n (!f.nr) (op = .cas) x.d = .ok (data l)) →
    if f.sp then inPad j x n (!f.nr) s w c g else acts j x n (!f.nr) false true s w c g) ∧
  (∀ (x : LM) (f : LoftF) (op : LoftOp) (s : State) (w : Wave) (c : Crew) (data : Nat → List Byte),
    op = .add ∨ op = .min ∨ op = .max →
    let j : Instr := match op with
      | .min => .loftMin x f | .max => .loftMax x f | _ => .loftAdd x f
    let n := if f.w64 then 8 else 4
    Issues j s w → may (issueOf j s w) x c →
    (∀ l ∈ (issueOf j s w).act, loftData (issueOf j s w).w l n f.flt x.d = .ok (data l)) →
    acts j x n false true false s w c fun l old => loftGives op f.flt f.sgn n (data l) old) ∧
  (∀ (x : LM) (w64 nr : Bool) (s : State) (w : Wave) (c : Crew) (data : Nat → List Byte),
    let j : Instr := .loftCas x w64 nr
    let n := if w64 then 8 else 4
    Issues j s w → may (issueOf j s w) x c → (nr = false → ∃ r, x.d = .v r) →
    (∀ l ∈ (issueOf j s w).act, atomData (issueOf j s w).w l n (!nr) true x.d = .ok (data l)) →
    acts j x n (!nr) true true s w c fun l old => loftGives .cas false false n (data l) old) ∧
  (∀ (x : LM) (w64 : Bool) (s : State) (w : Wave) (c : Crew) (l : Nat) (r : BitVec 8) (pa : Nat) (kind : PKind),
    let j : Instr := .loftSax x w64
    let i := issueOf j s w
    let n := if w64 then 8 else 4
    let f : Fmt := if w64 then fF64 else fF32
    let a := if w64 then (i.w.vpair r.toNat l).toNat else (i.w.vreg r.toNat l).toNat
    let off := (i.w.vreg (r.toNat + 2) l).toInt
    let k := min (i.w.vreg (r.toNat + 3) l).toNat 64
    let va := effAddr i.w x l
    let lo : Int := (va.toNat / 4096 * 4096 : Nat)
    let src := ((pa : Int) + off).toNat
    Issues j s w → may i x c → x.d = .v r → i.act = [l] → s.Canonical → i.s.inflight = [] → i.s.badLines = [] →
    0 < k → Mapped i c { r := true, w := true } n va pa kind →
    meet va.toNat (k * n) (i.s.codeWindow c.launch).1 (i.s.codeWindow c.launch).2 = false →
    isLoft pa = true → Config.homeSite pa = some (i.w.core / 96) → (kind = .ds → c.phase = none) →
    ((va.toNat : Int) + off) % n = 0 → va.toNat + k * n ≤ lo + 4096 → lo ≤ va.toNat + off → va.toNat + off + k * n ≤ lo + 4096 →
    off + k * n ≤ 0 ∨ (k : Int) * n ≤ off →
    ∃ u, u = { i.s with mem := u.mem, cores := u.cores, clusters := u.clusters, siteA := u.siteA, siteB := u.siteB } ∧
      sameButCopies i.s u ∧ Completes j s w { s := u } ∧
      (∀ b, b < pa ∨ pa + k * n ≤ b → u.homeByte b = i.s.homeByte b) ∧
      ∀ m < k, readNum u.homeByte (pa + m * n) n =
        (f.fma .rne a (readNum i.s.homeByte (src + m * n) n) (readNum i.s.homeByte (pa + m * n) n)).bits % 2 ^ (8 * n))

/-! ### Fences, semaphores and barriers (06 R170-R185) -/

/-- A fence with release at site scope or wider performs the core's own stores at their homes in their order, at gang scope it
lets the cluster see them, one without release performs none; after either, and after an acquire, the wave's stores keep their
order with what follows.  An acquire drops the copies on the core's path that are nearer than its scope; fence.cb drops the
control blocks that engines hold within its scope.  sema.take gives each lane its ticket and counts up; sema.give counts the turn
up for each lane; sema.wait goes on when the turn is its own, blocks while it is to come, and takes SEMA_STATE when it has passed
(R170, R171, R184, R276, R283).  Stated for the core's own site.  That semaphores act at issue (log entry 10), that stores wait in flight and
an acquire performs none (log entry 11), and that turn and ticket have 32 bits in D (log entry 79), is the model's choice. -/
def Obligations.FencesAndTurns : Prop :=
  (∀ (x : LM) (cb : Bool) (s : State) (w : Wave) (c : Crew),
    let j : Instr := if cb then .fenceCb x else .fence x
    let i := issueOf j s w
    let sc := scopeOf x.scp
    Issues j s w → i.act ≠ [] → Ready i c → s.Canonical → i.s.linkOpen = true → i.s.flows = [] → i.s.badLines = [] →
    (i.s.inflight.map fun y => y.id).Nodup →
    (∀ y ∈ i.s.inflight, y.core = i.w.core ∧ y.scope = .crew ∧ y.pkt = none ∧ Config.homeSite y.pa = some (i.w.core / 96)) →
    ∃ u, Completes j s w { s := u } ∧ sameCores i.s u ∧ u.waves = i.s.waves ∧ u.crews = i.s.crews ∧
      (ordRelease x.ord = true → 3 ≤ scopeRank sc → u.inflight = [] ∧ ∀ a, u.homeByte a = i.s.seen i.w.core a) ∧
      (ordRelease x.ord = true → sc = .gang → u.mem = i.s.mem ∧ ∀ k a, k / 8 = i.w.core / 8 → u.seen k a = i.s.seen i.w.core a) ∧
      ((ordRelease x.ord = false ∨ pointOf sc = 0) → u.mem = i.s.mem ∧ u.inflight = i.s.inflight.map fun y =>
        if y.wave = i.w.key ∧ (ordRelease x.ord = true ∨ ordAcquire x.ord = true) then { y with fenced := true } else y) ∧
      (ordAcquire x.ord = true → ∀ k < pointOf sc, u.copiesAt i.w.core k = []) ∧
      (∀ k < i.s.clusters.length, (u.cluster k).blocks =
        if cb && (match sc with
          | .wave | .crew | .gang => decide (k = i.w.core / 8)
          | .site => decide (k / 12 = i.w.core / 96)
          | _ => true)
        then [] else (i.s.cluster k).blocks)) ∧
  (∀ (x : LM) (s : State) (w : Wave) (c : Crew) (pa : Nat → Nat) (kind : Nat → PKind),
    let i := issueOf (.semaTake x) s w
    let run := inTurn i.s.homeByte (fun l => pa l + 4) 4 (fun _ old => (old + 1) % 2 ^ 32) i.act
    Issues (.semaTake x) s w → Ready i c → x.ord = 0 → s.Canonical → i.s.inflight = [] → i.s.badLines = [] →
    (∀ l ∈ i.act, Mapped i c { r := true, w := true } 8 (effAddr i.w x l) (pa l) (kind l) ∧
      Config.homeSite (pa l) = some (i.w.core / 96) ∧ Config.homeSite (pa l + 4) = some (i.w.core / 96) ∧
      (kind l = .rc ∨ kind l = .so)) →
    ∃ u e, u = { i.s with mem := u.mem, cores := u.cores, clusters := u.clusters, siteA := u.siteA, siteB := u.siteB } ∧
      sameButCopies i.s u ∧ (∀ a, u.homeByte a = run.1 a) ∧
      Completes (.semaTake x) s w e ∧ e.s = u ∧ e.pcs = [] ∧ e.pw = [] ∧ e.pend = none ∧ e.traps = [] ∧
      (∀ r, x.d = .v r → e.sw = none ∧ e.vw = run.2.map fun p => (32 * r.toNat + p.1, BitVec.ofNat 32 p.2)) ∧
      ∀ r, x.d = .s r → e.vw = [] ∧ e.sw = run.2.head?.map fun p => (r.toNat, BitVec.ofNat 64 p.2)) ∧
  (∀ (x : LM) (s : State) (w : Wave) (c : Crew) (pa : Nat → Nat) (kind : Nat → PKind),
    let i := issueOf (.semaGive x) s w
    Issues (.semaGive x) s w → Ready i c → x.ord = 0 → s.Canonical → i.s.inflight = [] → i.s.badLines = [] →
    (∀ y ∈ i.s.waves, ∀ z ∈ y.lanes, z.block = .none) →
    (∀ l ∈ i.act, Mapped i c { r := true, w := true } 8 (effAddr i.w x l) (pa l) (kind l) ∧
      Config.homeSite (pa l) = some (i.w.core / 96) ∧ (kind l = .rc ∨ kind l = .so)) →
    ∃ u, u = { i.s with mem := u.mem, cores := u.cores, clusters := u.clusters, siteA := u.siteA, siteB := u.siteB } ∧
      sameButCopies i.s u ∧ Completes (.semaGive x) s w { s := u } ∧
      ∀ a, u.homeByte a = (inTurn i.s.homeByte pa 4 (fun _ old => (old + 1) % 2 ^ 32) i.act).1 a) ∧
  (∀ (x : LM) (s : State) (w : Wave) (c : Crew) (l : Nat) (pa : Nat) (kind : PKind) (k : DWord),
    let i := issueOf (.semaWait x) s w
    let turn : Word := BitVec.ofNat 32 (readNum i.s.homeByte pa 4)
    Issues (.semaWait x) s w → Ready i c → i.act = [l] → x.ord = 0 → i.s.inflight = [] → i.s.badLines = [] →
    readOne i.w l false x.d = .ok k → Mapped i c { r := true, w := true } 8 (effAddr i.w x l) pa kind →
    Config.homeSite pa = some (i.w.core / 96) → (kind = .rc ∨ kind = .so) →
    ∃ u, u = { i.s with cores := u.cores, clusters := u.clusters, siteA := u.siteA, siteB := u.siteB, waves := u.waves } ∧
      sameButCopies i.s u ∧
      if turn = k.setWidth 32 then u.waves = i.s.waves ∧ Completes (.semaWait x) s w { s := u }
      else if 2 ^ 31 ≤ (k.setWidth 32 - turn).toNat then
        u.waves = i.s.waves ∧ exec (.semaWait x) s = finishIssue i (instrWord (.semaWait x))
          { s := u, traps := [{ lane := l, code := 0x2B, addr := some (effAddr i.w x l) }] }
      else
        u.waves = (i.s.updWave i.w.key fun w => w.updLanes [l] fun _ y => { y with
          block := .sema (effAddr i.w x l) (k.setWidth 32) none (instrWord (.semaWait x)) (saveLatches i.w.latches [l])
            (i.s.issues + 1) (some (pa, turn)) }).waves ∧ Completes (.semaWait x) s w { s := u })

/-- The barrier instructions of one lane on its crew's objects, and the opening of a barrier when its arrivals are complete:
bar.init writes and tags an object, bar.arrive and bar.sync arrive, with the phase as token, bar.wait and bar.sync block in the
awaited phase, bar.expect adds bytes, bar.free untags an idle object; gbar of a crew by itself lets its lanes on when all have
arrived (R172, R175-R177, R179-R181, R402).  That a gbar with GANG = 0 stands for its own crew (log entry 22), that lanes let
go wait for a slice or for the end of the step (log entry 58), and that an object in a poisoned line of the scratchpad serves as
any other (log entry 76: R309 does not speak of barrier objects), is the model's choice. -/
def Obligations.BarriersOpenWhenComplete : Prop :=
  ∀ (s : State) (w : Wave) (c : Crew) (l : Nat),
    let here (j : Instr) (x : LM) (off : Nat) : Prop :=
      let i := issueOf j s w
      Issues j s w ∧ Ready i c ∧ i.act = [l] ∧ x.ord = 0 ∧ SMap.wf c.scratch = true ∧
        OwnScratch i c 16 (effAddr i.w x l) false ∧ off = ((effAddr i.w x l).extractLsb' 0 32).toNat
    (∀ x off k, here (.barInit x) x off → readOne (issueOf (.barInit x) s w).w l false x.d = .ok k →
      (issueOf (.barInit x) s w).s.armed c off 16 = false → 1 ≤ (k.setWidth 32).toNat → (k.setWidth 32).toNat ≤ 1024 → c.slotAt off = none → c.bars.length < 16 →
      ∃ u d, Completes (.barInit x) s w { s := u } ∧ u = { (issueOf (.barInit x) s w).s with crews := u.crews } ∧
        u.crew? c.key = some d ∧ d = { c with scratch := d.scratch, bars := d.bars } ∧
        d.bars = c.bars ++ [{ off := off, cbuf := false }] ∧ d.barWord off = BitVec.ofNat 128 (k.setWidth 32).toNat ∧
        ∀ a, a < off ∨ off + 16 ≤ a → SMap.get d.scratch a = SMap.get c.scratch a) ∧
    (∀ x off sl, here (.barArrive x) x off → c.slotAt off = some sl → sl.cbuf = false →
      let i := issueOf (.barArrive x) s w
      let b := c.barWord off
      sl.arrived.getLsbD (crewLane i.w l) = false →
      ∃ u e, BarChange i c off (barObj b.exp (b.arr + 1) b.bytes b.xit b.ph) (sl.members ||| bit1024 (crewLane i.w l))
          (sl.arrived ||| bit1024 (crewLane i.w l)) i.s.waves u ∧
        Completes (.barArrive x) s w e ∧ e.s = u ∧ e.traps = [] ∧ e.pcs = [] ∧ e.pw = [] ∧ e.pend = none ∧
        (∀ r, x.d = .v r → e.sw = none ∧ e.vw = [(32 * r.toNat + l, b.ph.setWidth 32)]) ∧
        ∀ r, x.d = .s r → e.vw = [] ∧ e.sw = some (r.toNat, b.ph.setWidth 64)) ∧
    (∀ x off sl k, here (.barWait x) x off → c.slotAt off = some sl → sl.cbuf = false →
      readOne (issueOf (.barWait x) s w).w l false x.d = .ok k →
      let i := issueOf (.barWait x) s w
      if (c.barWord off).ph = k.setWidth 16 then
        Completes (.barWait x) s w
          { s := i.s.updWave i.w.key fun w => w.updLanes [l] fun _ y => { y with block := .barrier off none } }
      else Completes (.barWait x) s w { s := i.s }) ∧
    (∀ x off sl, here (.barSync x) x off → c.slotAt off = some sl → sl.cbuf = false →
      let i := issueOf (.barSync x) s w
      let b := c.barWord off
      sl.arrived.getLsbD (crewLane i.w l) = false →
      ∃ u, BarChange i c off (barObj b.exp (b.arr + 1) b.bytes b.xit b.ph) (sl.members ||| bit1024 (crewLane i.w l))
          (sl.arrived ||| bit1024 (crewLane i.w l))
          (i.s.updWave i.w.key fun w => w.updLanes [l] fun _ y => { y with block := .barrier off none }).waves u ∧
        Completes (.barSync x) s w { s := u }) ∧
    (∀ x off sl k, here (.barExpect x) x off → c.slotAt off = some sl → sl.cbuf = false →
      readOne (issueOf (.barExpect x) s w).w l false x.d = .ok k →
      let i := issueOf (.barExpect x) s w
      let b := c.barWord off
      let n := b.bytes.toInt + (k.setWidth 32).toInt
      0 ≤ (k.setWidth 32).toInt → n ≤ 2 ^ 24 - 1 →
      ∃ u, BarChange i c off (barObj b.exp b.arr (BitVec.ofInt 25 n) b.xit b.ph) sl.members sl.arrived i.s.waves u ∧
        Completes (.barExpect x) s w { s := u }) ∧
    (∀ x off sl, here (.barFree x) x off → c.slotAt off = some sl → sl.cbuf = false → (c.barWord off).arr = 0 →
      (c.barWord off).bytes = 0 → (issueOf (.barFree x) s w).s.lanesOn c.key off = false →
      ∃ u d, Completes (.barFree x) s w { s := u } ∧ u = { (issueOf (.barFree x) s w).s with crews := u.crews } ∧
        u.crew? c.key = some d ∧ d = { c with bars := c.bars.filter fun b => b.off ≠ off } ∧
        ∀ k, k ≠ c.key → u.crew? k = (issueOf (.barFree x) s w).s.crew? k) ∧
    (∀ x, let i := issueOf (.gbar x) s w
      Issues (.gbar x) s w → Ready i c → i.act ≠ [] → i.s.inflight = [] → i.s.flows = [] → i.s.linkOpen = true →
      recGang c.record = false → c.gbar = 0 → i.w.num < 32 → i.w.lanes.length = 32 →
      (∀ y ∈ i.s.waves, y.crew = c.key → y.key = i.w.key) →
      ∃ u y, Completes (.gbar x) s w { s := u } ∧ u.mem = i.s.mem ∧ u.cores = i.s.cores ∧ u.wave? i.w.key = some y ∧
        y.v = i.w.v ∧ y.s = i.w.s ∧
        ∀ m ∈ i.act, (y.lane m).block =
          if laneIds.all (fun n => (i.w.lane n).life = .exited || i.act.contains n) then Block.released (some .gang) (i.s.cluster (c.key / 1024)).slope.toNat else Block.gbar)

/-! ### The matrix engine (07 R190-R202) -/

/-- The matrix instructions: mma.step enters the step queue with its operands as read, mma.commit assigns the wave's steps to a
batch, mma.wait covers a complete batch and writes its status, or blocks; mma.zero binds a tile of zeros, mma.zero.free frees it;
mma.ld and mma.st, of the scratchpad and of global memory through the pages that their probe finds, are accepted and leave their
status to the tag; mma.prog writes the progress word (R190, R192, R194, R196,
R197, R200-R202, R306). -/
def Obligations.MatrixInstructionsAct : Prop :=
  ∀ (x : LE) (s : State) (w : Wave),
    let here (j : Instr) : Prop :=
      let i := issueOf j s w
      Issues j s w ∧ i.act ≠ [] ∧ i.w.cluster < i.s.clusters.length ∧ i.s.waveLogged i.w.core i.w.key = false ∧
        i.w.handles.length = 8 ∧ (i.s.cluster i.w.cluster).tiles.length = 64
    let idle (i : Issue) (t : Nat) : Prop :=
      t < 64 ∧ i.s.tileOpen i.w.cluster t i.w.key = false ∧ ∀ m ∈ (i.s.cluster i.w.cluster).moves, m.tile ≠ t
    let rows := 8 * ((x.f10.extractLsb' 7 3).toNat + 1)
    let cols := 8 * ((x.f10.extractLsb' 3 4).toNat + 1)
    let writes (i : Issue) (e : Eff) (word : Word) : Prop :=
      (∀ r, x.d = .v r → e.sw = none ∧ e.vw = i.act.map fun l => (32 * r.toNat + l, word)) ∧
      ∀ r, x.d = .s r → e.vw = [] ∧ e.sw = some (r.toNat, word.setWidth 64)
    (∀ f asp bsp t, here (.mmaStep x f asp bsp) →
      let i := issueOf (.mmaStep x f asp bsp) s w
      let c := i.s.cluster i.w.cluster
      let k := ((engineOp i false x.c).setWidth 32).toNat
      let sparse := sparseOf (x.f10.extractLsb' 1 2)
      let da := descOf asp (i.w.sFour x.a)
      let db := descOf bsp (i.w.sFour x.b)
      c.steps.length < 32 → i.w.handle (selM x.d) = some t → (c.tiles.getD t {}).wide = decide (f = .f64) →
      (c.tiles.getD t {}).m = rows → (c.tiles.getD t {}).n = cols → 1 ≤ k → k ≤ 256 → k % f.terms = 0 →
      (sparse ≠ 0 → k % 16 = 0) → da.base % 16 = 0 → da.stride % 16 = 0 → db.base % 16 = 0 → db.stride % 16 = 0 →
      rangeCheck asp (i.s.crewBytes i.w.crew) (da.arrays f rows k sparse) = none →
      rangeCheck bsp (i.s.crewBytes i.w.crew) (db.arrays f cols k 0) = none →
      ∃ q : MStep, q.wave = i.w.key ∧ q.crew = i.w.crew ∧ q.handle = selM x.d ∧ q.tile = t ∧ q.fmt = f ∧ q.aSp = asp ∧
        q.bSp = bsp ∧ q.sparse = sparse ∧ q.k = k ∧ q.m = rows ∧ q.n = cols ∧ q.a = i.w.sFour x.a ∧ q.b = i.w.sFour x.b ∧
        q.chunk = 0 ∧ q.state = .queued ∧ q.batch = none ∧ q.order = i.s.nextId ∧
        Completes (.mmaStep x f asp bsp) s w
          { s := { i.s.setCluster i.w.cluster { c with steps := c.steps ++ [q] } with nextId := i.s.nextId + 1 } }) ∧
    (here (.mmaCommit x) →
      let i := issueOf (.mmaCommit x) s w
      let c := i.s.cluster i.w.cluster
      (∀ m ∈ c.steps, m.wave = i.w.key → m.batch = none → m.state = .queued ∨ m.state = .done) →
      ∃ u, Completes (.mmaCommit x) s w { s := u } ∧ (∀ k, u.wave? k = i.s.wave? k) ∧ u.mem = i.s.mem ∧
        u.cluster i.w.cluster = { c with steps := c.steps.map fun m =>
          if m.wave = i.w.key ∧ m.batch = none then { m with batch := some (x.f10.extractLsb' 0 2).toNat } else m }) ∧
    (∀ st, here (.mmaWait x st) →
      let i := issueOf (.mmaWait x st) s w
      let b := (x.f10.extractLsb' 0 2).toNat
      let c := i.s.cluster i.w.cluster
      ((∀ m ∈ c.steps, m.wave = i.w.key → m.batch = some b → m.state = .done ∨ ∃ code, m.state = .aborted code) →
        ∃ e, Completes (.mmaWait x st) s w e ∧ e.traps = [] ∧ e.pend = none ∧
          e.s = i.s.setCluster i.w.cluster { c with steps := c.steps.filter fun m => !(m.wave = i.w.key && m.batch = some b) } ∧
          (st = false → e.vw = [] ∧ e.sw = none) ∧
          (st = true → writes i e (match i.w.aborts.getD b none with
            | some (_, word) => word
            | none => 0))) ∧
      ((∃ m ∈ c.steps, m.wave = i.w.key ∧ m.batch = some b ∧ m.state = .queued) →
        Completes (.mmaWait x st) s w { s := i.s.updWave i.w.key fun w => w.updLanes i.act fun _ y =>
          { y with block := .mmaWait b (if st && !i.h.ws then some x.d else none) } })) ∧
    (∀ f64 t, here (.mmaZero x f64) →
      let i := issueOf (.mmaZero x f64) s w
      i.s.tileFor i.w (selM x.d) = some t → idle i t → (∃ k : BitVec 3, x.d = .m k) →
      ∃ u y, Completes (.mmaZero x f64) s w { s := u } ∧ u.mem = i.s.mem ∧ u.wave? i.w.key = some y ∧
        y = { i.w with handles := y.handles } ∧ y.handle (selM x.d) = some t ∧
        (∀ h, h ≠ selM x.d → y.handle h = i.w.handle h) ∧
        u.tile i.w.cluster t = { owner := some i.w.key, wide := f64, m := rows, n := cols } ∧
        ∀ t', t' ≠ t → u.tile i.w.cluster t' = i.s.tile i.w.cluster t') ∧
    (here (.mmaZeroFree x) →
      let i := issueOf (.mmaZeroFree x) s w
      (i.w.handle (selM x.d) = none → Completes (.mmaZeroFree x) s w { s := i.s }) ∧
      ∀ t, i.w.handle (selM x.d) = some t → idle i t →
        ∃ u y, Completes (.mmaZeroFree x) s w { s := u } ∧ u.mem = i.s.mem ∧ u.wave? i.w.key = some y ∧
          y.handle (selM x.d) = none ∧ (u.tile i.w.cluster t).owner = none ∧
          ∀ t', t' ≠ t → u.tile i.w.cluster t' = i.s.tile i.w.cluster t') ∧
    (∀ f64 t, here (.mmaLd x f64 true) →
      let i := issueOf (.mmaLd x f64 true) s w
      let base := ((engineOp i true x.a).setWidth 32).toNat
      let stride := (engineOp i true x.b).toInt
      (i.w.handle (selM x.d) = some t ∨ (i.w.handle (selM x.d) = none ∧ i.s.tileFor i.w (selM x.d) = some t)) → idle i t →
      base % 16 = 0 → stride % 16 = 0 →
      rangeCheck true (i.s.crewBytes i.w.crew) [((base : Int), stride, rows, cols * (if f64 then 8 else 4))] = none →
      ∃ u m, Completes (.mmaLd x f64 true) s w { s := u, pend := some { engine := some i.s.nextId, lanes := i.act, d := x.c } } ∧
        u.mem = i.s.mem ∧ (u.cluster i.w.cluster).moves = (i.s.cluster i.w.cluster).moves ++ [m] ∧ m.id = i.s.nextId ∧
        m.tile = t ∧ m.store = false ∧ m.sp = true ∧ m.base = base ∧ m.stride = stride ∧
        u.tile i.w.cluster t = { owner := some i.w.key, wide := f64, m := rows, n := cols }) ∧
    (∀ ty t, here (.mmaSt x ty true) →
      let i := issueOf (.mmaSt x ty true) s w
      let base := ((engineOp i true x.a).setWidth 32).toNat
      let stride := (engineOp i true x.b).toInt
      let tile := i.s.tile i.w.cluster t
      i.w.handle (selM x.d) = some t → idle i t → tile.wide = decide (ty = .f64) → tile.poison = false →
      base % 16 = 0 → stride % 16 = 0 →
      rangeCheck true (i.s.crewBytes i.w.crew) [((base : Int), stride, tile.m, tile.n * ty.bytes)] = none →
      ∃ u m, Completes (.mmaSt x ty true) s w { s := u, pend := some { engine := some i.s.nextId, lanes := i.act, d := x.c } } ∧
        u.mem = i.s.mem ∧ (u.cluster i.w.cluster).moves = (i.s.cluster i.w.cluster).moves ++ [m] ∧ m.id = i.s.nextId ∧
        m.tile = t ∧ m.store = true ∧ m.sty = ty ∧ m.sp = true ∧ m.base = base ∧ m.stride = stride ∧ m.opened = false) ∧
    (∀ f64 t c (pb : Nat → Nat) (pk : Nat → PKind) (ds : Bool), here (.mmaLd x f64 false) →
      let i := issueOf (.mmaLd x f64 false) s w
      let base := (engineOp i true x.a).toNat
      let stride := (engineOp i true x.b).toInt
      let len := cols * (if f64 then 8 else 4)
      i.s.crew? i.w.crew = some c → i.w.handle (selM x.d) = some t → idle i t → base % 16 = 0 → stride % 16 = 0 →
      (∀ r < rows, 0 ≤ (base : Int) + r * stride ∧ (base : Int) + r * stride + len ≤ 2 ^ 52) →
      (∀ r < rows, ∀ p, reachesPage (rowAt base stride r) len p → Probes i c { r := true } p (pb p) (pk p) ∧
        decide (pk p = PKind.ds) = ds) →
      ∃ u m, Completes (.mmaLd x f64 false) s w { s := u, pend := some { engine := some i.s.nextId, lanes := i.act, d := x.c } } ∧
        u.mem = i.s.mem ∧ (u.cluster i.w.cluster).moves = (i.s.cluster i.w.cluster).moves ++ [m] ∧ m.id = i.s.nextId ∧
        m.tile = t ∧ m.store = false ∧ m.sp = false ∧ m.base = base ∧ m.stride = stride ∧
        (∀ r < rows, ∀ a, rowAt base stride r ≤ a → a < rowAt base stride r + len →
          m.pages.at a = some (pb (a / 4096) + a % 4096, pk (a / 4096))) ∧
        u.tile i.w.cluster t = { owner := some i.w.key, wide := f64, m := rows, n := cols }) ∧
    (∀ ty t c (pb : Nat → Nat) (pk : Nat → PKind) (ds : Bool), here (.mmaSt x ty false) →
      let i := issueOf (.mmaSt x ty false) s w
      let base := (engineOp i true x.a).toNat
      let stride := (engineOp i true x.b).toInt
      let tile := i.s.tile i.w.cluster t
      let len := tile.n * ty.bytes
      i.s.crew? i.w.crew = some c → i.w.handle (selM x.d) = some t → idle i t → tile.wide = decide (ty = .f64) → tile.poison = false →
      base % 16 = 0 → stride % 16 = 0 → (∀ r < tile.m, 0 ≤ (base : Int) + r * stride ∧ (base : Int) + r * stride + len ≤ 2 ^ 52) →
      (∀ r < tile.m, ∀ p, reachesPage (rowAt base stride r) len p → Probes i c { w := true } p (pb p) (pk p) ∧
        decide (pk p = PKind.ds) = ds) →
      (ds = true → ∀ d ∈ i.s.siteA.dsLines ++ i.s.siteB.dsLines, c.phase = none ∨ c.phase = some d.phase) →
      ∃ u m, Completes (.mmaSt x ty false) s w { s := u, pend := some { engine := some i.s.nextId, lanes := i.act, d := x.c } } ∧
        u.mem = i.s.mem ∧ (u.cluster i.w.cluster).moves = (i.s.cluster i.w.cluster).moves ++ [m] ∧ m.id = i.s.nextId ∧
        m.tile = t ∧ m.store = true ∧ m.sty = ty ∧ m.sp = false ∧ m.base = base ∧ m.stride = stride ∧ m.opened = false ∧
        ∀ r < tile.m, ∀ a, rowAt base stride r ≤ a → a < rowAt base stride r + len →
          m.pages.at a = some (pb (a / 4096) + a % 4096, pk (a / 4096))) ∧
    (here (.mmaProg x) →
      let i := issueOf (.mmaProg x) s w
      (i.w.handle (selM x.a) = none → ∃ e, Completes (.mmaProg x) s w e ∧ e.s = i.s ∧ e.traps = [] ∧ writes i e 0) ∧
      ∀ t, i.w.handle (selM x.a) = some t → idle i t → (∀ m ∈ (i.s.cluster i.w.cluster).steps, m.tile ≠ t) →
        let tile := i.s.tile i.w.cluster t
        ∃ e, Completes (.mmaProg x) s w e ∧ e.s = i.s ∧ e.traps = [] ∧
          writes i e ((if tile.aborted then 3#2 else 0#2) ++ (if tile.poison then 1#1 else 0#1) ++ tile.summary ++ 0#24))

/-! ### Copies and circular buffers (07 R203-R211) -/

/-- A copy of a valid template that passes its checks is accepted with its source as it stands, and leaves its status to the tag:
within a scratchpad, also to a circular buffer; from and to global memory by the pages that its probe finds; a gather by an index
array; a band gather with the ring's count, its last clear and the time.  An invalid template gives CODE 0x01 and moves nothing, and an index beyond the bank is PROTECT.
cbuf.init writes and tags a buffer, cbuf.take takes the oldest full slot or blocks, cbuf.give returns one (R205, R206, R209-R211,
R306, R379). -/
def Obligations.CopiesAndBuffers : Prop :=
  ∀ (x : LE) (s : State) (w : Wave) (c : Crew),
    let here (j : Instr) : Prop :=
      let i := issueOf j s w
      Issues j s w ∧ i.act ≠ [] ∧ Ready i c ∧ SMap.wf c.scratch = true
    let changes (i : Issue) (off : Nat) (b : BarObj) (bars : List BarSlot) (u : State) : Prop :=
      ∃ d, u = { i.s with crews := u.crews } ∧ u.crew? c.key = some d ∧ d = { c with scratch := d.scratch, bars := bars } ∧
        (∀ k, k ≠ c.key → u.crew? k = i.s.crew? k) ∧ d.barWord off = b ∧
        ∀ a, a < off ∨ off + 16 ≤ a → SMap.get d.scratch a = SMap.get c.scratch a
    let accepts (i : Issue) (t : Tmpl) (src dst : Nat) (reads : Bool) (P : Copy → Prop) : Prop :=
      ∃ u y, Completes (.copy x) s w { s := u, pend := some { engine := some i.s.nextId, lanes := i.act, d := x.d } } ∧
        (reads = false → u = { i.s with clusters := u.clusters, nextId := i.s.nextId + 1 }) ∧
        u = { i.s with cores := u.cores, clusters := u.clusters, siteA := u.siteA, siteB := u.siteB, fresh := u.fresh
                       nextId := i.s.nextId + 1 } ∧
        (u.cluster c.cluster).copies = (i.s.cluster c.cluster).copies ++ [y] ∧ y.id = i.s.nextId ∧ y.wave = i.w.key ∧
        y.crew = c.key ∧ y.tmpl = t ∧ y.src = src ∧ y.dst = dst ∧ y.scope = scopeOf (x.f10.extractLsb' 7 3) ∧ y.slot = none ∧ P y
    (∀ la, here (.copy x) →
      let i := issueOf (.copy x) s w
      let idx := ((engineOp i false x.c).setWidth 32).toNat
      let t : Tmpl := BitVec.ofNat 512 (ofBytes ((List.range 64).map fun k => SMap.get la.bank (64 * idx + k)))
      let src := ((engineOp i true x.a).setWidth 32).toNat
      let dst := ((engineOp i true x.b).setWidth 32).toNat
      i.s.launch? c.launch = some la → (i.s.cluster c.cluster).copies.length < 16 → c.cluster < i.s.clusters.length →
      (la.bankBytes ≤ 64 * idx → exec (.copy x) s = finishIssue i (instrWord (.copy x))
        { s := i.s, traps := i.act.map fun l => { lane := l, code := 0x06, detail := 0x04 } }) ∧
      (64 * idx < la.bankBytes → t.valid = false → Completes (.copy x) s w { s := i.s, pend := some (match x.d with
        | .v r => { lanes := i.act, d := x.d, vw := i.act.map fun l => (32 * r.toNat + l, 0x01000000) }
        | .s r => { lanes := i.act, d := x.d, sw := some (r.toNat, 0x01000000) }
        | _ => { lanes := i.act, d := x.d }) }) ∧
      (64 * idx < la.bankBytes → t.valid = true → t.kind = 0 → t.srcSp = true → t.dstSp = true → t.cb = false →
        (∀ r ∈ t.runs [], ∀ o, r.1 = some o → 0 ≤ (src : Int) + o ∧ (src : Int) + o + t.srcRun ≤ c.scratchBytes) →
        (∀ r ∈ t.runs [], 0 ≤ (dst : Int) + r.2 ∧ (dst : Int) + r.2 + t.dstRun ≤ c.scratchBytes ∧
          i.s.armed c ((dst : Int) + r.2).toNat t.dstRun = false ∧ c.tagged ((dst : Int) + r.2).toNat t.dstRun = false) →
        accepts i t src dst false fun y => y.cbuf = none ∧ y.gather = none ∧
          y.old = (t.runs []).map fun r => i.s.engineScratch c.key ((src : Int) + r.1.getD 0).toNat t.srcRun) ∧
      (∀ b, 64 * idx < la.bankBytes → t.valid = true → t.kind = 0 → t.srcSp = true → t.cb = true → c.cbufAt t.cbuf = some b →
        (∀ r ∈ t.runs [], ∀ o, r.1 = some o → 0 ≤ (src : Int) + o ∧ (src : Int) + o + t.srcRun ≤ c.scratchBytes) →
        (∀ r ∈ t.runs [], 0 ≤ r.2 ∧ r.2 + t.dstRun ≤ b.size) → b.base + b.num * b.size ≤ c.scratchBytes →
        i.s.armed c b.base (b.num * b.size) = false → c.tagged b.base (b.num * b.size) = false →
        accepts i t src dst false fun y => y.cbuf = some t.cbuf ∧ y.gather = none ∧
          y.old = (t.runs []).map fun r => i.s.engineScratch c.key ((src : Int) + r.1.getD 0).toNat t.srcRun) ∧
      (64 * idx < la.bankBytes → t.valid = true → t.kind = 2 → t.dstSp = true → t.cb = false → dst + 32 * t.count0 ≤ c.scratchBytes →
        i.s.armed c dst (32 * t.count0) = false → c.tagged dst (32 * t.count0) = false →
        let neg := (i.s.site (c.core / 96)).neg
        accepts i t ((engineOp i true x.a).toNat) dst false fun y => y.cbuf = none ∧ y.old = [] ∧
          y.gather = some ((SMap.get neg.counts t.band).toNat, (SMap.get neg.clears t.band).toNat,
            (i.s.timer - (i.s.site (c.core / 96)).meter.epoch).setWidth 32)) ∧
      (∀ (pb : Nat → Nat) (pk : Nat → PKind) (ds : Bool), 64 * idx < la.bankBytes → t.valid = true → t.kind = 0 → t.srcSp = true → t.dstSp = false → t.cb = false →
        let dg := (engineOp i true x.b).toNat
        (∀ r ∈ t.runs [], ∀ o, r.1 = some o → 0 ≤ (src : Int) + o ∧ (src : Int) + o + t.srcRun ≤ c.scratchBytes) →
        (∀ r ∈ t.runs [], 0 ≤ (dg : Int) + r.2 ∧ (dg : Int) + r.2 + t.dstRun ≤ 2 ^ 52 ∧
          meet ((dg : Int) + r.2).toNat t.dstRun la.codeBase (5 * la.window) = false ∧
          ∀ p, reachesPage ((dg : Int) + r.2).toNat t.dstRun p → Probes i c { w := true } p (pb p) (pk p) ∧
            decide (pk p = PKind.ds) = ds) →
        (ds = true → ∀ d ∈ i.s.siteA.dsLines ++ i.s.siteB.dsLines, c.phase = none ∨ c.phase = some d.phase) →
        accepts i t src dg false fun y => y.cbuf = none ∧ y.gather = none ∧
          (y.old = (t.runs []).map fun r => i.s.engineScratch c.key ((src : Int) + r.1.getD 0).toNat t.srcRun) ∧
          ∀ r ∈ t.runs [], ∀ a, ((dg : Int) + r.2).toNat ≤ a → a < ((dg : Int) + r.2).toNat + t.dstRun →
            y.pages.at a = some (pb (a / 4096) + a % 4096, pk (a / 4096))) ∧
      (∀ pb : Nat → Nat, 64 * idx < la.bankBytes → t.valid = true → t.kind = 0 → t.srcSp = false → t.dstSp = true → t.cb = false →
        let from_ := (engineOp i true x.a).toNat
        EngineSees i.s i.w.core → c.core = i.w.core →
        (∀ r ∈ t.runs [], ∀ o, r.1 = some o → 0 ≤ (from_ : Int) + o ∧ (from_ : Int) + o + t.srcRun ≤ 2 ^ 52 ∧
          ∀ p, reachesPage ((from_ : Int) + o).toNat t.srcRun p → Probes i c { r := true } p (pb p) .rc ∧
            ∀ k < 4096, Config.homeSite (pb p + k) = some (i.w.core / 96)) →
        (∀ r ∈ t.runs [], 0 ≤ (dst : Int) + r.2 ∧ (dst : Int) + r.2 + t.dstRun ≤ c.scratchBytes ∧
          i.s.armed c ((dst : Int) + r.2).toNat t.dstRun = false ∧ c.tagged ((dst : Int) + r.2).toNat t.dstRun = false) →
        accepts i t from_ dst true fun y => y.cbuf = none ∧ y.gather = none ∧
          y.old = (t.runs []).map fun r => (List.range t.srcRun).map fun k =>
            let a := ((from_ : Int) + r.1.getD 0).toNat + k
            (i.s.homeByte (pb (a / 4096) + a % 4096), false)) ∧
      (∀ pb : Nat → Nat, 64 * idx < la.bankBytes → t.valid = true → t.kind = 1 → t.srcSp = true → t.dstSp = true → t.cb = false →
        let at_ := t.aux.toNat
        let index : List (Option Word) := (List.range t.n1).map fun k => some (BitVec.ofNat 32 (ofBytes ((List.range 4).map fun j =>
          let a := at_ + 4 * k + j
          i.s.homeByte (pb (a / 4096) + a % 4096))))
        EngineSees i.s i.w.core → c.core = i.w.core → at_ + 4 * t.n1 ≤ 2 ^ 52 →
        (∀ p, reachesPage at_ (4 * t.n1) p → Probes i c { r := true } p (pb p) .rc ∧
          ∀ k < 4096, Config.homeSite (pb p + k) = some (i.w.core / 96)) →
        (∀ r ∈ t.runs index, ∀ o, r.1 = some o → 0 ≤ (src : Int) + o ∧ (src : Int) + o + t.srcRun ≤ c.scratchBytes) →
        (∀ r ∈ t.runs index, 0 ≤ (dst : Int) + r.2 ∧ (dst : Int) + r.2 + t.dstRun ≤ c.scratchBytes ∧
          i.s.armed c ((dst : Int) + r.2).toNat t.dstRun = false ∧ c.tagged ((dst : Int) + r.2).toNat t.dstRun = false) →
        accepts i t src dst true fun y => y.cbuf = none ∧ y.gather = none ∧ y.index = index ∧
          y.old = (t.runs index).map fun r => i.s.engineScratch c.key ((src : Int) + r.1.getD 0).toNat t.srcRun)) ∧
    (here (.cbufInit x) →
      let i := issueOf (.cbufInit x) s w
      let off := ((engineOp i false x.a).setWidth 32).toNat
      let g := engineOp i true x.b
      let base := (g.extractLsb' 0 32).toNat
      let size := (g.extractLsb' 32 16).toNat
      let num := (g.extractLsb' 48 8).toNat
      off < c.scratchBytes → base + num * size ≤ c.scratchBytes → off % 16 = 0 → c.slotAt off = none → c.bars.length < 16 →
      0 < num → 0 < size → size % 64 = 0 → base % 64 = 0 → meet off 16 base (num * size) = false →
      ∃ u, Completes (.cbufInit x) s w { s := u } ∧
        changes i off (0#48 ++ BitVec.ofNat 8 num ++ 0#16 ++ g.extractLsb' 0 56) (c.bars ++ [{ off := off, cbuf := true }]) u) ∧
    (∀ sl, here (.cbufTake x) →
      let i := issueOf (.cbufTake x) s w
      let off := ((engineOp i false x.a).setWidth 32).toNat
      let b := c.barWord off
      c.slotAt off = some sl → sl.cbuf = true →
      (b.full = 0 → ∃ u, Completes (.cbufTake x) s w { s := u } ∧ u = { i.s with waves := u.waves, nextId := i.s.nextId + 1 } ∧
        u.waves = (i.s.updWave i.w.key fun w => w.updLanes i.act fun _ y =>
          { y with block := .cbuf off (if i.h.ws then none else some x.d) i.s.nextId }).waves) ∧
      (0 < b.full → 0 < b.num → b.take < b.num → ∃ u e, Completes (.cbufTake x) s w e ∧ e.s = u ∧ e.traps = [] ∧
        changes i off (cbufObj b.base b.size b.num b.fill ((b.take + 1) % b.num) b.free (b.full - 1)) c.bars u ∧
        (∀ r, x.d = .v r → e.vw = i.act.map fun l => (32 * r.toNat + l, BitVec.ofNat 32 (b.base + b.take * b.size))) ∧
        ∀ r, x.d = .s r → e.sw = some (r.toNat, (BitVec.ofNat 32 (b.base + b.take * b.size)).setWidth 64))) ∧
    (∀ sl, here (.cbufGive x) →
      let i := issueOf (.cbufGive x) s w
      let off := ((engineOp i false x.a).setWidth 32).toNat
      let b := c.barWord off
      c.slotAt off = some sl → sl.cbuf = true → b.free + b.full + i.s.filling c off < b.num →
      ∃ u, Completes (.cbufGive x) s w { s := u } ∧
        changes i off (cbufObj b.base b.size b.num b.fill b.take (b.free + 1) b.full) c.bars u)

/-! ### Queue registers and graphics-engine instructions (07 R212-R219) -/

/-- A push of one lane is taken by the port, or held with the lane blocked; a pop takes the lane's oldest out record, blocks
while pushes are in flight, or writes an EMPTY record; qbind binds an idle pair to a port with its descriptor's snapshot, or
unbinds it; qstat writes the code and the counts (R212, R213).  meter.post hands a valid header to the Light meter of its site,
and marks an invalid one; expose stores a record in its own site's ring, or counts one that it discards (R217, R219).  That a
header is adopted at once when no half of a sample block is filled (log entry 40), and how 64-bit elements fill records (log entry
68), is the model's choice. -/
def Obligations.PortsAndRecords : Prop :=
  ∀ (s : State) (w : Wave) (l : Nat),
    let port (i : Issue) (k : Nat) (p : Port) (u : State) : Prop :=
      ∃ y, u.wave? i.w.key = some y ∧ y = { i.w with ports := y.ports } ∧ y.port k = p ∧ ∀ j, j ≠ k → y.port j = i.w.port j
    (∀ x t (v : Nat → DWord), Issues (.movQPush x t) s w →
      let i := issueOf (.movQPush x t) s w
      let k := selPair x.d
      let p := i.w.port k
      i.act = [l] → i.w.ports.length = 4 → k < 4 → p.code ≠ 0 →
      (∀ n < 9, readSrc i.w x.extent l n (.int t.regs) x.a = .ok (v n)) →
      let q : Push := ⟨i.s.nextId, l, ((List.range 9).flatMap fun n => (List.range t.regs).map fun k => (v n).extractLsb' (32 * k) 32).take 9, p.code, p.desc, i.s.mem, i.s.inflight,
        i.s.siteA.dsLines ++ i.s.siteB.dsLines, i.s.dsWrites, none, false⟩
      (p.inFlight l < 8 → p.ready l < 8 → ∃ u, Completes (.movQPush x t) s w { s := u } ∧
        u = { i.s with waves := u.waves, nextId := i.s.nextId + 1 } ∧ port i k { p with flight := p.flight ++ [q] } u) ∧
      ((8 ≤ p.inFlight l ∨ 8 ≤ p.ready l) → ∃ u y, Completes (.movQPush x t) s w { s := u } ∧
        u = { i.s with waves := u.waves, nextId := i.s.nextId + 1 } ∧ u.wave? i.w.key = some y ∧
        y.port k = { p with held := p.held ++ [q] } ∧ (l < i.w.lanes.length → (y.lane l).block = .qpush k))) ∧
    (∀ x, Issues (.movQPop x) s w →
      let i := issueOf (.movQPop x) s w
      let k := selPair (popRegs x).2.1
      let wide := (popRegs x).2.2
      let p := i.w.port k
      ∀ r : BitVec 8, (popRegs x).1 = .v r → i.act = [l] → i.w.ports.length = 4 → k < 4 → p.code ≠ 0 →
      let words (ws : List Word) (rec : List Word) (vw : List (Nat × Word)) : Prop :=
        ws.length = (if wide then 16 else 8) ∧ (∀ n < 8, ws.getD n 0 = rec.getD n 0) ∧
        vw = (List.range ws.length).map fun n => (32 * (r.toNat + n) + l, ws.getD n 0)
      (∀ o, (p.outs.find? fun o => o.lane = l) = some o → ∃ u e ws, Completes (.movQPop x) s w e ∧ e.s = u ∧ e.traps = [] ∧
        e.sw = none ∧ e.pcs = [] ∧ u = { i.s with waves := u.waves, fresh := u.fresh } ∧
        port i k { p with outs := p.outs.erase o } u ∧ words ws o.words e.vw) ∧
      ((∀ o ∈ p.outs, o.lane ≠ l) → p.inFlight l = 0 → ∃ e ws, Completes (.movQPop x) s w e ∧
        e.s = { i.s with fresh := e.s.fresh } ∧ e.traps = [] ∧ words ws (List.replicate 8 0) e.vw) ∧
      ((∀ o ∈ p.outs, o.lane ≠ l) → 0 < p.inFlight l → ∃ e, Completes (.movQPop x) s w e ∧ e.traps = [] ∧ e.vw = [] ∧
        e.s.waves = (i.s.setWave (i.w.updLanes [l] fun _ y => { y with block := .qpop k r wide i.h.ws })).waves)) ∧
    (∀ x c pa, Issues (.qbind x) s w →
      let i := issueOf (.qbind x) s w
      let k := selPair x.d
      let va := engineOp i true x.b
      i.act ≠ [] → Ready i c → i.w.ports.length = 4 → k < 4 → (i.w.port k).flight = [] → (i.w.port k).held = [] →
      (x.a = .inl 64 → ∃ u, Completes (.qbind x) s w { s := u } ∧ u = { i.s with waves := u.waves } ∧ port i k {} u) ∧
      (∀ j : BitVec 7, x.a = .inl j → 65 ≤ j.toNat → j.toNat ≤ 69 → Mapped i c { r := true } 64 va pa .rc →
        i.s.badLines = [] → Config.homeSite pa = some (i.w.core / 96) →
        (∀ b ∈ (i.s.cluster i.w.cluster).blocks, b.1 ≠ pa) →
        (∀ k, 1 ≤ k → k < 3 → ∀ p ∈ i.s.copiesAt i.w.core k, p.2 = i.s.seen i.w.core p.1) →
        let desc : BitVec 512 := BitVec.ofNat 512 (ofBytes ((List.range 64).map fun n => i.s.seen i.w.core (pa + n)))
        ∃ u, Completes (.qbind x) s w { s := u } ∧ u.mem = i.s.mem ∧ port i k { code := j.toNat - 64, desc := desc } u)) ∧
    (∀ x, Issues (.qstat x) s w →
      let i := issueOf (.qstat x) s w
      let p := i.w.port (selPair x.a)
      (∀ m ∈ i.act, p.ready m < 256) →
      let word (m : Nat) : Word := BitVec.ofNat 8 p.code ++ 0#8 ++ BitVec.ofNat 8 (p.ready m) ++ BitVec.ofNat 8 (p.inFlight m)
      ∃ e, Completes (.qstat x) s w e ∧ e.traps = [] ∧ e.s = { i.s with fresh := e.s.fresh } ∧
        (∀ r, x.d = .v r → e.sw = none ∧ e.vw = i.act.map fun m => (32 * r.toNat + m, word m)) ∧
        ∀ r, x.d = .s r → e.vw = [] ∧ e.sw = i.act.head?.map fun m => (r.toNat, (word m).setWidth 64)) ∧
    (∀ x c pa, Issues (.meterPost x) s w →
      let i := issueOf (.meterPost x) s w
      let site := i.w.core / 96
      let va := engineOp i true x.a
      let h : BitVec 512 := BitVec.ofNat 512 (ofBytes ((List.range 64).map fun n => i.s.homeByte (pa + n)))
      i.act ≠ [] → Ready i c → i.s.inflight = [] → i.s.flows = [] → i.s.linkOpen = true → i.s.badLines = [] →
      Mapped i c { r := true } 64 va pa .rc → Config.homeSite pa = some site → (∀ b ∈ (i.s.site site).blocks, b.1 ≠ pa) →
      (∀ k < 3, ∀ p ∈ i.s.copiesAt i.w.core k, p.2 = i.s.homeByte p.1) →
      ∃ u, Completes (.meterPost x) s w { s := u } ∧ u.mem = i.s.mem ∧
        (hdrValid h = false → (u.site site).meter.rej = true ∧ (u.site site).meter.latest = (i.s.site site).meter.latest) ∧
        (hdrValid h = true → (i.s.site site).meter.part ≠ [] →
          (u.site site).meter.latest = some ⟨h, c.launch, c.priv⟩ ∧ (u.site site).meter.adopted = (i.s.site site).meter.adopted) ∧
        (hdrValid h = true → (i.s.site site).meter.part = [] →
          (u.site site).meter.latest = none ∧ (u.site site).meter.adopted = some ⟨h, c.launch, c.priv⟩)) ∧
    (∀ x (r : BitVec 8), Issues (.expose x) s w →
      let i := issueOf (.expose x) s w
      let site := i.w.core / 96
      let q := cleanRecord (laneRecord i.w r.toNat l)
      let band := (q.extractLsb' 32 20).toNat / 256
      let n := SMap.get (i.s.site site).neg.counts band
      site < 2 → x.a = .v r → i.act = [l] →
      (recView q = 0 ∨ 4 ≤ (recView q).toNat ∨ 0xF000 ≤ recX q ∨ 0xF000 ≤ recY q →
        Completes (.expose x) s w { s := i.s.updSite site fun t => t.addDisc 1 }) ∧
      (recView q = 1 <<< site → recX q < 0xF000 → recY q < 0xF000 → SMap.wf (i.s.site site).neg.counts = true →
        ∃ u, Completes (.expose x) s w { s := u } ∧ u.mem = i.s.mem ∧ u.waves = i.s.waves ∧ u.site (1 - site) = i.s.site (1 - site) ∧
          SMap.get (u.site site).neg.counts band = n + 1 ∧
          (u.site site).neg.rings = ((i.s.site site).neg.rings.filter fun z => !(z.1 = band && z.2.order + 65536 = n.toNat)) ++
            [(band, { order := n.toNat, words := q, wave := some i.w.key, visible := false })]))

/-! ### Tasks (08 R224-R229) -/

/-- spawn gives the crew the lowest free crew numbers for its new waves, whose lanes start at A with the issuer's s registers, and
answers their mask; a number of waves that the crew cannot hold answers 0.  post offers a lane's record to a queue and answers
the status: the record lies in the ring with the issuer's launch when the queue is open and has room.  join counts the counter
down and gathers the code; the join that brings a DS counter to 0 fires once its phase commits.  task.end ends its lanes, and
their codes join the crew's (R225-R229).  Stated where a release has nothing to do, for the core's own site.  The model's
choices: a join acts at its counter's home at issue (log 10), the issuer's launch judges a posted record
(log 24), and the stores into a queue's descriptor act at its home at once (log 31). -/
def Obligations.TaskOperations : Prop :=
  ∀ (x : LE) (s : State) (w : Wave) (c : Crew),
    let here (j : Instr) : Prop := Issues j s w ∧ (issueOf j s w).act ≠ [] ∧ Calm (issueOf j s w) c
    (here (.spawn x) → ((∃ r, x.d = .v r) ∨ ∃ r, x.d = .s r) →
      let i := issueOf (.spawn x) s w
      let n := ((engineOp i false x.b).setWidth 32).toNat
      let used := i.s.crewNums c.key
      (n = 0 ∨ 32 < used.length + n → Answers (.spawn x) s w i.s 1 x.d fun _ => 0) ∧
      (0 < n → used.length + n ≤ 32 → (∀ k ∈ used, k < 32) → used.Nodup → i.s.hasRoom c.core n (recBlocks c.record) 0 = true →
        ∃ u new nums, nums = lowestFree used 32 n ∧ nums.length = n ∧
          Answers (.spawn x) s w u 1 x.d (fun _ => (numMask nums).setWidth 64) ∧
          u = { i.s with waves := i.s.waves ++ new, held := [] } ∧ new.map Wave.num = nums ∧
          ∀ y ∈ new, y.core = c.core ∧ y.crew = c.key ∧ y.s = i.w.s ∧
            y.lanes = List.replicate 32 { pc := (engineOp i false x.a).setWidth 32 })) ∧
    (∀ l r pa la, here (.post x) → ((∃ r, x.d = .v r) ∨ ∃ r, x.d = .s r) →
      let i := issueOf (.post x) s w
      let rec_ := postRecord i.w r l
      let va := engineOp i true x.b
      let st (u : State) (n : Nat) : Prop := Answers (.post x) s w u 1 x.d fun _ => BitVec.ofNat 64 n
      i.act = [l] → x.a = .v (BitVec.ofNat 8 r) → r < 256 → i.s.badLines = [] → Mapped i c { r := true } 64 va pa .rc →
      i.s.launch? c.launch = some la →
      (recPriv rec_ = true → c.priv = false → ∃ e, exec (.post x) s = finishIssue i (instrWord (.post x)) e ∧ e.s = i.s ∧
        e.traps = [{ lane := l, code := 0x03 }] ∧ e.vw = [] ∧ e.sw = none) ∧
      ((recPriv rec_ = true → c.priv = true) →
        (recordValid la.gmax la.priv rec_ = false → st i.s 4) ∧
        (recordValid la.gmax la.priv rec_ = true →
          (i.s.queue? pa = none → st i.s 5) ∧
          ∀ q, i.s.queue? pa = some (i.w.core / 96, q) →
            (q.state = .closed → st i.s 2) ∧ (q.state = .faulted → st i.s 3) ∧
            (q.state = .opened → q.full = true → st i.s 1) ∧
            ∀ p, TakesRecord i.s (i.w.core / 96) q p → s.Canonical →
              ∃ u, st u 0 ∧ u.waves = i.s.waves ∧ Pushed i.s u (i.w.core / 96) q p
                { record := recSetLaunch rec_ (BitVec.ofNat 16 c.launch), scope := f10Scope x, cont := none }))) ∧
    (∀ pa kind, here (.join x) →
      let i := issueOf (.join x) s w
      let va := engineOp i true x.a
      let n : Word := (engineOp i false x.b).setWidth 32
      let code : BitVec 8 := (engineOp i false x.c).setWidth 8
      let v : BitVec 256 := BitVec.ofNat 256 (ofBytes (i.s.homeBytes pa 32))
      let count := v.extractLsb' 0 32
      s.Canonical → i.s.badLines = [] → Mapped i c { r := true, w := true } 32 va pa kind → kind = .rc ∨ kind = .so →
      Config.homeSite pa = some (i.w.core / 96) →
      (count.toNat < n.toNat → ∃ e, exec (.join x) s = finishIssue i (instrWord (.join x)) e ∧ e.s.mem = i.s.mem ∧
        e.traps = i.act.map fun l => { lane := l, code := 0x2B, detail := 2, addr := some va }) ∧
      (n.toNat ≤ count.toNat → ∃ u, u = { i.s with mem := u.mem, cores := u.cores, clusters := u.clusters, siteA := u.siteA
                                                   siteB := u.siteB } ∧ sameButCopies i.s u ∧
        (∀ a, u.homeByte a = if pa ≤ a ∧ a < pa + 32 then (counterAfter v n code).extractLsb' (8 * (a - pa)) 8 else i.s.homeByte a) ∧
        let f : Fire := ⟨c.launch, c.priv, recTindex c.record, i.w.core, v.extractLsb' 128 64, v.extractLsb' 192 64,
          if v.getLsbD 32 then some pa else none⟩
        (n = 0 ∨ n ≠ count → Completes (.join x) s w { s := u }) ∧
        (n ≠ 0 → n = count → v.getLsbD 32 = true → Completes (.join x) s w { s := { u with fires := i.s.fires ++ [f] } }) ∧
        (n ≠ 0 → n = count → v.getLsbD 32 = false → ∀ t, u.continueFire f = .next t → Completes (.join x) s w { s := t })) ∧
      (∀ (v : BitVec 256) n k, (counterAfter v n k).extractLsb' 0 32 = v.extractLsb' 0 32 - n ∧
        (counterAfter v n k).extractLsb' 64 8 = v.extractLsb' 64 8 ||| k ∧
        (counterAfter v n k).extractLsb' 72 184 = v.extractLsb' 72 184)) ∧
    (here (.taskEnd x) →
      let i := issueOf (.taskEnd x) s w
      (∀ t ∈ i.w.tags, t = none) → i.w.direct = none → i.s.quiet i.w = true → i.w.lanes.length = 32 →
      ∃ t y d, exec (.taskEnd x) s = .next t ∧ t.mem = i.s.mem ∧ t.wave? i.w.key = some y ∧ t.crew? c.key = some d ∧
        y.v = i.w.v ∧ y.s = i.w.s ∧ (∀ l < 32, (y.lane l).life = if l ∈ i.act then .exited else (i.w.lane l).life) ∧
        d.cc = c.cc ||| endCodes i x.a ∧ d.record = c.record)

/-! ### Fragments (08 R231-R236) -/

/-- An instruction that names a fragment by its FID.  frag.read answers the value of a target of one parked lane and frag.write
changes it; a FID that names no fragment answers 1, a lane that is not in it 2, a target that can not be read 3 or written 4.
frag.resume frees the entry and lets the lanes rejoin, at their instruction or, with mode 1, past it with shifted latches;
frag.kill ends the lanes with the code; frag.list finds the launch's next fragment; one that names a core of the other site
sends a request there and gets an answer (R231, R234-R236, R287).  Stated where a release has nothing to do and no group waits
for an entry. -/
def Obligations.FragmentOperations : Prop :=
  ∀ (x : LE) (s : State) (w : Wave) (c : Crew) (core e : Nat) (b : Bivouac) (y : Wave),
    core < 192 → e < 64 → b.state ≠ .free → (b.launch = c.launch ∨ c.priv = true) →
    let fid := fidOf core e b.gen
    let sent (i : Issue) (n : Nat) : State := if n / 96 = i.w.core / 96 then i.s else i.s.roundTrip i.agent .rc
    let known (i : Issue) : Prop := i.act ≠ [] ∧ Calm i c ∧ (i.s.core core).bivouac.getD e {} = b ∧ i.s.wave? b.wave = some y
    let freed (u : State) : Prop := (u.core core).bivouac.getD e {} = { gen := b.gen + 1 }
    let hold (i : Issue) : Prop := core < i.s.cores.length ∧ e < (i.s.core core).bivouac.length ∧ ∀ z ∈ i.s.waves, z.parked = []
    (∀ l k, Issues (.fragRead x) s w →
      let i := issueOf (.fragRead x) s w
      let gives (v : Word) (st : Nat) : Prop := Answers (.fragRead x) s w (sent i core) 2 x.d fun _ => fragWord v st
      known i → i.act = [l] → ((∃ r, x.d = .v r) ∨ ∃ r, x.d = .s r) → laneOp i l x.b = BitVec.ofNat 32 k → k < 2 ^ 32 →
      (laneOp i l x.a = fid →
        (32 ≤ k → gives 0 5) ∧ (k < 32 → k ∉ b.lanes → gives 0 2) ∧
        (k ∈ b.lanes → k < 32 →
          (targetValue b y k x.f10 = none → gives 0 3) ∧ ∀ v, targetValue b y k x.f10 = some v → gives v 0)) ∧
      (∀ g, g ≠ b.gen → laneOp i l x.a = fidOf core e g → gives 0 1)) ∧
    (∀ (k r : Nat), r < 256 →
      targetValue b y k (BitVec.ofNat 10 r) = some (y.vreg r k) ∧
      (r < 128 → targetValue b y k (BitVec.ofNat 10 (512 + r)) =
        some ((y.sreg (r / 2)).extractLsb' (32 * (r % 2)) 32)) ∧
      targetValue b y k 256 = some ((y.lane k).preds.setWidth 32) ∧ targetValue b y k 257 = some (y.lane k).pc ∧
      targetValue b y k 258 = some (y.lane k).fpsr ∧ targetValue b y k 259 = some y.fpcr ∧
      targetValue b y k 260 = some (y.lane k).draws0 ∧ targetValue b y k 261 = some (y.lane k).draws1) ∧
    (∀ l k v, Issues (.fragWrite x) s w →
      let i := issueOf (.fragWrite x) s w
      let gives (u : State) (st : Nat) : Prop := Answers (.fragWrite x) s w u 1 x.d fun _ => BitVec.ofNat 64 st
      known i → i.act = [l] → ((∃ r, x.d = .v r) ∨ ∃ r, x.d = .s r) → laneOp i l x.b = BitVec.ofNat 32 k → k < 2 ^ 32 →
      readOne i.w l false x.c = .ok v → laneOp i l x.a = fid →
      (32 ≤ k → gives (sent i core) 5) ∧ (k < 32 → k ∉ b.lanes → gives (sent i core) 2) ∧
      (k ∈ b.lanes → k < 32 →
        (targetWritable x.f10 = false → gives (sent i core) 4) ∧
        (targetWritable x.f10 = true → ∃ u z, gives u 0 ∧ u = { sent i core with waves := u.waves } ∧ u.wave? b.wave = some z ∧
          (∀ q, q ≠ b.wave → u.wave? q = i.s.wave? q) ∧ z = { y with v := z.v, lanes := z.lanes } ∧
          (x.f10.toNat < 256 → SMap.wf y.v = true → z.lanes = y.lanes ∧
            ∀ r m, m < 32 → z.vreg r m = if r = x.f10.toNat ∧ m = k then v.setWidth 32 else y.vreg r m) ∧
          (k < y.lanes.length → (x.f10 = 256 → (z.lane k).preds = v.setWidth 12) ∧ (x.f10 = 257 → (z.lane k).pc = v.setWidth 32) ∧
            (256 ≤ x.f10.toNat → z.v = y.v ∧ ∀ m, m ≠ k → z.lane m = y.lane m))))) ∧
    (Issues (.fragResume x) s w →
      let i := issueOf (.fragResume x) s w
      let mode : Word := (engineOp i false x.b).setWidth 32
      let a : Word := (engineOp i false x.a).setWidth 32
      let gives (u : State) (st : Nat) : Prop := Answers (.fragResume x) s w u 1 x.d fun _ => BitVec.ofNat 64 st
      let back (u : State) (ls : List Latch) (n : Nat) (f : Lane → Lane → Prop) : Prop :=
        freed u ∧ u.mem = i.s.mem ∧ ∃ z, u.wave? b.wave = some z ∧ z = { y with lanes := z.lanes, rejoins := z.rejoins } ∧
          z.rejoins = y.rejoins ++ [{ lanes := b.lanes, latches := ls, elem := n, live := false }] ∧
          ∀ m < y.lanes.length, if m ∈ b.lanes then f (y.lane m) (z.lane m) else z.lane m = y.lane m
      known i → hold i → ((∃ r, x.d = .v r) ∨ ∃ r, x.d = .s r) →
      (∀ g, g ≠ b.gen → a = fidOf core e g → gives (sent i core) 1) ∧ (a = fid → 1 < mode.toNat → gives (sent i core) 5) ∧
      (a = fid → mode = 0 → ∃ u, gives u 0 ∧ back u b.latches b.elem fun p q => q = { p with defer := false }) ∧
      (∀ n : Word → Word, a = fid → mode = 1 → (∀ m ∈ b.lanes, (sent i core).parcelLen y (y.lane m).pc = some (n (y.lane m).pc)) →
        ∃ u, gives u 0 ∧ back u ({} :: b.latches.take 3) 0 fun p q =>
          q = { p with defer := false, pc := p.pc + n p.pc, retired := p.retired + 1 })) ∧
    (∀ cr, Issues (.fragKill x) s w →
      let i := issueOf (.fragKill x) s w
      known i → hold i → ((∃ r, x.d = .v r) ∨ ∃ r, x.d = .s r) → (engineOp i false x.a).setWidth 32 = fid →
      i.s.crew? y.crew = some cr →
      ∃ u z d, Answers (.fragKill x) s w u 1 x.d (fun _ => 0) ∧ freed u ∧ u.mem = i.s.mem ∧ u.wave? b.wave = some z ∧
        u.crew? y.crew = some d ∧ d.cc = cr.cc ||| (engineOp i false x.b).setWidth 8 ∧ z.v = y.v ∧ z.s = y.s ∧
        ∀ m < y.lanes.length, (z.lane m).life = if m ∈ b.lanes then .exited else (y.lane m).life) ∧
    (∀ cur, Issues (.fragList x) s w →
      let i := issueOf (.fragList x) s w
      i.act ≠ [] → Calm i c → ((∃ r, x.d = .v r) ∨ ∃ r, x.d = .s r) → (engineOp i false x.a).setWidth 32 = cur →
      (cur.extractLsb' 16 7).toNat < 96 →
      let ours (n : Nat) : Prop := ((i.s.core (fidCore cur)).bivouac.getD n {}).state ≠ .free ∧
        ((i.s.core (fidCore cur)).bivouac.getD n {}).launch = c.launch
      (∀ n < 64, fidEntry cur ≤ n → ours n → (∀ m < n, fidEntry cur ≤ m → ¬ ours m) →
        Answers (.fragList x) s w (sent i (fidCore cur)) 2 x.d fun _ =>
          fragWord (fidOf (fidCore cur) n ((i.s.core (fidCore cur)).bivouac.getD n {}).gen) 0) ∧
      ((∀ n < 64, fidEntry cur ≤ n → ¬ ours n) → Answers (.fragList x) s w (sent i (fidCore cur)) 2 x.d fun _ => fragWord 0 1))

/-! ### System registers, clocks and draws (08 R238-R245, 03 R90-R92) -/

/-- sysr answers each acting lane what its register holds, and in a task without privilege takes PRIV for the privileged ones;
ST_HSCOUNT is read with acquire at device scope; fpcr and fpsr take what their rules let a write change; time and cycles answer
the clocks, or the lane's retired count in a deterministic task; rand answers for each element that it
writes the draw of the lane's own counter, which moves on, or of a stream and an index (R76, R77, R90-R92, R238-R240, R242-R244).  A trap instruction takes its trap 0x40 with DETAIL of the
immediate: its acting lanes park together in the core's lowest free bivouac entry.  snap raises the snapshot trigger in a
privileged task, or where SNAP_CTL.USER lets any: an armed trigger disarms and records its source and the time, and of two in one nanosecond
the lower source stands; elsewhere it takes PRIV (R242, R245, R262, R415).  The model's choices: one LNK_CTL for both sites
(log 26), and one set of SNAP_ and PWR_ registers for the module (log 32). -/
def Obligations.SystemRegistersTrapsAndClocks : Prop :=
   (∀ (s : State) (w : Wave) (c : Crew),
      let mine (j : Instr) : Prop := Issues j s w ∧ (issueOf j s w).s.crew? (issueOf j s w).w.crew = some c
      (∀ x : LI, mine (.sysr x) →
        let i := issueOf (.sysr x) s w
        let n := x.imm.toNat
        if readPriv n && !c.priv then ∃ e, exec (.sysr x) s = finishIssue i (instrWord (.sysr x)) e ∧ e.s = i.s ∧ e.vw = [] ∧
          e.sw = none ∧ e.traps = i.act.map fun l => { lane := l, code := 0x03 }
        else Completes (.sysr x) s w (blockOf i (.dense 1 1) (if Instr.parts.sysWide x.imm then 2 else 1) false false x.d fun l _ =>
          i.s.readReg i.w c l n)) ∧
      (∀ (t : State) (y : Wave) (l : Nat), let r (n : Nat) : DWord := t.readReg y c l n
        r 0x000 = BitVec.ofNat 64 l ∧ r 0x001 = BitVec.ofNat 64 y.num ∧ r 0x002 = BitVec.ofNat 64 c.slot ∧
        r 0x004 = (recGangId c.record).setWidth 64 ∧ r 0x005 = (recGrank c.record).setWidth 64 ∧ r 0x006 = recTindex c.record ∧
        r 0x007 = BitVec.ofNat 64 (y.core % 96) ∧ r 0x009 = BitVec.ofNat 64 (y.core / 96) ∧
        r 0x00A = y.fpcr.setWidth 64 ∧ r 0x00B = (y.lane l).fpsr.setWidth 64 ∧ r 0x00D = (y.lane l).pc.setWidth 64 ∧
        r 0x1003 = (y.lane l).retired ∧ r 0x2010 = (t.cluster (y.core / 8)).issue.setWidth 64 ∧
        r 0x3030 = (t.site (y.core / 96)).sched ∧ r 0x3060 = (t.site (y.core / 96)).neg.stat ∧
        r 0x3080 = (t.core y.core).poles.setWidth 64 ∧ r 0x4001 = (if t.pause then 1 else 0) ∧
        r 0x5000 = (t.opp.getD 0 0).setWidth 64 ∧ r 0x6001 = (t.site (y.core / 96)).tmrOffset ∧
        r 0x7003 = ((t.site (y.core / 96)).rasCnt.getD 3 0).setWidth 64 ∧ r 0x8002 = t.snapAt) ∧
      (∀ x : LI, mine (.hscountRead x) → (issueOf (.hscountRead x) s w).act ≠ [] →
        let i := issueOf (.hscountRead x) s w
        let e := blockOf i (.dense 1 1) 1 false false x.d fun _ _ => i.s.hsCount.setWidth 64
        ∃ u, Completes (.hscountRead x) s w { e with s := u } ∧ sameButCopies i.s u ∧
          u = { i.s with inflight := u.inflight, cores := u.cores, clusters := u.clusters, siteA := u.siteA, siteB := u.siteB } ∧
          (u.inflight = i.s.inflight.map fun y => if y.wave = i.w.key then { y with fenced := true } else y) ∧
          ∀ k < 3, u.copiesAt i.w.core k = []) ∧
      (∀ (x : LI) (v : DWord), Issues (.fpcrWrite x) s w →
        let i := issueOf (.fpcrWrite x) s w
        i.act ≠ [] → readOne i.w (i.act.headD 0) false x.a = .ok v →
        ∃ y, y = { i.w with fpcr := y.fpcr } ∧ Completes (.fpcrWrite x) s w { s := i.s.setWave y } ∧
          y.fpcr.extractLsb' 3 29 = (v.extractLsb' 3 6).setWidth 29 ∧
          y.fpcr.extractLsb' 0 3 = if (v.extractLsb' 0 3).toNat ≤ 4 then v.extractLsb' 0 3 else i.w.fpcr.extractLsb' 0 3) ∧
      (∀ (x : LI) (v : Nat → DWord), Issues (.fpsrWrite x) s w →
        let i := issueOf (.fpsrWrite x) s w
        i.act ≠ [] → (∀ l ∈ i.act, readOne i.w l false x.a = .ok (v l)) →
        Completes (.fpsrWrite x) s w { s := i.s.setWave (i.w.updLanes i.act fun l y =>
          { y with fpsr := ((v l).extractLsb' 0 5).setWidth 32 }) }) ∧
      (∀ x : LR, mine (.time x) → let i := issueOf (.time x) s w
        Completes (.time x) s w (blockOf i (.dense 1 1) 2 false false x.d fun l _ =>
          if recDet c.record then (i.w.lane l).retired else i.s.timer)) ∧
      (∀ x : LR, mine (.cycles x) → let i := issueOf (.cycles x) s w
        Completes (.cycles x) s w (blockOf i (.dense 1 1) 2 false false x.d fun l _ =>
          if recDet c.record then (i.w.lane l).retired else (i.s.cluster (i.w.core / 8)).cycles)) ∧
      (∀ (x : LE) (t : RandTy) (la : Launch), mine (.rand x t) →
        let i := issueOf (.rand x t) s w
        let e : Ext := .dense ((x.f10.extractLsb' 0 3).toNat + 1) ((x.f10.extractLsb' 3 3).toNat + 1)
        let sx := t = .i32 || t = .i64
        let draw (l : Nat) (stream : BitVec 16) (idx : Word) : DWord :=
          drawValue t (philox la.seed (drawCtr idx stream (32 * i.w.num + l) (recTindex c.record)))
        i.s.launch? c.launch = some la →
        (x.f10.getLsbD 7 = true → Completes (.rand x t) s w (blockOf i e t.regs sx false x.d fun l n =>
          draw l ((laneOp i l x.b).setWidth 16) (laneOp i l x.c + BitVec.ofNat 32 n))) ∧
        (x.f10.getLsbD 7 = false → Completes (.rand x t) s w (blockOf { i with s := i.s.setWave (i.w.updLanes i.act fun _ y =>
            { y with draws0 := y.draws0 + BitVec.ofNat 32 (e.count - i.first) }) } e t.regs sx false x.d fun l n =>
          draw l 0 ((i.w.lane l).draws0 + BitVec.ofNat 32 (n - i.first))))) ∧
      (∀ a : Ctr, drawValue .i32 a = a.c0.setWidth 64 ∧ drawValue .i64 a = a.c1 ++ a.c0 ∧
        (a.c0 = 0x80000000 → drawValue .f32 a = 0x3F000000))) ∧
   (∀ (s : State) (w : Wave) (c : Crew),
      (∀ (x : LI) (n : Nat), Issues (.trap x) s w →
        let i := issueOf (.trap x) s w
        i.act ≠ [] → i.s.crew? i.w.crew = some c → i.w.core < i.s.cores.length → i.w.lanes.length = 32 →
        (i.s.core i.w.core).bivouac.length = 64 → (i.s.core i.w.core).freeEntry = some n → i.w.parked = [] →
        ∃ t y b, exec (.trap x) s = .next t ∧ t.mem = i.s.mem ∧ t.wave? i.w.key = some y ∧ y.v = i.w.v ∧ y.s = i.w.s ∧
          (∀ l ∈ i.act, (y.lane l).life = .parked ∧ (y.lane l).pc = (i.w.lane l).pc) ∧
          (t.core i.w.core).bivouac[n]? = some b ∧ b.state = .waiting ∧ b.code = 0x40 ∧ b.detail = x.imm.extractLsb' 0 16 ∧
          b.lanes = i.act ∧ b.pc = i.pc ∧ b.launch = c.launch ∧ b.tindex = recTindex c.record ∧ b.wave = i.w.key ∧
          b.insn = instrWord (.trap x)) ∧
      (∀ x : LR, Issues (.snap x) s w →
        let i := issueOf (.snap x) s w
        let may := c.priv || i.s.snapCtl.getLsbD 1
        i.act ≠ [] → i.s.crew? i.w.crew = some c →
        (may = false → exec (.snap x) s = finishIssue i (instrWord (.snap x))
          { s := i.s, traps := i.act.map fun l => { lane := l, code := 0x03 } }) ∧
        let lower : State := { i.s with snapCtl := 1#16 ++ i.s.snapCtl.extractLsb' 0 16 }
        let same : Prop := i.s.snapAt = i.s.timer ∧ 1 < (i.s.snapCtl.extractLsb' 16 2).toNat
        (may = true → i.s.snapCtl.getLsbD 0 = false →
          (same → Completes (.snap x) s w { s := lower }) ∧ (¬ same → Completes (.snap x) s w { s := i.s })) ∧
        (may = true → i.s.snapCtl.getLsbD 0 = true → ∃ u, Completes (.snap x) s w { s := u } ∧ u.mem = i.s.mem ∧ u.waves = i.s.waves ∧
          u.crews = i.s.crews ∧ u.snapAt = i.s.timer ∧ u.snapCtl.getLsbD 0 = false ∧ u.snapCtl.extractLsb' 16 2 = 1 ∧
          u.snapCtl.extractLsb' 1 15 = i.s.snapCtl.extractLsb' 1 15 ∧
          ((i.s.site (i.w.core / 96)).rasCnt.getD 15 0).toNat ≤ ((u.site (i.w.core / 96)).rasCnt.getD 15 0).toNat)))

/-- sysw of a privileged task writes its register, here those that do no more than hold a value and those whose write is a
command; one without privilege takes PRIV, and a register keeps only its defined bits; stated where no access of the wave stands
before it (R240, R256, R301, R333, R338, R384, R401,
R402, R410, R415).  The model's choices: one set of SNAP_ and PWR_ registers for the module (log 32), and PRIV comes before the
operand is read (log 47). -/
def Obligations.SystemRegisterWrites : Prop :=
  ∀ (x : LI) (s : State) (w : Wave) (c : Crew) (v : DWord), Issues (.sysw x) s w →
    let i := issueOf (.sysw x) s w
    let n := x.imm.toNat
    let site := i.w.core / 96
    let a : Word := v.setWidth 32
    i.act ≠ [] → i.s.crew? i.w.crew = some c →
    (c.priv = false → ∃ e, exec (.sysw x) s = finishIssue i (instrWord (.sysw x)) e ∧ e.s = i.s ∧ e.vw = [] ∧
      e.traps = i.act.map fun l => { lane := l, code := 0x03 }) ∧
    (c.priv = true → Ready i c → readOne i.w (i.act.headD 0) (Instr.parts.sysWide x.imm) x.a = .ok v →
      let puts (u : State) : Prop := Completes (.sysw x) s w { s := u }
      (n = 0x2010 → ∃ u, puts u ∧ u = { i.s with clusters := u.clusters } ∧
        (∀ k, k ≠ i.w.core / 8 → u.cluster k = i.s.cluster k) ∧
        (i.w.core / 8 < i.s.clusters.length → u.cluster (i.w.core / 8) = { i.s.cluster (i.w.core / 8) with issue := a &&& 0xFF03 })) ∧
      (n = 0x2011 → ∃ u, puts u ∧ u = { i.s with clusters := u.clusters } ∧
        (∀ k, k ≠ i.w.core / 8 → u.cluster k = i.s.cluster k) ∧
        (i.w.core / 8 < i.s.clusters.length → u.cluster (i.w.core / 8) = { i.s.cluster (i.w.core / 8) with slope := a &&& 0xFF })) ∧
      (n = 0x3020 → puts (i.s.updSite site fun t => { t with tlbLaunch := a &&& 0xFFFF })) ∧
      (n = 0x3030 → puts (i.s.updSite site fun t => { t with sched := v })) ∧
      (n = 0x3032 → puts (i.s.updSite site fun t => { t with pool := a &&& 0xFFFFFF })) ∧
      (n = 0x3041 → puts (i.s.updSite site fun t => { t with meter := { t.meter with seed := v } })) ∧
      (n = 0x3042 → puts (i.s.updSite site fun t => { t with meter := { t.meter with epoch := v } })) ∧
      (n = 0x3061 → puts (if v.getLsbD 0 then
        i.s.updSite site fun t => { t with neg := { t.neg with clears := t.neg.counts, stat := 0 } } else i.s)) ∧
      (n = 0x4002 → puts (i.s.updSite site fun t => { t with lnkSel := a &&& 7 })) ∧
      (n = 0x5001 → i.s.opp.length = 4 → ∃ u, puts u ∧ u = { i.s with opp := u.opp } ∧
        (∀ k, k ≠ 1 → u.opp[k]? = i.s.opp[k]?) ∧
        let m := (v.extractLsb' 0 16).toNat
        u.opp[1]? = if 400 ≤ m ∧ m ≤ 1400 ∧ m % 25 = 0 then some (BitVec.ofNat 32 m) else i.s.opp[1]?) ∧
      (n = 0x7010 → ∃ u, puts u ∧ u.mem = i.s.mem ∧ u.site (1 - site) = (if site < 2 then i.s.site (1 - site) else u.site (1 - site)) ∧
        ∀ k, (u.site site).rasCnt[k]? = if a.getLsbD k then ((i.s.site site).rasCnt[k]?).map (fun _ => 0) else (i.s.site site).rasCnt[k]?) ∧
      (n = 0x8000 → ∃ u, puts u ∧ u = { i.s with snapCtl := u.snapCtl, snapFrom := i.s.timer } ∧ u.snapCtl.extractLsb' 16 2 = i.s.snapCtl.extractLsb' 16 2 ∧
        u.snapCtl.extractLsb' 8 8 = v.extractLsb' 8 8 ∧ u.snapCtl.extractLsb' 0 4 = v.extractLsb' 0 4 ∧
        u.snapCtl.extractLsb' 4 4 = 0 ∧ u.snapCtl.extractLsb' 18 14 = 0) ∧
      (n = 0x8001 → puts { i.s with snapTime := v, snapFrom := i.s.timer }) ∧ (n = 0x8003 → puts { i.s with snapSel := a }) ∧
      (n ∉ [0x3021, 0x3031, 0x3050] → puts (i.s.writeReg i.w n v)) ∧
      (n = 0x3021 → ∀ u, i.s.tlbinv (if v.getLsbD 8 then [0, 1] else [site]) (i.s.site site).tlbLaunch.toNat v = some u → puts u) ∧
      (n = 0x3031 → v.extractLsb' 0 2 = 0 → puts i.s) ∧
      (n = 0x3050 → ∀ u, i.s.writeScan site c.launch v = .next u → puts u))

/-! ### The steps of the units that a register write names -/

/-- The write of ST_TLBINV, with nothing of the launch to wait for, removes the launch's entries of the named pages, or all, on
the named sites (R301); the commands of ST_QCMD activate a queue whose descriptor is valid, open a closed or faulted one again
with its records, close it and remove a closed one (R326); ST_POOL takes the classes (R333); ST_NEGCLR clears what the counts have reached and ST_NEGSTAT (R380); RAS_CLR clears the
counters that it names (R410).  ST_METER's EN begins the sweeps and the count of tasks again and its clearing drops the partly
assembled task; a 1 in REJ clears the mark (R348, R353).  ST_SCAN with EN set takes the descriptor and the first boundary that is
far enough, and any write clears the counts (R354, R356).  LNK_CTL pauses and resumes the link and begins trainings with what
LNK_WMOD and LNK_WMAP ask, and drops the flits in flight; CLR clears a direction's counts, of the far end while the sideband is
up (R383-R386).  The model's choices: each of these writes is a step of its unit in the order of log 5, one PAUSE bit and one link state stand
for both sites (log 26), the stores into a queue's descriptor act at its home at once (log 31), EN clears the terms of motion
beside the credits and the sweep (log 41), and a retrain takes WREQ and WMAP as they stand (log 44). -/
def Obligations.RegisterWriteSteps : Prop :=
   (∀ (w : RegWrite) (s : State), w.site < 2 →
      let launch := (s.site w.site).tlbLaunch.toNat
      let sites := if w.value.getLsbD 8 then [0, 1] else [w.site]
      (s.inflight = [] → (∀ y ∈ s.waves, ∀ k < 9, ∀ p, y.pendingAt k = some p → p.loads = []) →
        (∀ x ∈ sites, s.engineHolds x launch w.value = false ∧ s.logHolds x launch w.value = false) →
        ∃ t, t = { s with siteA := t.siteA, siteB := t.siteB, held := [] } ∧
          exec (if w.value.getLsbD 9 then .tlbinvAll w else .tlbinvRange w) s = .next t ∧
          ∀ x < 2, t.site x = { s.site x with tlb := if x ∈ sites then (s.site x).tlb.filter fun e =>
              !(e.launch = launch && (w.value.getLsbD 9 || meet e.vpage e.pages (tlbinvPages w.value).1 (tlbinvPages w.value).2))
            else (s.site x).tlb }) ∧
      (∀ pa, s.qcmdPa w = some pa → s.badLines = [] → s.Canonical → (∀ y ∈ s.inflight, y.unit ≠ .scheduler) →
        let v := s.wordAt pa 64
        let at_ : Nat := if v.getLsbD 3 then 1 else 0
        let op := w.value.extractLsb' 0 2
        (s.linkOpen = true ∨ ∀ y, Config.homeSite pa = some y → (op = 1 → at_ = y) ∧ ∀ x q, s.queue? pa = some (x, q) → x = y) →
        (op = 1 → s.queue? pa = none → descReserved v = false → 2 ≤ (v.extractLsb' 32 5).toNat → (v.extractLsb' 32 5).toNat ≤ 20 →
          (∃ l, s.launch? (v.extractLsb' 48 16).toNat = some l ∧ l.closed = false) → (s.site at_).queues.length < Config.queueSlots →
          ∃ t, exec (.qcmdOpen w) s = .next t ∧ t.waves = s.waves ∧ (t.site at_).queues = (s.site at_).queues ++
              [{ desc := pa, state := .opened, owner := (v.extractLsb' 48 16).toNat, prio := (v.extractLsb' 0 2).toNat
                 log2cap := (v.extractLsb' 32 5).toNat, base := v.extractLsb' 448 64 }] ∧
            (t.homeByte pa).extractLsb' 6 2 = 1 ∧ (∀ k < 8, t.homeByte (pa + 48 + k) = 0) ∧
            ∀ a, a < pa ∨ pa + 64 ≤ a → t.homeByte a = s.homeByte a) ∧
        (∀ x q, op = 1 → s.queue? pa = some (x, q) → q.state ≠ .opened → descReserved v = false → 2 ≤ (v.extractLsb' 32 5).toNat →
          (v.extractLsb' 32 5).toNat ≤ 20 → (∃ l, s.launch? (v.extractLsb' 48 16).toNat = some l ∧ l.closed = false) →
          ((s.site at_).queues.filter fun y => y.desc ≠ pa).length < Config.queueSlots →
          ∃ t, exec (.qcmdOpen w) s = .next t ∧ t.waves = s.waves ∧
            (t.site at_).queues = ((s.site at_).queues.filter fun y => y.desc ≠ pa) ++
              [{ desc := pa, state := .opened, owner := (v.extractLsb' 48 16).toNat, prio := (v.extractLsb' 0 2).toNat
                 log2cap := (v.extractLsb' 32 5).toNat, base := v.extractLsb' 448 64, head := q.head, tail := q.tail
                 entries := q.entries, front := q.front }] ∧
            (t.site (1 - at_)).queues = ((s.site (1 - at_)).queues.filter fun y => y.desc ≠ pa) ∧
            (t.homeByte pa).extractLsb' 6 2 = 1 ∧
            (∀ k < 4, t.homeByte (pa + 48 + k) = q.head.extractLsb' (8 * k) 8 ∧
              t.homeByte (pa + 52 + k) = q.tail.extractLsb' (8 * k) 8) ∧
            ∀ a, a < pa ∨ pa + 64 ≤ a → t.homeByte a = s.homeByte a) ∧
        (∀ x q, s.queue? pa = some (x, q) → op = 2 → ∃ t, exec (.qcmdClose w) s = .next t ∧
          (t.site x).queues = (s.site x).queues.map (fun y => if y.desc = pa then { q with state := .closed } else y) ∧
          (t.homeByte pa).extractLsb' 6 2 = 2 ∧ ∀ a, a < pa ∨ pa + 64 ≤ a → t.homeByte a = s.homeByte a) ∧
        (∀ x q, s.queue? pa = some (x, q) → op = 3 → q.state ≠ .opened → ∃ t, exec (.qcmdRemove w) s = .next t ∧
          (t.site x).queues = (s.site x).queues.filter (fun y => y.desc ≠ pa) ∧
          (t.homeByte pa).extractLsb' 6 2 = 0 ∧ ∀ a, a < pa ∨ pa + 64 ≤ a → t.homeByte a = s.homeByte a)) ∧
      exec (.poolAssign w) s = .next (s.updSite w.site fun t => { t with pool := w.value.setWidth 32 &&& 0xFFFFFF }) ∧
      exec (.negstoreClear w) s = .next (if w.value.getLsbD 0 then
        s.updSite w.site fun t => { t with neg := { t.neg with clears := t.neg.counts, stat := 0 } } else s) ∧
      (∃ t, exec (.rasClr w) s = .next t ∧ t.mem = s.mem ∧ t.site (1 - w.site) = s.site (1 - w.site) ∧
        ∀ k < 32, (t.site w.site).rasCnt[k]? =
          if w.value.getLsbD k then ((s.site w.site).rasCnt[k]?).map (fun _ => 0) else (s.site w.site).rasCnt[k]?)) ∧
   (∀ (w : RegWrite) (s : State), w.site < 2 →
      let m := (s.site w.site).meter
      let v := w.value
      let becomes (j : Instr) (m' : Meter) : Prop :=
        ∃ t, exec j s = .next t ∧ t.mem = s.mem ∧ t.site (1 - w.site) = s.site (1 - w.site) ∧
          t.site w.site = { s.site w.site with meter := m' }
      (v.getLsbD 0 = true → m.en = false → becomes (.meterEnable w) { m with
        en := true, credit := [], tile := 0, sweep := 0, issued := 0, paced := s.elapsed, emitted := 0, motion := [], motion0 := []
        rej := m.rej && !v.getLsbD 1 }) ∧
      (v.getLsbD 0 = false → m.en = true → m.latest = none → becomes (.meterDisable w) { m with
        en := false, part := [], held := none, parked := false, rej := m.rej && !v.getLsbD 1 }) ∧
      (v.getLsbD 0 = true → v.getLsbD 1 = true → m.en = true → becomes (.meterRejClear w) { m with rej := false }) ∧
      (v.getLsbD 0 = false → v.getLsbD 1 = true → m.en = false → becomes (.meterRejClear w) { m with rej := false }) ∧
      (∀ (la pa : Nat),
        let c := (s.site w.site).scan
        let d := s.wordAt pa 64
        let c' : Scan := { c with reg := 0#12 ++ v.extractLsb' 6 46 ++ 0#5 ++ v.extractLsb' 0 1, launch := la, late := 0, skip := 0 }
        let now := s.timer.toNat
        let period := scanPeriod d
        la = (match (w.wave.bind s.wave?).bind fun y => s.crew? y.crew with
          | some c => c.launch
          | none => c.launch) →
        (v.getLsbD 0 = false → exec (.scanDisable w) s = .next (s.updScan w.site fun _ => c')) ∧
        (v.getLsbD 0 = true → c.reg.getLsbD 0 = false → s.inflight = [] →
          UnitMapped s w.site la (64 * (v.extractLsb' 6 46).toNat) 64 true { r := true } pa → 0 < period →
          ∃ n, exec (.scanEnable w) s = .next (s.updScan w.site fun _ => { c' with
              desc := d, on := true, first := true, band := 240, period := period, start := BitVec.ofNat 64 n }) ∧
            (scanStartAt d ≤ now + 1000 → now + 1000 ≤ n ∧ n < now + 1000 + period ∧ (n - scanStartAt d) % period = 0))) ∧
      (v.getLsbD 0 = true → v.extractLsb' 8 4 = 0 → exec (.linkPause w) s = .next { s with pause := true, held := [] }) ∧
      (v.getLsbD 0 = false → v.extractLsb' 8 4 = 0 →
        exec (.linkResume w) s = .next { s with pause := false, paused := false, held := [] }) ∧
      (v.extractLsb' 8 4 ≠ 0 → ∃ t, exec (.linkRetrain w) s = .next t ∧ t.linkState = .training ∧
        t.training = s.training ||| v.extractLsb' 8 4 ∧ t.pause = v.getLsbD 0 ∧ t.mem = s.mem ∧
        (t.flows = if s.linkState = .active then s.flows.map fun f => { f with transit := [] } else s.flows) ∧
        ∀ x < 2, ∀ k < (s.site x).link.length, ((t.site x).mod k) =
          if t.training.getLsbD k then { (s.site x).mod k with treq := ((s.site x).mod k).wreq, tmap := ((s.site x).mod k).wmap }
          else (s.site x).mod k) ∧
      (v.getLsbD 0 = true →
        let e := if (s.site w.site).lnkSel.getLsbD 2 then 1 - w.site else w.site
        let k := ((s.site w.site).lnkSel.extractLsb' 0 2).toNat
        (e ≠ w.site → s.sideband = false → exec (.linkClr w) s = .next s) ∧
        ((e ≠ w.site → s.sideband = true) → k < (s.site e).link.length → ∃ t, exec (.linkClr w) s = .next t ∧ t.mem = s.mem ∧
          (t.site e).mod k = { (s.site e).mod k with wreq := v.extractLsb' 12 2, retry := 0, wbad := 0 } ∧
          ∀ x n, x < 2 → x ≠ e ∨ n ≠ k → (t.site x).mod n = (s.site x).mod n)))


/-! ### What the memory units and the system controller do by themselves -/

/-- A pending result completes: its reads are performed, here on ordinary pages of the core's own site, and its words stand ready
(R45, R47).  A write is performed at its home and leaves the flight (R276).  The oldest write of the side log is performed once its
page is mapped; it waits while its launch's walk fails, and fails its launch where the page denies it (R304, R305).  A wave whose
lanes have exited and whose work is done retires; with the last of its crew the task completes, and its completion join is made
(R148, R229).  A frame with a poisoned line moves to its spare: its bytes and its poison, and every leaf that maps it (R405);
of several frames one retires after the other.  That the step names the spare, and which spare it may name, is the model's choice
(log entry 36).  Each of the five answers a
next state under the conditions on the state that stand before it, and the first clause says where they always do. -/
def Obligations.AccessesArePerformedAndWavesRetire : Prop :=
  (∀ s : State, (∀ key tag, ∃ t, exec (.tagResultComplete key tag) s = .next t) ∧
    (∀ idx sc, ∃ t, exec (.accessPerformed idx sc) s = .next t) ∧
    (∀ page spare more, ∃ t, exec (.frameRetire page spare more) s = .next t) ∧
    ∀ page spare p more, ∃ u, exec (.frameRetire page spare []) s = .next u ∧
      exec (.frameRetire page spare (p :: more)) s = exec (.frameRetire p.1 p.2 more) u) ∧
  (∀ (s : State) (key tag : Nat) (w : Wave) (c : Crew) (p : Pending), s.wave? key = some w → s.crew? w.crew = some c → tag < 8 →
    w.tags.length = 8 → w.tag tag = some p → p.engine = none → s.badLines = [] → (s.core w.core).sideLog = [] →
    (∀ x ∈ p.loads, x.toS = none ∧ x.acq = none ∧ x.atom = none ∧
      ∃ pa, x.place = .global pa .rc ∧ Config.homeSite pa = some (w.core / 96)) →
    (∀ k < 3, ∀ q ∈ s.copiesAt w.core k, q.2 = s.seen w.core q.1) →
    let bytes (x : LaneLoad) : List Byte := match x.place with
      | .global pa _ => (List.range x.bytes).map fun k => s.seen w.core (pa + k)
      | _ => []
    ∃ t y, exec (.tagResultComplete key tag) s = .next t ∧ t.mem = s.mem ∧ t.inflight = s.inflight ∧ t.wave? key = some y ∧
      y = { w with tags := y.tags } ∧ y.tag tag = some { p with loads := [], vw := p.vw ++ p.loads.flatMap fun x => x.words (bytes x) } ∧
      ∀ k, k ≠ tag → y.tag k = w.tag k) ∧
  (∀ (s : State) (idx : Nat) (x : Inflight), s.inflight[idx]? = some x → s.Canonical → s.badLines = [] →
    Config.homeSite x.pa = some (x.core / 96) → (s.inflight.map fun y => y.id).Nodup →
    (∀ y ∈ s.inflight, y.pkt = none ∧ (y.id ≠ x.id → y.touches x.pa x.data.length = false)) →
    ∃ t, exec (.accessPerformed idx .device) s = .next t ∧ t.inflight = s.inflight.filter (fun y => y.id ≠ x.id) ∧
      t.waves = s.waves ∧ ∀ a, t.homeByte a = if x.covers a then x.data.getD (a - x.pa) 0 else s.homeByte a) ∧
  (∀ (s : State) (core key : Nat) (e : LogEntry), s.oldestEntries core key = [e] →
    (s.tlb? (core / 96) e.launch e.va.toNat = none →
      (∀ la, s.launch? e.launch = some la → ∃ lvl cause, walkFrom s e.va.toNat 3 la.root = .fail lvl cause) →
      exec (.sideLogReplay core key) s = .next s) ∧
    (∀ (u : TlbEntry) (pa : Nat) (kind : PKind), core < s.cores.length → s.tlb? (core / 96) e.launch e.va.toNat = some u →
      s.xlatOf u e.va.toNat = .ok pa kind u.leaf →
      (∀ la, denies u.leaf e.priv { r := e.op != .store, w := true } = true → s.launch? e.launch = some la → la.failed = false →
        ∃ t lb, exec (.sideLogReplay core key) s = .next t ∧ t.mem = s.mem ∧ t.launch? e.launch = some lb ∧ lb.failed = true ∧
          (t.core core).sideLog = (s.core core).sideLog.erase e) ∧
      (∀ w, denies u.leaf e.priv { w := true } = false → e.op = .store → e.give = false → e.bytes = e.data.length → e.ord = 0 → u.dirty = true →
        (kind = .rc ∨ kind = .uo) → isMemory pa = true → s.wave? key = some w →
        (∀ k < 9, ∀ p, w.pendingAt k = some p → p.loads = []) →
        ∃ t, exec (.sideLogReplay core key) s = .next t ∧ t.mem = s.mem ∧
          (t.core core).sideLog = (s.core core).sideLog.erase e ∧
          ∀ a, t.seen core a = if pa ≤ a ∧ a < pa + e.data.length then e.data.getD (a - pa) 0 else s.seen core a))) ∧
  (∀ (s : State) (key : Nat) (w : Wave) (c : Crew), s.wave? key = some w → s.crew? w.crew = some c → s.mayRetire w = true →
    w.direct = none → (∀ t ∈ w.tags, t = none) → s.inflight = [] → s.flows = [] →
    let gone (t : State) : Prop := t.mem = s.mem ∧ t.waves = s.waves.filter fun y => y.key ≠ key
    ((∃ y ∈ s.waves, y.key ≠ key ∧ y.crew = c.key) → ∃ t, exec (.waveRetire key) s = .next t ∧ gone t ∧ t.crews = s.crews) ∧
    ((∀ y ∈ s.waves, y.crew = c.key → y.key = key) → ∃ u, gone u ∧ u.crews = s.crews.filter (fun d => d.key ≠ c.key) ∧
      (recJoin c.record = 0 → exec (.waveRetire key) s = .next u) ∧
      (recJoin c.record ≠ 0 → exec (.waveRetire key) s =
        u.runJoin ⟨c.launch, c.priv, recTindex c.record, c.core, recJoin c.record, c.cc⟩))) ∧
  (∀ (s : State) (page spare base dst n : Nat), s.Canonical → s.frameOf s.tables.2 page = (base, n) →
    dst = 4096 * spare / n * n → s.nowAt (4096 * page) = 4096 * page → s.rangeBad base n = true → s.spareOk base dst n = true →
    let mine := s.tables.2.filter fun q => base ≤ s.nowAt (entryPa q.2.2) && s.nowAt (entryPa q.2.2) < base + n
    let at_ (q : Nat × Nat × DWord) : Nat := movedTo base dst n (s.nowAt q.1)
    (∀ q ∈ mine, ∀ r ∈ mine, q ≠ r → at_ q + 8 ≤ at_ r ∨ at_ r + 8 ≤ at_ q) →
    ∃ t, exec (.frameRetire page spare []) s = .next t ∧
      t.retired = s.retired ++ ((List.range (n / 4096)).map fun k => (base / 4096 + k, dst / 4096 + k)) ∧
      (∀ a, (∀ q ∈ mine, a < at_ q ∨ at_ q + 8 ≤ a) →
        t.homeByte a = if dst ≤ a ∧ a < dst + n then s.homeByte (base + (a - dst)) else s.homeByte a) ∧
      (∀ q ∈ mine, t.homeWord (at_ q) = q.2.2.extractLsb' 48 16 ++
        BitVec.ofNat 36 ((s.nowAt (entryPa q.2.2) - base + dst) / 4096) ++ q.2.2.extractLsb' 0 12) ∧
      (∀ k < n, t.lineBad (dst + k) = s.lineBad (base + k)) ∧
      ∀ x < 2, ∀ u ∈ (t.site x).tlb, ¬ (base ≤ s.nowAt (entryPa u.leaf) ∧ s.nowAt (entryPa u.leaf) < base + n))

/-- The system controller's answers to a fragment that waits for a page: with no change, or with entries that map the page, the
lanes leave the entry to rejoin, unless they wait for room in a full side log; a refusal makes the fragment wait for its record
with the refusal's code (R265, R302, R416).  Resumed lanes become live at a latch-loss point (R269).  A waiting fragment of a launch
without a handler is killed with its code; with one, its record stands in the ring slot and its handler's record is offered; a
handler's own fault fails the launch at once (R232, R233, R237, R267).  That an answer which does not serve the request has no
effect is the model's choice (log entry 34). -/
def Obligations.FaultsAreServed : Prop :=
  ∀ (s : State) (core e : Nat) (b : Bivouac), (s.core core).bivouac.getD e {} = b →
    core < s.cores.length → e < (s.core core).bivouac.length →
    (∀ a, b.state = .controller → s.pageAsk (.frag core e) = some a →
      let valid := a.vas.all (s.valid a.launch)
      let svc (ans : PageAns) : Instr := .pageFaultService (.frag core e) ans
      let room : Prop := ∀ x, a.room = some x → s.logRoom x = true
      (valid = true → ¬ room → exec (svc .noChange) s = .next s) ∧
      (valid = true → room →
        exec (svc .noChange) s = .next (State.resume { s with held := [] } core e none)) ∧
      (valid = false → room → ∀ entries t, State.mapPages { s with held := [] } a entries = some t →
        exec (svc (.map entries)) s = .next (t.resume core e none)) ∧
      (valid = false → ∃ t, exec (svc .refuseProtect) s = .next t ∧ t.waves = s.waves ∧ t.mem = s.mem ∧
        (t.core core).bivouac.getD e {} = { b with state := .waiting, code := 0x06, detail := 2, order := s.nextId }) ∧
      (valid = false → ∃ t, exec (svc .refusePage) s = .next t ∧ t.waves = s.waves ∧ t.mem = s.mem ∧
        (t.core core).bivouac.getD e {} = { b with state := .waiting, code := 0x05, detail := b.detail, order := s.nextId })) ∧
    (∀ (w : Wave), s.wave? b.wave = some w → (∀ z ∈ s.waves, z.parked = []) →
      let t := s.resume core e none
      (t.core core).bivouac.getD e {} = { gen := b.gen + 1 } ∧ ∃ y, t.wave? b.wave = some y ∧
        y.rejoins = w.rejoins ++ [{ lanes := b.lanes, latches := b.latches, elem := b.elem, live := false }]) ∧
    (∀ (key : Nat) (w : Wave), s.wave? key = some w → w.chain = false →
      ∃ y, exec (.fragmentRejoin key) s = .next { s.setWave y with held := [] } ∧ y = { w with lanes := y.lanes, rejoins := y.rejoins } ∧
        y.rejoins = w.rejoins.map (fun g => { g with live := true }) ∧
        ∀ l < w.lanes.length, y.lane l = if w.rejoins.any (fun g => !g.live && g.lanes.contains l) then
          { w.lane l with life := .live } else w.lane l) ∧
    (∀ (la : Launch) (w : Wave) (cr : Crew), s.launch? b.launch = some la → la.failed = false → b.state = .waiting →
      s.wave? b.wave = some w → s.crew? w.crew = some cr →
      (∀ z ∈ s.waves, z.parked = []) →
      (b.tindex.getLsbD 63 = true → ∃ t lb, exec (.faultRecordDelivery core e) s = .next t ∧ t.launch? b.launch = some lb ∧
        lb.failed = true ∧ t.cores = s.cores) ∧
      (b.tindex.getLsbD 63 = false → s.oldestWaiting core b = false → exec (.faultRecordDelivery core e) s = .next s) ∧
      (b.tindex.getLsbD 63 = false → s.oldestWaiting core b = true → s.recordAsked core e b = false → la.hand = false → ∃ t y d, exec (.faultRecordDelivery core e) s = .next t ∧
        (t.core core).bivouac.getD e {} = { gen := b.gen + 1 } ∧ t.wave? b.wave = some y ∧ t.crew? w.crew = some d ∧
        d.cc = cr.cc ||| b.code ∧ ∀ l < w.lanes.length, (y.lane l).life = if l ∈ b.lanes then .exited else (w.lane l).life) ∧
      (∀ slot rest pa hq, b.tindex.getLsbD 63 = false → s.oldestWaiting core b = true → s.recordAsked core e b = false → la.hand = true →
        lowestFree la.slots la.rslots 1 = slot :: rest →
        s.Canonical → s.inflight = [] → s.snapCtl = 0 → s.linkOpen = true →
        UnitMapped s (core / 96) la.num (la.ring + 64 * slot) 64 true { w := true } pa →
        UnitMapped s (core / 96) la.num la.hq 64 true { r := true } hq →
        let fid := fidOf core e b.gen
        let o : Offer := ⟨la.num, core, hq, BitVec.ofNat 64 la.hq, handlerRecord la cr.record slot (la.ring + 64 * slot) fid,
          .handler core e b.gen slot⟩
        ∃ u : State, exec (.faultRecordDelivery core e) s = u.offer o ∧ u.waves = s.waves ∧
          u.siteA = { s.siteA with rlc := u.siteA.rlc } ∧ u.siteB = { s.siteB with rlc := u.siteB.rlc } ∧
          (u.core core).bivouac.getD e {} = { b with state := .delivered, ring := some slot } ∧
          (∀ a, u.homeByte a = if pa ≤ a ∧ a < pa + 64 then (faultRecord core e b).extractLsb' (8 * (a - pa)) 8 else s.homeByte a) ∧
          (∀ x q, s.queue? hq = some (x, q) → q.state = .opened → q.full = true →
            u.offer o = .next { u.pushPacket core hq with offers := s.offers ++ [o] })))


/-! ### What the engines do by themselves (07 R190, R195, R206-R216, 16 R361-R376) -/

/-- A free tile is granted to the first request (R190).  A chunk of a step over its crew's scratchpad, dense or sparse, in every
format, adds to each element of the tile the exact sum of its products, rounded once, or in f32 and f64 runs the fused chain, and the
step ends with its last chunk (R85-R88, R193, R195, R311).  A copy writes each element of its runs once, converted with one rounding,
and lands its flags; it fills its buffer's slot; from and to global memory it moves the bytes of its pages; a band gather writes the
records that its mask and age select, newest first, and counts them (R206, R207, R211, R379).  A copy that waits claims the fill
slot; a port with room takes a held push, and its lane goes on (R213).  That a pruned position has no product whatever stands in B
is the model's choice (log entry 72). -/
def Obligations.EnginesAct : Prop :=
  ∀ (k : Nat) (s : State), k < s.clusters.length →
    let cl := s.cluster k
    let completes (idx : Nat) (y : Copy) (w : Wave) (c : Crew) (status : Word) (P : State → Prop) : Prop :=
      cl.copies[idx]? = some y → s.wave? y.wave = some w → s.crew? w.crew = some c → y.crew = c.key → y.tmpl.be = false →
      c.badLines = [] → SMap.wf c.scratch = true → c.cluster = k →
      ∃ u z, exec (.copyComplete k idx) s = .next u ∧ u.mem = s.mem ∧
        (u.cluster k).copies = cl.copies.filter (fun x => x.id ≠ y.id) ∧ u.wave? y.wave = some z ∧
        z.tags = w.tags.map (fun p => p.map fun p => if p.engine = some y.id then p.ready status else p) ∧ P u
    (∀ (q : TileReq) (rs : List TileReq) t, cl.tileReqs = q :: rs → q.tile = none → cl.freeTile = some t → (∀ r ∈ rs, r.wave ≠ q.wave) →
      ∃ u, exec (.tileGrant k) s = .next u ∧ u = { s with clusters := u.clusters, held := [] } ∧
        (∀ j, j ≠ k → u.cluster j = s.cluster j) ∧ u.cluster k = { cl with tileReqs := { q with tile := some t } :: rs } ∧
        (cl.tiles.getD t {}).owner = none) ∧
    (∀ (idx : Nat) (m : MStep) (w : Wave) (c : Crew), cl.steps[idx]? = some m → s.stepRuns k m = true →
      s.wave? m.wave = some w → s.crew? w.crew = some c → m.crew = c.key → (∀ v ∈ cl.moves, v.tile ≠ m.tile) →
      cl.tiles.length = 64 → m.tile < 64 → (s.tile k m.tile).aborted = false → m.n ≤ 128 → m.batch = none →
      m.sparse ∈ [0, 2, 4, 8] → m.aSp = true → m.bSp = true → c.badLines = [] →
      ∃ u m', exec (.mmaChunkApply k idx) s = .next u ∧ u.mem = s.mem ∧ u.waves = s.waves ∧
        (u.cluster k).steps = cl.steps.map (fun x => if x.order = m.order then m' else x) ∧
        m' = { m with chunk := m.chunk + 1, state := if m.k ≤ m.fmt.terms * (m.chunk + 1) then .done else .queued } ∧
        (∀ t, t ≠ m.tile → u.tile k t = s.tile k t) ∧ (u.tile k m.tile).poison = (s.tile k m.tile).poison ∧
        ∀ i < m.m, ∀ j < m.n,
          let new := chunkGives (SMap.get c.scratch) m (SMap.get (s.tile k m.tile).elems (128 * i + j)).toNat i j
          SMap.get (u.tile k m.tile).elems (128 * i + j) = BitVec.ofNat 64 new.bits ∧
            (u.tile k m.tile).summary &&& new.flags = new.flags) ∧
    (∀ (acc : Nat) (d : Dyad) (iv neg : Bool),
      addChunk acc (.nan iv) = ⟨0x7FC00000, if iv then flIV else 0⟩ ∧
      (d.m = 0 → addChunk acc (.fin d) = ⟨acc, 0⟩) ∧
      (d.m ≠ 0 → (fF32.unpack acc).isNan = false → (fF32.unpack acc).isInf = false →
        addChunk acc (.fin d) = fF32.roundDyad .rne ((fF32.unpack acc).dyad.add d) false) ∧
      ((fF32.unpack acc).isNan = false → (fF32.unpack acc).isInf = false →
        addChunk acc (.inf neg) = ⟨fF32.signBit neg + fF32.infBits, 0⟩)) ∧
    (∀ (ps : List ((Bool × Nat × Int) × (Bool × Nat × Int))) (E : Int), E ≤ 0 → (∀ p ∈ ps, E ≤ p.1.2.2 + p.2.2.2) →
      ∃ x : Dyad, chunkSum (ps.map fun p => (.fin p.1.1 p.1.2.1 p.1.2.2, .fin p.2.1 p.2.2.1 p.2.2.2)) = .fin x ∧ E ≤ x.e ∧
        x.m * 2 ^ (x.e - E).toNat =
          (ps.map fun p => signed p.1.1 p.1.2.1 * signed p.2.1 p.2.2.1 * 2 ^ (p.1.2.2 + p.2.2.2 - E).toNat).sum) ∧
    (∀ (idx : Nat) (y : Copy) (w : Wave) (c : Crew),
      let t := y.tmpl
      let rs := t.runs y.index
      let src (r : Option Int × Int) : Nat := ((y.src : Int) + r.1.getD 0).toNat
      let dst (r : Option Int × Int) : Nat := ((y.dstBase : Int) + r.2).toNat
      let sb := t.srcBits / 8
      let db := t.dstBits / 8
      let gives (r : Option Int × Int) (e : Nat) : Res := y.convert (readNum (SMap.get c.scratch) (src r + sb * e) sb)
      let fl : Flags := rs.foldl (fun f r => (List.range t.count0).foldl (fun f e => f ||| (gives r e).flags) f) 0
      t.kind ≠ 2 → t.srcSp = true → t.dstSp = true → y.gather = none → y.pages = [] → t.srcBits % 8 = 0 → t.dstBits % 8 = 0 →
      (∀ r ∈ rs, r.1 ≠ none ∧ 0 ≤ (y.src : Int) + r.1.getD 0 ∧ 0 ≤ (y.dstBase : Int) + r.2 ∧
        ∀ q ∈ rs, src r + t.srcRun ≤ dst q ∨ dst q + t.dstRun ≤ src r) →
      rs.Pairwise (fun r q => dst r + t.dstRun ≤ dst q ∨ dst q + t.dstRun ≤ dst r) →
      y.old = rs.map (fun r => s.engineScratch c.key (src r) t.srcRun) →
      (∀ off, y.cbuf = some off → y.slot ≠ none ∧ (c.cbufAt off).isSome ∧ s.takers c.key off = [] ∧
        ∀ r ∈ rs, off + 16 ≤ dst r ∨ dst r + t.dstRun ≤ off) →
      completes idx y w c (statusWord 0 (fl.setWidth 24)) fun u =>
        ∃ d, u.crew? c.key = some d ∧ d = { c with scratch := d.scratch } ∧
          (∀ r ∈ rs, ∀ e < t.count0, readNum (SMap.get d.scratch) (dst r + db * e) db = (gives r e).bits) ∧
          (∀ a, (∀ r ∈ rs, a < dst r ∨ dst r + t.dstRun ≤ a) →
            (∀ off, y.cbuf = some off → a < off ∨ off + 16 ≤ a) → SMap.get d.scratch a = SMap.get c.scratch a) ∧
          ∀ off, y.cbuf = some off → let b := c.barWord off
            d.barWord off = cbufObj b.base b.size b.num b.fill b.take b.free (b.full + 1)) ∧
    (∀ (idx : Nat) (y : Copy) (w : Wave) (c : Crew) (pb : Nat),
      let n := y.tmpl.count0 * y.tmpl.elem
      let far (a : Nat) : Prop := y.pages = [(a / 4096, pb, .rc)] ∧ a % 4096 + n ≤ 4096 ∧
        ∀ j < 4096, Config.homeSite (pb + j) = some (w.core / 96)
      y.tmpl.raw = true → y.tmpl.dstt = 31 → y.tmpl.kind = 0 → y.tmpl.n1 = 1 → y.tmpl.n2 = 1 → y.cbuf = none → y.slot = none →
      y.gather = none →
      (y.tmpl.srcSp = false → y.tmpl.dstSp = true → far y.src → EngineSees s w.core →
        y.old = [(List.range n).map fun j => (s.homeByte (pb + y.src % 4096 + j), false)] →
        completes idx y w c 0 fun u => ∃ d, u.crew? c.key = some d ∧ d = { c with scratch := d.scratch } ∧
          ∀ a, SMap.get d.scratch a =
            if y.dst ≤ a ∧ a < y.dst + n then s.homeByte (pb + y.src % 4096 + (a - y.dst)) else SMap.get c.scratch a) ∧
      (y.tmpl.srcSp = true → y.tmpl.dstSp = false → far y.dst → y.old = [s.engineScratch c.key y.src n] →
        completes idx y w c 0 fun u => u.crew? c.key = some c ∧
          ∀ a, u.seen w.core a =
            if pb + y.dst % 4096 ≤ a ∧ a < pb + y.dst % 4096 + n then SMap.get c.scratch (y.src + (a - (pb + y.dst % 4096)))
            else s.seen w.core a)) ∧
    (∀ (idx : Nat) (y : Copy) (w : Wave) (c : Crew) (m low : Nat) (now : Word) (rs : List (BitVec 256)),
      y.tmpl.kind = 2 → y.tmpl.dstSp = true → y.cbuf = none → y.slot = none → y.pages = [] → y.gather = some (m, low, now) →
      (s.gather (w.core / 96) y.tmpl.band y.tmpl.mask y.tmpl.age y.tmpl.count0 m low now).1 =
        rs.map (fun r => (toBytes r 32).map fun b => (b, false)) →
      completes idx y w c (statusWord 0 (BitVec.ofNat 24 rs.length)) fun u =>
        ∃ d, u.crew? c.key = some d ∧ d = { c with scratch := d.scratch } ∧
          (∀ a, a < y.dst ∨ y.dst + 32 * rs.length ≤ a → SMap.get d.scratch a = SMap.get c.scratch a) ∧
          ∀ j r, rs[j]? = some r → readNum (SMap.get d.scratch) (y.dst + 32 * j) 32 = r.toNat) ∧
    (∀ (site band limit m low : Nat) (mask : BitVec 8) (age now : Word) (rs : List NegRec),
      ((s.site site).neg.rings.filter fun r => r.1 = band && max low (m - 65536) ≤ r.2.order && r.2.order < m) = rs.map (fun r => (band, r)) →
      rs.Pairwise (fun r q => r.order < q.order) →
      (∀ r ∈ rs, r.visible = true ∧ (SMap.get (s.site site).neg.clears band).toNat ≤ r.order) → s.badLines = [] →
      (s.gather site band mask age limit m low now).1 =
        (((rs.reverse.map NegRec.words).filter fun r => r.extractLsb' 216 8 &&& mask ≠ 0 ∧
          (now - r.extractLsb' 64 32).toInt ≤ age.toNat).take limit).map fun r => (toBytes r 32).map fun b => (b, false)) ∧
    (∀ (idx : Nat) (y : Copy) (c : Crew) (off : Nat), cl.copies[idx]? = some y → s.mayClaim k y = true → y.cbuf = some off →
      s.crew? y.crew = some c → SMap.wf c.scratch = true →
      let b := c.barWord off
      0 < b.num →
      ∃ u d, exec (.cbufSlotClaim k idx) s = .next u ∧ u.mem = s.mem ∧ u.waves = s.waves ∧ u.crew? c.key = some d ∧
        d.barWord off = cbufObj b.base b.size b.num ((b.fill + 1) % b.num) b.take (b.free - 1) b.full ∧
        (u.cluster k).copies = cl.copies.map fun z => if z.id = y.id then { y with slot := some (b.base + b.fill * b.size) } else z) ∧
    (∀ (key pair l : Nat) (w : Wave) (q : Push), s.wave? key = some w → w.ports.length = 4 → pair < 4 →
      ((w.port pair).held.find? fun x => x.lane = l) = some q → (w.port pair).inFlight l < 8 → (w.port pair).ready l < 8 →
      ∃ u y, exec (.portTakePush key pair l) s = .next u ∧ u = { s with waves := u.waves, held := [] } ∧ u.wave? key = some y ∧
        y.port pair = { w.port pair with held := (w.port pair).held.erase q, flight := (w.port pair).flight ++ [q] } ∧
        (l < w.lanes.length → (y.lane l).block = .none) ∧ y.v = w.v)

/-- A port of the graphics engines ends a lane's oldest push with its out records, in traversal order: a record that is not valid
answers one of its own type, an empty range or tree misses.  Of the triangles in the leaves of the root, or of the inner node that it
leads to, a ray takes the nearest that it meets, an any-hit ray the first, at its exact parameters rounded once; a probe takes the
triangle visible at its pixel; a query within a radius gives its matches in traversal order, up to its limit, and a record of the
count.  A march that misses its grid ends at once with full transmittance; one that meets it begins in the brick of its entry, draws
its optical depth over the brick's majorant, and ends at the collision or at the end of its range (R213-R216, R362-R371, R374-R376).
Stated for records that the reads below supply and no race. -/
def Obligations.PortEnginesAnswer : Prop :=
  ∀ (key pair l code : Nat) (s : State) (w : Wave) (c : Crew) (q : Push), s.wave? key = some w → s.crew? w.crew = some c →
    w.ports.length = 4 → pair < 4 → w.running pair l code = some q → s.sincePush q = true → (w.lane l).block = .none →
    w.marchTurn q = true →
    let g : Agent := { agentOf w c with unit := portUnit code }
    let src : Source := ⟨g, q.refused⟩
    let same (t : State) : Prop := t.mem = s.mem ∧ t.waves = s.waves ∧ t.launches = s.launches
    let reads (a : State) (va n idx : Nat) (b : State) (ws : List Word) : Prop := a.record src va n idx = (b, .ok ws) ∧ same b
    let word (n : Nat) : Word := q.words.getD n 0
    let d : Bvh := q.desc
    let ends (j : Instr) (recs : List (List Word) → Prop) : Prop :=
      ∃ u y rs, exec j s = .next u ∧ recs rs ∧ u.mem = s.mem ∧ u.wave? key = some y ∧ y = { w with ports := y.ports, lanes := y.lanes } ∧
        y.port pair = { w.port pair with flight := (w.port pair).flight.erase q,
                                         outs := (w.port pair).outs ++ rs.map fun r => { lane := q.lane, words := r } } ∧
        (code = 5 → l < w.lanes.length → (y.lane l).draws1 = (w.lane l).draws1 + ((rs.headD []).headD 0) >>> 8) ∧
        ∀ n, n ≠ pair → y.port n = w.port n
    let ray : Instr := if code = 1 then .rangefinderClosestHit key pair l else .rangefinderAnyHit key pair l
    (code = 1 ∨ code = 2 →
      (Bvh.good d 0 = false → ends ray fun rs => rs = [badRecord]) ∧
      (∀ o v tmin tmax, v3Of q.words 0 = some o → v3Of q.words 4 = some v → fF32.er (word 3).toNat = some tmin →
        fF32.er (word 7).toNat = some tmax → Bvh.good d 0 = true → (v.x.isZero && v.y.isZero && v.z.isZero) = false →
        tmin.lt (.fin Q.zero) = false → (word 8).toNat < 1024 →
        (tmax.lt tmin = true → ends ray fun rs => rs = [missRecord]) ∧
        (tmax.lt tmin = false → d.root < d.noden → ∀ idx t0 ws cs,
          (idx = d.root ∧ reads s (d.nodes + 128 * d.root) 128 d.root t0 ws) ∨
          (∃ t1 ws1 cs1 dist ch, reads s (d.nodes + 128 * d.root) 128 d.root t1 ws1 ∧ nodeChildren d ws1 true = some cs1 ∧
            hitKids tmin tmax ⟨none, o, v⟩ d.root cs1 = [⟨dist, ch, d.root⟩] ∧ ch.ty = 1 ∧ idx = ch.start ∧ idx < d.noden ∧
            reads t1 (d.nodes + 128 * idx) 128 idx t0 ws) →
          nodeChildren d ws true = some cs → (∀ ch ∈ cs, ch.ty = 2) →
          let ks := (hitKids tmin tmax ⟨none, o, v⟩ idx cs).flatMap fun x => (List.range x.c.count).map fun n => x.c.start + n
          ∀ (st : Nat → State) (tw : Nat → List Word), st 0 = t0 →
            (∀ n k, ks[n]? = some k → reads (st n) (d.prims + 48 * k) 48 k (st (n + 1)) (tw k)) →
            ends ray fun rs => rs = [rayRecord (bestHit (code = 2) tmin tmax (fun k => triangleHit (tw k) (word 8) o v) ks)]))) ∧
    (∀ (tmin tcur d1 d2 : ER) (lv : Level) (n : Nat) (a b : Child), slab tmin tcur lv a = some d1 → slab tmin tcur lv b = some d2 →
      hitKids tmin tcur lv n [a, b] = if d1.le d2 then [⟨d1, a, n⟩, ⟨d2, b, n⟩] else [⟨d2, b, n⟩, ⟨d1, a, n⟩]) ∧
    (code = 3 →
      let j : Instr := .rangefinderRasterProbe key pair l
      let px := ((word 0).extractLsb' 0 16).toNat
      let py := ((word 0).extractLsb' 16 16).toNat
      let bin := py / 64 * ((d.width + 63) / 64) + px / 64
      (d.goodBins = false → ends j fun rs => rs = [badRecord]) ∧
      (d.goodBins = true → word 1 = 0 → (∀ x ∈ q.words.drop 2, x = 0) →
        (d.width ≤ px ∨ d.height ≤ py → ends j fun rs => rs = [missRecord]) ∧
        (px < d.width → py < d.height → ∀ t0 ws, reads s (d.bins + 8 * bin) 8 bin t0 ws →
          (ws.getD 1 0 = 0 → ends j fun rs => rs = [missRecord]) ∧
          (ws.getD 1 0 = 1 → ∀ t1 lw m t2 tw a b e z, reads t0 (d.list + 4 * (ws.getD 0 0).toNat) 4 (ws.getD 0 0).toNat t1 lw →
            (lw.getD 0 0).toNat = m → m < d.trin →
            reads t1 (d.tris + 48 * m) 48 m t2 tw → v3Of tw 0 = some a → v3Of tw 3 = some b →
            v3Of tw 6 = some e → v3Of tw 9 = some z → STri.covers ⟨m, [a, b, e], z⟩ (pixelAt px) (pixelAt py) = true →
            ends j fun rs => ∃ r, rs = [r] ∧ r.getD 0 0 = 2 ∧ r.getD 2 0 = BitVec.ofNat 32 m ∧ r.getD 3 0 = 0xFFFFFFFF ∧ r.getD 6 0 = 1)))) ∧
    (code = 4 →
      let j : Instr := .rangefinderTreeQuery key pair l
      (∀ x y z r, fF32.er (word 1).toNat = some x → fF32.er (word 2).toNat = some y → fF32.er (word 3).toNat = some z →
        fF32.er (word 4).toNat = some r →
        (Bvh.good d 1 = false → ends j fun rs => rs = [badRecord]) ∧
        (∀ p, Bvh.good d 1 = true → word 0 = 0 → word 6 = 0 → word 7 = 0 → word 8 = 0 → r.lt (.fin Q.zero) = false →
          v3Of q.words 1 = some p → d.root < d.noden → ∀ t0 ws cs,
          reads s (d.nodes + 128 * d.root) 128 d.root t0 ws → nodeChildren d ws false = some cs → (∀ ch ∈ cs, ch.ty = 2) →
          let ks := (cs.filter fun ch => ch.boxOk && (boxDist [x, y, z] ch).le r.sq).flatMap fun ch =>
            (List.range ch.count).map fun n => ch.start + n
          ∀ (st : Nat → State) (iw : Nat → List Word) (at_ : Nat → V3), st 0 = t0 →
            (∀ n k, ks[n]? = some k → reads (st n) (d.prims + 16 * k) 16 k (st (n + 1)) (iw k) ∧ v3Of (iw k) 0 = some (at_ k)) →
            let e (k : Nat) : V3 := (at_ k).sub p
            let found := ks.filter fun k => (ER.fin ((e k).dot (e k))).le r.sq
            let limit := (word 5).toNat
            let out := if limit = 0 then found else found.take limit
            ends j fun rs => rs.length = out.length + 1 ∧
              rs.getD out.length [] = doneRecord out.length (decide (out.length < found.length)) ∧
              ∀ (n k : Nat), out[n]? = some k → rs[n]? = some [5, BitVec.ofNat 32 (((e k).dot (e k)).round .rne fF32), (iw k).getD 3 0, 0, 0, 0, 0, 0]))) ∧
    (code = 5 →
      let j : Instr := .hazeMarch key pair l
      let g' : Grid := q.desc
      let mode := (word 8).toNat % 4
      (g'.good = false → ends j fun rs => rs = [hazeBad]) ∧
      (∀ o v tmin tmax corner, v3Of q.words 0 = some o → v3Of q.words 4 = some v → fF32.er (word 3).toNat = some tmin →
        fF32.er (word 7).toNat = some tmax → g'.good = true → (v.x.isZero && v.y.isZero && v.z.isZero) = false →
        tmin.lt (.fin Q.zero) = false → mode ≠ 3 → (word 8).extractLsb' 2 14 = 0 →
        (mode < 2 → g'.dkind ≠ 0) → v3Of [g'.corner 0, g'.corner 1, g'.corner 2] 0 = some corner →
        ((∃ a < 3, (v.get a).isZero = true ∧ (corner.get a).le (o.get a) = false) →
          ends j fun rs => ∃ r, rs = [r] ∧ r.getD 0 0 = (if mode = 1 then 3 else 2) ∧ r.getD 5 0 = 0x3F800000 ∧
            r.getD 4 0 = word 7 ∧ r.getD 6 0 = 0 ∧ r.getD 7 0 = 0) ∧
        (∀ h x mb t0 t1 tb T0 s1,
          let cross (a k : Nat) : Word := BitVec.ofNat 32 (Q.roundZ (decide ((v.get a).num < 0)) .rne fF32
            ((((corner.get a).add (h.mul (Q.ofInt (8 * k)))).sub (o.get a)).div (v.get a)))
          let axes := (List.range 3).filter fun a => !(v.get a).isZero
          let at_ (T : Q) (a : Nat) : Q := if (v.get a).isZero then o.get a else (T.mul (v.get a)).add (o.get a)
          let brick (a : Nat) : Nat :=
            let z := ((at_ T0 a).sub (corner.get a)).div (h.mul (Q.ofInt 8))
            (max 0 (min ((g'.bricks a : Int) - 1) (if (v.get a).num < 0 then z.ceil - 1 else z.floor))).toNat
          let cell (T : Q) (a : Nat) : Nat :=
            (max (8 * brick a : Int) (min (8 * brick a + 7 : Int) (((at_ T a).sub (corner.get a)).div h).floor)).toNat
          let draw (n : Nat) : Nat := (philox (((s.launch? c.launch).map (·.seed)).getD 0)
            (drawCtr ((w.lane l).draws1 + BitVec.ofNat 32 n) 1 (crewLane w l) (recTindex c.record))).c0.toNat / 256
          let tc : Word := BitVec.ofNat 32 (match ((depthOf (draw 0)).div mb).f32 .rne with
            | .fin z => (T0.add z).round .rne fF32
            | _ => fF32.infBits)
          let answer (n ty : Nat) (t w5 : Word) (T : Q) (rs : List (List Word)) : Prop := rs = [marchRecord q.words n ty t w5 (cell T) x]
          fF32.fin g'.h.toNat = some h →
          (∀ a < 3, (v.get a).isZero = true → (corner.get a).le (o.get a) = true ∧
            (o.get a).lt ((corner.get a).add (h.mul (Q.ofInt (8 * g'.bricks a)))) = true) →
          t0 = axes.foldl (fun t a => distMax t (distMin (cross a 0) (cross a (g'.bricks a)))) (word 3) →
          t1 = axes.foldl (fun t a => distMin t (distMax (cross a 0) (cross a (g'.bricks a)))) (word 7) →
          distLt t0 t1 = true → distOf t0 = .fin T0 →
          tb = axes.foldl (fun t a => distMin t (cross a (brick a + if (v.get a).num < 0 then 0 else 1))) t1 → distLt tb t1 = false →
          s.portRead g q.refused (g'.maj + 2 * (brick 0 + g'.bricks 0 * (brick 1 + g'.bricks 1 * brick 2))) 2 =
            (s1, .ok (toBytes (BitVec.ofNat 16 x) 2)) → x < 2 ^ 16 → same s1 → fF16.fin x = some mb → 0 ≤ mb.num →
          (∀ T1, distOf t1 = .fin T1 → mb.num = 0 → ends j (answer 0 (if mode = 1 then 3 else 2) t1 0x3F800000 T1)) ∧
          (0 < mb.num → distLt t0 tb = true →
            (∀ T1, distOf t1 = .fin T1 → distLt tc tb = false → ends j (answer 1 (if mode = 1 then 3 else 2) t1 0x3F800000 T1)) ∧
            (∀ Tc, distLt tc tb = true → distOf tc = .fin Tc →
              (mode = 2 → ends j (answer 1 4 tc 0 Tc)) ∧
              (∀ s2 y mu, g'.dkind = 1 → s1.portRead g q.refused
                  (g'.dens + 2 * (cell Tc 0 + 8 * g'.bricks 0 * (cell Tc 1 + 8 * g'.bricks 1 * cell Tc 2))) 2 =
                  (s2, .ok (toBytes (BitVec.ofNat 16 y) 2)) → y < 2 ^ 16 → same s2 → fF16.fin y = some mu → 0 ≤ mu.num →
                (mode = 0 → (word 8).extractLsb' 16 16 ≠ 1 → ((Q.ofInt (draw 1)).mul mb).lt (mu.mul (Q.ofInt (2 ^ 24))) = true →
                  ends j (answer 2 1 tc (BitVec.ofNat 32 (cvtFloat fF16 fF32 .rne false y).bits) Tc)) ∧
                (mode = 0 → (word 8).extractLsb' 16 16 = 1 → ends j (answer 1 7 tc 0 Tc)) ∧
                (mode = 1 → y = x → ends j (answer 1 3 tc 0 Tc))))))))

/-! ### The Light meter and scanout (15 R347-R359) -/

/-- A sweep visits the next tile: its credit grows by the priority that its table word, the gaze and the motion give, and a whole
credit emits one sample, whose entry is written at the block's next place; RATE holds the sweep (R349-R351).  A held record goes to
its queue with the owner's launch, and its block is in use until the scheduler reports it free (R352, R353).  A due scan takes a
new snapshot of its descriptor, or scanning stops (R356); a due band shows the copy with the largest value not above n + 1, black
without one, and the next band's Developer task is posted unless its last has not completed (R357-R359).  The model's choices: a queue's descriptor
is stored at its home at once (log 31); a Developer record is posted with its template's LAUNCH, and of what a failed post or a band
without a copy counts, what stands here (log 42). -/
def Obligations.MeterAndScanout : Prop :=
  ∀ (x : Nat) (s : State), x < 2 → s.inflight = [] → s.Canonical →
    let m := (s.site x).meter
    let c := (s.site x).scan
    (∀ (h : MeterHdr) ta, m.en = true → m.adopted = some h → SMap.get m.motion0 m.tile = 0 →
      UnitMapped s x h.launch (hdrTable h.hdr + 4 * m.tile) 4 h.priv { r := true } ta →
      let tw : Word := (s.wordAt ta 4).setWidth 32
      let p := min 65535 (8 * (tw.extractLsb' 0 13).toNat +
        (hdrGaze h.hdr * gazeTerm (s.site x).gaze (hdrGrad h.hdr) m.tile + hdrErr h.hdr * (tw.extractLsb' 16 16).toNat) / 256)
      let credit := min (2 ^ 20 - 1) ((SMap.get m.credit m.tile).toNat + p)
      let e := s.sample x h.hdr tw m.tile 0
      let visited (left : Nat) (part : List (BitVec 128)) : Meter :=
        let m := { m with credit := SMap.set m.credit m.tile (BitVec.ofNat 32 left), part := part
                          emitted := m.emitted + (credit - left) / 65536 }
        if m.tile + 1 < 57600 then { m with tile := m.tile + 1 }
        else { m with tile := 0, sweep := m.sweep + 1, motion0 := m.motion, motion := [] }
      (hdrRate h.hdr * (s.elapsed - m.paced) < 64 * (m.emitted + credit / 65536) → exec (.meterSweep x 1) s = .next s) ∧
      (64 * (m.emitted + credit / 65536) ≤ hdrRate h.hdr * (s.elapsed - m.paced) →
        (credit < 65536 → ∃ u, exec (.meterSweep x 1) s = .next u ∧ u.mem = s.mem ∧ u.waves = s.waves ∧
          (u.site x).meter = visited credit m.part) ∧
        (∀ wa, 65536 ≤ credit → credit < 131072 → m.stall = false → m.part.length < 31 →
          UnitMapped s x h.launch (m.blockAt + 16 * m.part.length) 16 h.priv { w := true } wa →
          ∃ u, exec (.meterSweep x 1) s = .next u ∧ u.waves = s.waves ∧
            (u.site x).meter = visited (credit - 65536) (m.part ++ [e]) ∧
            ∀ a, u.homeByte a = if wa ≤ a ∧ a < wa + 16 then e.extractLsb' (8 * (a - wa)) 8 else s.homeByte a)) ∧
      (m.tile < 57600 → e.extractLsb' 96 16 = BitVec.ofNat 16 m.tile ∧ e.getLsbD 20 = tw.getLsbD 15 ∧
        e.extractLsb' 21 2 = tw.extractLsb' 13 2 ∧
        (tw.getLsbD 15 = false →
          (e.extractLsb' 0 20).toNat / 256 = m.tile % 240 ∧ (e.extractLsb' 32 20).toNat / 256 = m.tile / 240))) ∧
    (∀ (h : MeterHdr) r block pa q, m.held = some (r, block) → m.adopted = some h →
      (m.parked = true → exec (.meterOfferRetry x) s = .next s) ∧
      (m.parked = false → UnitMapped s x h.launch (hdrQueue h.hdr) 64 h.priv { r := true } pa → s.queue? pa = some (x, q) →
        (q.state = .opened → q.full = true → exec (.meterOfferRetry x) s = .next s) ∧
        (q.state = .closed → ∃ u, exec (.meterOfferRetry x) s = .next u ∧ u.mem = s.mem ∧
          (u.site x).meter = { m with parked := true }) ∧
        (∀ p, TakesRecord s x q p → ∃ u rec_, exec (.meterOfferRetry x) s = .next u ∧ rec_ = recSetLaunch r (BitVec.ofNat 16 q.owner) ∧
          Pushed s u x q p { record := rec_, scope := .site, cont := none } ∧
          (u.site x).meter = { m with held := none, issued := m.issued + 1, busy := m.busy ++ [(block, rec_)] }))) ∧
    (∀ b, m.freed.contains b = true → exec (.meterBlockFree x b) s = .next (s.updSite x fun t =>
      { t with meter := { m with busy := m.busy.filter fun y => y.1 != b, freed := m.freed.filter fun y => y != b } })) ∧
    ((s.scanDue x = false → exec (.scanStart x) s = .next s) ∧
     (s.scanDue x = true →
      (c.reg.getLsbD 0 = false → exec (.scanStart x) s = .next (s.updScan x fun _ => { c with on := false, out := [] })) ∧
      (∀ pa, c.reg.getLsbD 0 = true → UnitMapped s x c.launch c.descAt 64 true { r := true } pa →
        exec (.scanStart x) s = .next (s.updScan x fun _ =>
          { c with desc := s.wordAt pa 64, band := 0, first := false, period := scanPeriod (s.wordAt pa 64)
                   start := BitVec.ofNat 64 (if c.first then c.start.toNat else c.start.toNat + c.period)
                   scan := if c.first then 0 else c.scan + 1 })))) ∧
    ((s.bandDue x = false → exec (.scanoutBandStart x) s = .next s) ∧
     (∀ wa, s.bandDue x = true → c.band + 1 < 240 → UnitMapped s x c.launch (scanPrint c.desc + 16 * c.band) 16 true { r := true } wa →
      let b := c.band
      let n := c.scan.toNat
      let v0 := ((s.wordAt wa 16).extractLsb' 0 64).toNat
      let v1 := ((s.wordAt wa 16).extractLsb' 64 64).toNat
      let out_ (u : State) : Scan := (u.site x).scan
      let ends (P : State → Prop) : Prop := ∃ u, exec (.scanoutBandStart x) s = .next u ∧ u.waves = s.waves ∧ P u
      let dev : Prop := c.developers.any (fun d => d.1 = b + 1) = true
      (v0 = 0 → v1 = 0 → dev → ends fun u => u.mem = s.mem ∧
        out_ u = { c with out := [], band := b + 1, skip := if c.skip = 0xFFFF then c.skip else c.skip + 1 }) ∧
      (∀ row : Nat → Nat, 0 < v0 → v0 ≤ n + 1 → (v1 < v0 ∨ n + 1 < v1) → dev → (s.site x).dpPresent = true →
        (∀ k < 3840, UnitMapped s x c.launch (scanPrint c.desc + 4096 + 15360 * (16 * b) + 64 * k) 64 true { r := true } (row k)) →
        ends fun u => u.mem = s.mem ∧
          out_ u = { c with out := (out_ u).out, band := b + 1, skip := if c.skip = 0xFFFF then c.skip else c.skip + 1
                            late := if v0 = n + 1 ∨ c.late = 0xFFFF then c.late else c.late + 1 } ∧
          ∀ o < 245760, SMap.get (out_ u).out o = s.homeByte (row (o / 64) + o % 64)) ∧
      (∀ ta qa q p, v0 = 0 → v1 = 0 → ¬ dev → UnitMapped s x c.launch (scanTempl c.desc) 64 true { r := true } ta →
        let r := bandRecord (s.wordAt ta 64) (scanPrint c.desc) n (b + 1) (c.start.toNat + 16 * (b + 1) * c.period / 3840)
        s.recordOk r = true → UnitMapped s x c.launch (scanQueue c.desc) 64 true { r := true } qa → s.queue? qa = some (x, q) →
        TakesRecord s x q p → ends fun u => Pushed s u x q p { record := r, scope := .site, cont := none } ∧
          out_ u = { c with out := [], band := b + 1, developers := c.developers ++ [(b + 1, r)] })))

/-! ### What the schedulers and the cores do by themselves (14 R329-R343, 06 R179, 09 R255, R256, 01 R16) -/

/-- A scan pops the record at a queue's head and starts its task on the core chosen, which without DET is an eligible core that
accepts it with the fewest waves (R329, R330, R223).  The other site's scheduler accepts a placement or returns it (R332-R334); an offer
that a full queue delayed is made again (R228); a DS phase commits in ascending order of its tasks, and the continuation is offered
(R342).  After PREWAIT an idempotent crew of a lower level is discarded, its record returned (R336, R337); a gang that waits
reserves its cluster unless another gang holds it, and fails at its limit (R335); a crew that retires nothing is reported once (R339); the windows of a core
end (R16, R255, R256); a slice releases at most as many waves of an open barrier as CL_SLOPE said when it opened (R179,
R402); a crew that waits for a phase table's room for an interval fails its launch (R343).  The model's choices: a queue's
descriptor is stored at its home at once (log 31), the gang limit does nothing while a member of the gang stands offered to the
other site (log 30), and a wait for a phase table's room counts from the access that began it (log 38). -/
def Obligations.SchedulersAct : Prop :=
  ∀ (s : State), s.inflight = [] → s.Canonical →
    (∀ x q e p k, x < 2 → (s.site x).queues = [q] → (s.site x).gangWait = [] → (s.site x).placing = [] → q.state = .opened →
      q.prio < 4 → q.front = [] → q.entries = [e] → e.dropped = false → Config.homeSite q.desc = some x →
      UnitMapped s x q.owner (q.slot q.head) 64 true { r := true } p →
      let r := s.wordAt p 64
      (∃ la, s.launch? (recLaunch r).toNat = some la ∧ la.failed = false ∧ la.closed = false ∧ recordValid la.gmax la.priv r = true) →
      recGang r = false → recJoin r = 0 → s.chooseCore r = some k → k / 96 = x →
      ∃ u, exec (.schedulerScan x) s = .next u ∧ Starts s.crews s.waves u k ⟨r, q.desc, s.nextId, e.scope⟩ none ∧
        (u.site x).queues = [{ q with head := q.head + 1, entries := [], wait := none, triggered := false }] ∧
        (∀ m < 4, u.homeByte (q.desc + 48 + m) = (q.head + 1).extractLsb' (8 * m) 8) ∧
        ∀ a, a < q.desc ∨ q.desc + 64 ≤ a → u.homeByte a = s.homeByte a) ∧
    (∀ r, recDet r = false →
      (∀ k, s.chooseCore r = some k → k ∈ s.eligible r ∧ s.accepts r k = true ∧
        ∀ j ∈ s.eligible r, s.accepts r j = true → (s.coreWaves k).length ≤ (s.coreWaves j).length) ∧
      (s.chooseCore r = none → ∀ j ∈ s.eligible r, s.accepts r j = false)) ∧
    (∀ x p ps, x < 2 → (s.site x).placing = p :: ps → s.linkOpen = true →
      let r := p.item.record
      let fits : Prop := s.accepts r p.core = true ∧ (s.core p.core).retired = false ∧ s.takes (recClass r) (p.core / 8) = true
      let astray : Prop := recGang r = true ∧ ∃ g, s.gang? (gangKey r) = some g ∧ g.failed = false ∧ g.cluster ≠ p.core / 8
      (recGang r = false → fits → ∃ u, exec (.placementOffer x) s = .next u ∧ u.mem = s.mem ∧
        Starts s.crews s.waves u p.core p.item p.phase ∧ (u.site x).placing = ps) ∧
      (∀ y q, (recGang r = false ∧ ¬ fits) ∨ astray → s.queue? p.item.queue = some (y, q) →
        ∃ u z, exec (.placementOffer x) s = .next u ∧ u.crews = s.crews ∧ u.waves = s.waves ∧ u.mem = s.mem ∧
          (u.site x).placing = ps ∧ u.queue? p.item.queue = some (y, z) ∧
          let front := insertPopped p.item q.front
          z = if front.head? = q.front.head? then { q with front := front }
            else { q with front := front, wait := none, triggered := false })) ∧
    (∀ idx o q p, s.offers[idx]? = some o → s.queue? o.queue = some (o.core / 96, q) →
      (q.state = .opened → q.full = true → exec (.delayedOffer idx) s = .next s) ∧
      (TakesRecord s (o.core / 96) q p → ∃ u, exec (.delayedOffer idx) s = .next u ∧ u.offers = s.offers.eraseIdx idx ∧
        Pushed s u (o.core / 96) q p { record := o.record, scope := .device, cont := match o.src with
          | .join cont ti => some (o.launch, cont, ti)
          | .handler .. => none })) ∧
    (∀ ph f, (s.fires.find? fun f => f.phase = some ph) = some f → s.linkOpen = true → s.badLines = [] →
      (∀ d ∈ s.siteA.dsLines ++ s.siteB.dsLines, d.phase = ph → d.old = s.homeBytes (64 * d.line) 64) →
      let site := f.core / 96
      ∃ u, exec (.dsPhaseCommit ph) s = u.continueFire { f with phase := none } ∧ u.waves = s.waves ∧ u.crews = s.crews ∧
        u.fires = s.fires.erase f ∧ u.dsWrites = s.dsWrites.filter (fun w => w.phase != ph) ∧
        (∀ x < 2, (u.site x).dsLines = (s.site x).dsLines.filter fun d => d.phase != ph) ∧
        (∀ a b : DsWrite, (s.dsWrites.filter fun w => w.phase = ph) = [a, b] ∨ (s.dsWrites.filter fun w => w.phase = ph) = [b, a] →
          a.tindex < b.tindex → a.op = .store → b.op = .store →
          ∀ n, u.homeByte n = if b.pa ≤ n ∧ n < b.pa + b.bytes then b.data.getD (n - b.pa) 0
            else if a.pa ≤ n ∧ n < a.pa + a.bytes then a.data.getD (n - a.pa) 0 else s.homeByte n) ∧
        ∀ pa qa q p la, UnitMapped s site f.launch f.cont.toNat 64 f.priv { r := true } pa →
          UnitMapped s site f.launch f.queue.toNat 64 f.priv { r := true } qa → s.queue? qa = some (site, q) →
          TakesRecord s site q p → s.launch? f.launch = some la → la.failed = false →
          let r := recSetLaunch (u.wordAt pa 64) (BitVec.ofNat 16 f.launch)
          recordValid la.gmax la.priv r = true → ∃ t, exec (.dsPhaseCommit ph) s = .next t ∧
            Pushed u t site q p { record := r, scope := .device, cont := some (f.launch, f.cont, f.tindex) }) ∧
    (∀ x q before after e es p k v, x < 2 → (∀ g ∈ (s.site x).gangWait, s.memberDue g = false) →
      (s.site x).ring 0 = before ++ q :: after → (∀ y ∈ before, s.queueDue x y = false) → s.queueDue x q = true →
      s.queue? q.desc = some (x, q) → q.front = [] →
      q.entries = e :: es → e.dropped = false → UnitMapped s x q.owner (q.slot q.head) 64 true { r := true } p →
      let r := s.wordAt p 64
      s.launchRuns (recLaunch r).toNat = true → s.recordOk r = true → s.findCore r = none → recGang r = false → recJoin r = 0 →
      s.preemption r = some (k, [v]) → (k / 96 = x ∨ s.linkOpen = true) → (s.crews.map Crew.key).Nodup → recGang v.record = false → s.crew? v.key = some v →
      (∀ z ∈ s.waves, z.parked = []) → (s.cluster v.cluster).copies = [] →
      ∃ u, exec (.prewait x) s = .next u ∧
        Starts (s.crews.filter fun c => c.key != v.key) (s.waves.filter fun w => w.crew != v.key) u k
          ⟨r, q.desc, s.nextId, e.scope⟩ none ∧
        ∀ qd y qv, v.queue = some qd → s.queue? qd = some (y, qv) →
          ∃ z, u.queue? qd = some (y, z) ∧ z.front = insertPopped ⟨v.record, qd, v.popped, v.scope⟩ qv.front) ∧
    (∀ r k cs, s.preemption r = some (k, cs) → ∀ c ∈ cs, recIdem c.record = true ∧ recPrio c.record ≠ 0) ∧
    (∀ l n g, s.gang? (l, n) = some g →
      (s.overdue g g.waitNs = false → exec (.gangWait l n) s = .next s) ∧
      (∀ k, (s.cluster g.cluster).reserved = some k → k ≠ (l, n) → exec (.gangWait l n) s = .next s) ∧
      (s.overdue g g.waitNs = true → g.waited = false → g.cluster < s.clusters.length →
        (∀ k, (s.cluster g.cluster).reserved = some k → k = (l, n)) → ∃ u, exec (.gangWait l n) s = .next u ∧
          u = { s with gangs := u.gangs, clusters := u.clusters } ∧ u.gang? (l, n) = some { g with waited := true } ∧
          u.cluster g.cluster = { s.cluster g.cluster with reserved := some (l, n) } ∧
          ∀ j, j ≠ g.cluster → u.cluster j = s.cluster j) ∧
      (s.overdue g g.limitNs = true → s.siteA.placing = [] → s.siteB.placing = [] →
        s.gangMembers (l, n) = [] → (∀ k ∈ s.clusters, k.copies = []) → (s.crews.map Crew.key).Nodup →
        let mine (c : Crew) : Bool := recGang c.record && c.launch = l && (recGangId c.record).toNat = n
        (∀ c ∈ s.crews, mine c = true → recJoin c.record = 0) →
        ∃ u, exec (.gangLimit l n) s = .next u ∧ u.crews = s.crews.filter (fun c => !mine c) ∧
          u.gang? (l, n) = some { g with failed := true, started := s.gangRanks g }) ∧
      (s.gangOffered (l, n) = true → exec (.gangLimit l n) s = .next s)) ∧
    (∀ key c, s.crew? key = some c →
      (s.roomWait c = none → s.elapsed < c.since + c.hangNs → exec (.hang key) s = .next s) ∧
      (∀ a t ns la, s.roomWait c = some a → c.roomSince = some (t, ns) → c.since ≤ t → ns ≠ 0 → t + ns ≤ s.elapsed →
        s.launch? c.launch = some la → la.failed = false → s.sessions = [] →
        ∃ u lb, exec (.hang key) s = .next u ∧ u = { s with launches := u.launches, messages := u.messages } ∧
          u.launch? c.launch = some lb ∧ lb.failed = true ∧
          u.messages = s.messages ++ [(0x20, toBytes (reportWord c.launch (recTindex c.record) a 0 0 2 0x3A 2) 64)]) ∧
      (c.hangNs ≠ 0 → c.hung = false → c.since + c.hangNs ≤ s.elapsed → s.roomWait c = none →
        (∃ w ∈ s.waves, w.crew = key ∧ (w.parked ≠ [] ∨ ∃ l ∈ w.lanes, l.life = .live)) → s.sessions = [] →
        ∃ u, exec (.hang key) s = .next u ∧ u = { s with crews := u.crews, messages := u.messages } ∧
          u.crew? key = some { c with hung := true } ∧
          u.messages = s.messages ++ [(0x20, toBytes (reportWord c.launch (recTindex c.record) 0 0 0 1 0 3) 64)])) ∧
    (∀ core < s.cores.length, ∃ u, exec (.exclusionWindowEnd core) s = .next u ∧ u = { s with cores := u.cores } ∧
      u.core core = { s.core core with halfRate := false } ∧ ∀ j, j ≠ core → u.core j = s.core j) ∧
    (∀ core < s.cores.length,
      let c := s.core core
      let now := (s.cluster (core / 8)).issue
      let win := max 1 (c.issueNow.extractLsb' 8 8).toNat
      ∃ u, exec (.urgentWaveWindow core) s = .next u ∧ u.mem = s.mem ∧ u.crews = s.crews ∧
        (c.windows + 1 < win → u.core core = { c with windows := c.windows + 1 } ∧ u.waves = s.waves) ∧
        (win ≤ c.windows + 1 → u.core core = { c with windows := 0, issueNow := now } ∧
          (∀ w ∈ s.waves, w.core = core → now.getLsbD 0 = false → { w with urgent := false } ∈ u.waves) ∧
          (∀ d w, d ∈ s.crews → d.core = core → w ∈ s.crewWaves d.key → w.core = core → now.getLsbD 0 = true →
            2 ≤ (s.crewWaves d.key).length →
            (∀ y ∈ s.crewWaves d.key, w.progress < y.progress ∨ w.progress = y.progress ∧ w.num ≤ y.num) →
            { w with urgent := true } ∈ u.waves))) ∧
    (∀ crew n, (s.waves.map Wave.key).Nodup →
      (∀ w ∈ s.crewWaves crew, ∀ l ∈ w.lanes, ∀ sc m, l.block = .released sc m → m = n) →
      let ks := if n = 0 then s.releasable crew else (s.releasable crew).take n
      ∃ u, exec (.barrierReleaseSlice crew) s = .next u ∧ u.mem = s.mem ∧ u.crews = s.crews ∧
        ∀ key w, s.wave? key = some w → ∃ y, u.wave? key = some y ∧
          y = if ks.contains key then { w with lanes := w.lanes.map fun l => match l.block with
            | .released _ _ => { l with block := .none }
            | _ => l } else w)

/-! ### The link, the time base and the headset (11 R287-R289, 17 R384-R390, R399) -/

/-- A packet that arrives in its turn is applied once, and its flow expects the next; a copy of it is dropped and counted; one that
comes early in an ordered flow waits (R287-R289).  An acknowledgement frees what it covers.  A flit that fails its check is counted,
and the adapter's replay is no packet's (R383, R384); PAUSE takes effect once both ends have stopped (R385); a training takes the widths
requested, or turns a direction off that needs more than four spares, and the link fails when a direction has no module left
(R386).  A gPTP message sets the site's TMR_ registers, and steps the timer forward only before the first launch (R389, R390).  An
accepted headset record takes the ring's next slot, and a newer gaze replaces the older (R399).  The model's choices: a training
takes what WREQ and WMAP held at the write, and a direction that is off shows SPUSED 0 (log 44); one headset ring for the module, a
gaze of equal T replaces the older, and the timer steps forward only before the first launch (log 46). -/
def Obligations.LinkTimeAndHeadset : Prop :=
  ∀ (s : State),
    (∀ (f : FlowId) (seq : BitVec 16),
      let x := s.flow f
      (s.linkState ≠ .active ∨ x.transit.contains seq = false ∧ x.held.contains seq = false →
        exec (.packetReceive f seq) s = .next s ∧ (s.linkState ≠ .active → exec (.linkAckReceive f seq) s = .next s)) ∧
      (s.linkState = .active → x.transit.contains seq = true →
        (seq = x.expected → x.early = [] → x.applied seq = false → x.held.contains seq = false → f.dst < 2 →
          let y : Flow := { x with expected := x.expected + 1, transit := x.transit.erase seq }
          (∀ w words, x.payload seq = some (.record w words) →
            let b := (words.extractLsb' 40 12).toNat
            let g := (s.site f.dst).neg
            let n := SMap.get g.counts b
            ∃ u c, exec (.packetReceive f seq) s = .next u ∧ u.mem = s.mem ∧ u.flow f = y ∧
              (u.site f.dst).neg = { g with counts := c, stat := (g.stat.extractLsb' 32 32 + 1) ++ g.stat.extractLsb' 0 32
                                            rings := (g.rings.filter fun q => !(q.1 = b && q.2.order + 65536 = n.toNat)) ++
                                              [(b, { order := n.toNat, words := words, wave := some w, visible := false })] } ∧
              (SMap.wf g.counts = true → ∀ k, SMap.get c k = if k = b then n + 1 else SMap.get g.counts k)) ∧
          (∀ w : Inflight, x.payload seq = some (.access w.id) → s.inflight = [w] → s.badLines = [] → w.pkt = some seq → w.flow = f →
            Config.homeSite w.pa ≠ some (w.core / 96) → s.Canonical →
            ∃ u, exec (.packetReceive f seq) s = .next u ∧ u.inflight = [] ∧ u.flow f = y ∧
              ∀ a, u.homeByte a = if w.covers a then w.data.getD (a - w.pa) 0 else s.homeByte a)) ∧
        (f.dst < 2 → x.held.contains seq = false → x.applied seq = true →
          ∃ u, exec (.packetReceive f seq) s = .next u ∧ u.mem = s.mem ∧ u.inflight = s.inflight ∧
            u.flow f = { x with transit := x.transit.erase seq } ∧
            (u.site f.dst).lnkRs.extractLsb' 0 32 = (s.site f.dst).lnkRs.extractLsb' 0 32 + 1) ∧
        (f.ordered = true → seq ≠ x.expected → x.held.contains seq = false → x.applied seq = false →
          ∃ u, exec (.packetReceive f seq) s = .next u ∧ u = { s with flows := u.flows } ∧
            u.flow f = { x with transit := x.transit.erase seq, held := x.held ++ [seq] })) ∧
      (s.linkState = .active → (x.expected - seq - 1).toNat < 32768 →
        ∃ u, exec (.linkAckReceive f seq) s = .next u ∧ u = { s with flows := u.flows, held := [] } ∧
          u.flow f = { x with unacked := x.unacked.filter fun p => !((seq - p.1).toNat < 32768) })) ∧
    (∀ x k lanes, x < 2 → k < 4 → (s.site x).link.length = 4 → s.linkState = .active →
      let m := (s.site x).mod k
      (m.width = 0 → exec (.flitCrcError x k lanes) s = .next s) ∧
      (m.width ≠ 0 → ∃ u, exec (.flitCrcError x k lanes) s = .next u ∧
        u = { s with siteA := u.siteA, siteB := u.siteB } ∧
        (u.site x).mod k = { m with retry := if m.retry = 0xFFFFFFFF then m.retry else m.retry + 1
                                    wbad := m.wbad ||| (lanes &&& (if m.width = 1 then 0xFFFFFFFF else
                                      if m.width = 2 then 0xFFFFFFFF00000000 else 0xFFFFFFFFFFFFFFFF)) } ∧
        ∀ j, j ≠ k → (u.site x).mod j = (s.site x).mod j)) ∧
    (exec .linkPaused s = .next (if s.pause then { s with paused := true } else s)) ∧
    (s.linkState ≠ .training → exec .linkTrainComplete s = .next s) ∧
    (s.linkState = .training → s.siteA.link.length = 4 → s.siteB.link.length = 4 →
      let spares (m : LinkMod) : Nat := (List.range 64).countP fun k => (m.tmap &&& widthLanes m.treq).getLsbD k
      ∃ u, exec .linkTrainComplete s = .next u ∧ u.training = 0 ∧ u.mem = s.mem ∧ u.inflight = s.inflight ∧ u.waves = s.waves ∧
        (∀ x < 2, ∀ k < 4, let m := (s.site x).mod k
          (u.site x).mod k = if s.training.getLsbD k = false then m
            else if 4 < spares m then { m with width := 0, spused := 0 }
            else { m with width := m.treq, spused := BitVec.ofNat 3 (spares m) }) ∧
        (u.linkState = .failed ↔ ∃ x < 2, ∀ k < 4, ((u.site x).mod k).width = 0) ∧
        (u.linkState = .active ↔ ∀ x < 2, ∃ k < 4, ((u.site x).mod k).width ≠ 0)) ∧
    (∀ m : PtpMsg, m.site < 2 → ∃ u, exec (.ptpSync m) s = .next u ∧
      u = { s with siteA := u.siteA, siteB := u.siteB, timer := u.timer, snapFrom := u.snapFrom } ∧
      (u.snapFrom = if s.launched || m.forward = 0 then s.snapFrom else u.timer) ∧
      u.site m.site = { s.site m.site with
        tmrStat := 0#16 ++ m.interval ++ 0#5 ++ BitVec.ofBool m.port ++ BitVec.ofBool m.gm ++ BitVec.ofBool m.sync
        tmrOffset := m.offset, tmrGmid := m.gmid, tmrSkew := m.skew, tmrRate := clampRate m.rate } ∧
      u.site (1 - m.site) = s.site (1 - m.site) ∧ (-100000 ≤ m.rate.toInt → m.rate.toInt ≤ 100000 → clampRate m.rate = m.rate) ∧
      u.timer.toNat = if s.launched then s.timer.toNat else min (2 ^ 64 - 1) (s.timer.toNat + m.forward)) ∧
    (∀ port, exec (.headsetFrame port []) s = .next s) ∧
    (∀ port r, hsAccepted r = false → exec (.headsetFrame port [r]) s = .next s) ∧
    (∀ port r base n, hsAccepted r = true → s.hsRing = some (base, n) → s.badLines = [] → s.Canonical →
      let at_ := s.nowAt (base + 32 * (s.hsCount.toNat % n))
      (s.retired = [] → at_ = base + 32 * (s.hsCount.toNat % n)) ∧
      ∃ u, exec (.headsetFrame port [r]) s = .next u ∧ u.hsCount = s.hsCount + 1 ∧ u.waves = s.waves ∧
        (∀ a, u.homeByte a = if at_ ≤ a ∧ a < at_ + 32 then r.extractLsb' (8 * (a - at_)) 8 else s.homeByte a) ∧
        ∀ x < 2, (u.site x).gaze = if hsKind r = 1 ∧ (hsEye r).getLsbD x = true ∧
            (∀ o, (s.site x).gaze = some o → (o.extractLsb' 0 64).toNat ≤ (r.extractLsb' 0 64).toNat)
          then some r else (s.site x).gaze)

/-! ### What the host asks (17 R391-R399, 14 R321-R328) -/

/-- OPEN, ELEVATE, ACK and CLOSE, an unknown type, resent messages and idle sessions (R392-R396).  A session has the module's next
number and a challenge; ELEVATE makes it privileged when the owner's key signs the challenge, else it answers 3; ACK frees the
messages up to its number; an unknown type answers 1; a session that is silent for 60 s ends.  A request out of its session's
window has no effect, or its stored response is sent again (R395).  Only a datagram to the listening port and to the port's set or
link-local address is heard (R391).  The model's choices: a malformed payload is found before a missing privilege (log 49), session
numbers count up, any datagram of a session refreshes it, and requests wait for both sites' boot (log 50); ELEVATE takes the
configuration record of the port's site (log 53). -/
def Obligations.SessionsOfTheHost : Prop :=
  ∀ (s : State) (d : Datagram) (r : Req),
    (∀ n st p y, s.session? n = some y → ∃ u, u = s.answered n r st p ∧ u.outbox = s.outbox ++ [r.answer n st p] ∧
      u = { s with sessions := u.sessions, outbox := u.outbox } ∧
      u.session? n = some { y with expected := y.expected + 1, held := y.held.filter fun h => h.1 != r.seq
                                   answered := ((r.seq, (r.answer n st p).bytes) :: y.answered).take 64 }) ∧
    (∀ n st p, r.answer n st p = ⟨r.d.port, r.d.src, r.d.sport,
      toBytes (0x5352 : BitVec 16) 2 ++ [0x01, r.type] ++ toBytes (BitVec.ofNat 32 n) 4 ++ toBytes r.seq 4 ++
        toBytes (BitVec.ofNat 16 p.length) 2 ++ toBytes (BitVec.ofNat 16 st) 2 ++ toBytes r.tag 8 ++ List.replicate 8 0 ++ p⟩) ∧
    (s.listens d = true ↔ d.port ≤ 1 ∧ d.dport = 47310 ∧ (d.dst = linkLocal d.port ∨ (d.dst ≠ 0 ∧ d.dst = (s.site d.port).ip))) ∧
    (∀ p < 2, (linkLocal p).extractLsb' 64 64 = 0xFE80000000000000 ∧ (linkLocal p).extractLsb' 24 16 = 0xFFFE ∧
      (linkLocal p).extractLsb' 0 24 = (Config.mac p).extractLsb' 0 24 ∧
      (linkLocal p).extractLsb' 40 24 = (Config.mac p).extractLsb' 24 24 ^^^ 0x020000) ∧
    (s.listens d = false → exec (.hopen d) s = .next s ∧ exec (.ack d) s = .next s ∧ exec (.elevate d) s = .next s ∧
      exec (.hclose d) s = .next s ∧ exec (.rosoinuUnknownType d) s = .next s) ∧
    (s.listens d = true → parseReq d = some r → r.type = 0x01 → s.booted = true → s.alarm = false →
      (r.body ≠ [] ∨ r.session ≠ 0 → exec (.hopen d) s = .next (s.send (r.answer r.session 1 []))) ∧
      (r.body = [] → r.session = 0 → 16 ≤ s.sessions.length → exec (.hopen d) s = .next (s.send (r.answer 0 6 []))) ∧
      (r.body = [] → r.session = 0 → s.sessions.length < 16 →
        ∃ u x, exec (.hopen d) s = .next u ∧ u.lastSession = s.lastSession + 1 ∧ u.sessions = s.sessions ++ [x] ∧ u.mem = s.mem ∧
          x.num = s.lastSession + 1 ∧ x.priv = false ∧ x.expected = 1 ∧ x.port = d.port ∧ x.addr = d.src ∧ x.sport = d.sport ∧
          u.outbox = s.outbox ++ [r.answer x.num 0 (toBytes x.challenge 32)])) ∧
    (∀ x, InTurn d 0x02 s x r → r.body.length = 1024 →
      let h := s.setSession (s.hearing x d r)
      let key := r.body.take 512
      let good : Bool := cfgHostKey (s.site (d.port % 2)).cfg != 0 &&
        (sha512 key).take 48 = toBytes (cfgHostKey (s.site (d.port % 2)).cfg) 48 &&
        pssVerify key (toBytes x.challenge 32 ++ toBytes (BitVec.ofNat 32 x.num) 4) (r.body.drop 512)
      (good = true → s.messages = [] → Responds (.elevate d) s x r 0 [] fun u =>
        u = h.setSession { s.hearing x d r with priv := true }) ∧
      (good = false → Responds (.elevate d) s x r 3 [] fun u => u = h)) ∧
    (∀ x, InTurn d 0x02 s x r → r.body.length ≠ 1024 →
      Responds (.elevate d) s x r 1 [] fun u => u = s.setSession (s.hearing x d r)) ∧
    (∀ x, InTurn d 0x03 s x r →
      (r.body ≠ [] → Responds (.hclose d) s x r 1 [] fun u => u = s.setSession (s.hearing x d r)) ∧
      (r.body = [] → x.unacked = [] → x.waiting = [] → Responds (.hclose d) s x r 0 [] fun u =>
        u = { s with sessions := u.sessions } ∧ u.session? x.num = none ∧ ∀ n, n ≠ x.num → u.session? n = s.session? n)) ∧
    (∀ x, s.listens d = true → parseReq d = some r → r.type = 0x04 → s.booted = true → s.alarm = false → s.session? r.session = some x →
      r.body.length = 4 → x.waiting = [] →
      let k := BitVec.ofNat 32 (fieldAt r.body 0 4)
      ∃ u, exec (.ack d) s = .next u ∧ u = { s with sessions := u.sessions } ∧
        u.session? x.num = some { x with port := d.port, addr := d.src, sport := d.sport, lastAt := s.elapsed
                                         unacked := x.unacked.filter fun p => !((k - p.1).toNat < 2 ^ 31) }) ∧
    (∀ x, InTurn d r.type s x r → knownType r.type = false →
      Responds (.rosoinuUnknownType d) s x r 1 [] fun u => u = s.setSession (s.hearing x d r)) ∧
    (∃ u, exec .rosoinuResend s = .next u ∧ u = { s with outbox := u.outbox } ∧
      u.outbox = s.outbox ++ s.sessions.flatMap fun x => x.unacked.map fun p =>
        ⟨x.port, x.addr, x.sport, rosoinu p.2.1 x.num p.1 0 0 p.2.2⟩) ∧
    (∀ n x, s.session? n = some x →
      (s.elapsed < x.lastAt + 60000000000 → exec (.sessionIdleTimeout n) s = .next s) ∧
      (x.lastAt + 60000000000 ≤ s.elapsed → x.unacked = [] → x.waiting = [] → ∃ u, exec (.sessionIdleTimeout n) s = .next u ∧
        u = { s with sessions := u.sessions } ∧ u.session? n = none)) ∧
    (∀ x, s.listens d = true → parseReq d = some r → r.type = 0x05 → s.booted = true → s.alarm = false → s.session? r.session = some x →
      64 ≤ (r.seq - x.expected).toNat →
      let h := s.setSession { x with port := d.port, addr := d.src, sport := d.sport, lastAt := s.elapsed }
      (∀ bs, x.answered.find? (fun a => a.1 = r.seq) = some bs →
        exec (.setip d) s = .next (h.send ⟨d.port, d.src, d.sport, bs.2⟩)) ∧
      (x.answered.find? (fun a => a.1 = r.seq) = none → exec (.setip d) s = .next h))

/-- The requests of an open session, each in its turn, with the statuses of R393 and R394: MEMRD and MEMWR at physical addresses
and through a launch's tables, LAUNCH and LCLOSE, PUSH, QCMD and TLBINV, SETIP, HSRING, GATE and ATTEST (R321, R322, R326, R327, R301, R388, R399,
R413).  The model's choices: the order of the statuses (logs 49, 56), of the details of R322 that hold LAUNCH answers the lowest (log 54),
what LCLOSE reports and when (log 55), accesses of the host without TLB (log 51), a TLBINV that must wait does nothing yet (log 52),
the site of TLBINV and the scope of PUSH (log 53), stores of a descriptor at its home at once (log 31), and what the evidence's
configuration digest covers (log 60). -/
def Obligations.RequestsOfTheHost : Prop :=
  ∀ (s : State) (d : Datagram) (r : Req) (x : Session), r.body.length ≤ 1440 →
    let y := s.hearing x d r
    let h := s.setSession y
    let b := r.body
    (∀ top need, (b.length < 16 ∨ fieldAt b 8 2 = 0 ∨ top < fieldAt b 8 2 ∨ 1 < fieldAt b 10 2 ∨ fieldAt b 14 2 ≠ 0 →
        h.hostAccess y b top need = .error 1) ∧
      (16 ≤ b.length → fieldAt b 8 2 ≠ 0 → fieldAt b 8 2 ≤ top → fieldAt b 14 2 = 0 →
        let pa := fieldAt b 0 8
        let n := fieldAt b 8 2
        (fieldAt b 10 2 = 1 → x.priv = false → h.hostAccess y b top need = .error 2) ∧
        (fieldAt b 10 2 = 1 → x.priv = true → isMemory pa = true → isMemory (pa + n - 1) = true →
          h.hostAccess y b top need = .ok (n, .at (h.pieces pa n)) ∧ (s.retired = [] → h.pieces pa n = [(pa, n)])) ∧
        (fieldAt b 10 2 = 0 → x.priv = false → s.opened x (fieldAt b 12 2) = false → h.hostAccess y b top need = .error 4) ∧
        (∀ la, fieldAt b 10 2 = 0 → s.opened x (fieldAt b 12 2) = true → s.launch? (fieldAt b 12 2) = some la →
          h.hostAccess y b top need = .ok (n, h.virtAt la.root x.priv need (n / 4096 + 2) pa n)))) ∧
    (∀ root priv need e comp vpage pages va n, walkFrom h va 3 root = .leaf e comp vpage pages → va < 2 ^ 52 → 0 < n →
      va % 4096 + n ≤ 4096 →
      let pa := h.nowAt (entryPa e + (va - 4096 * vpage))
      (denies e priv need = true → h.virtAt root priv need (n / 4096 + 2) va n = .bad) ∧
      (denies e priv need = false → isWindow pa = false → h.virtAt root priv need (n / 4096 + 2) va n = .at [(pa, n)])) ∧
    (InTurn d 0x10 s x r →
      (b.length ≠ 16 → Responds (.memrd d) s x r 1 [] fun u => u = h) ∧
      (b.length = 16 →
        (∀ st, h.hostAccess y b 1440 { r := true } = .error st → Responds (.memrd d) s x r st [] fun u => u = h) ∧
        (∀ n, h.hostAccess y b 1440 { r := true } = .ok (n, .bad) → Responds (.memrd d) s x r 5 [] fun u => u = h) ∧
        (∀ n ps, h.hostAccess y b 1440 { r := true } = .ok (n, .at ps) → s.badLines = [] →
          Responds (.memrd d) s x r 0 (ps.flatMap fun p => (List.range p.2).map fun k => s.homeByte (p.1 + k))
            fun u => u = { h with fresh := u.fresh }))) ∧
    (InTurn d 0x11 s x r →
      (∀ st, h.hostAccess y b 1424 { w := true } = .error st → Responds (.memwr d) s x r st [] fun u => u = h) ∧
      (∀ n a, h.hostAccess y b 1424 { w := true } = .ok (n, a) →
        (b.length ≠ 16 + n → Responds (.memwr d) s x r 1 [] fun u => u = h) ∧
        (b.length = 16 + n → a = .bad → Responds (.memwr d) s x r 5 [] fun u => u = h) ∧
        (∀ pa, b.length = 16 + n → a = .at [(pa, n)] → s.badLines = [] → s.Canonical →
          Responds (.memwr d) s x r 0 [] fun u => u = { h with mem := u.mem, held := [] } ∧
            ∀ k, u.homeByte k = if pa ≤ k ∧ k < pa + n then b.getD (16 + (k - pa)) 0 else s.homeByte k))) ∧
    (InTurn d 0x12 s x r →
      (b.length ≠ 64 → Responds (.launch d) s x r 1 [] fun u => u = h) ∧
      (b.length = 64 →
        let v := BitVec.ofNat 512 (ofBytes b)
        let l : Launch := { num := (v.extractLsb' 0 16).toNat, record := v, session := x.num }
        (∀ n, h.rejects y l = some n → x.unacked.length < 1024 → x.waiting = [] →
          Responds (.launch d) s x r (0x100 + n) [] fun u => u.launches = s.launches ∧ u.mem = s.mem ∧
            (∃ z, u.session? x.num = some z ∧
              z.unacked = x.unacked ++ [(x.sendSeq, (0x20, toBytes (reportWord l.num 0 0 0 0 (BitVec.ofNat 16 n) 0 1) 64))])) ∧
        (∀ bank, h.rejects y l = none → h.readBank l = .ok bank → Responds (.launch d) s x r 0 [] fun u =>
          u = { h with launches := s.launches ++ [{ l with bank := bank }], launched := true, held := [] }) ∧
        (h.isOpen l.num = true → h.rejects y l = some 1))) ∧
    (InTurn d 0x13 s x r →
      let n := fieldAt b 0 2
      (b.length ≠ 4 ∨ fieldAt b 2 2 ≠ 0 → Responds (.lclose d) s x r 1 [] fun u => u = h) ∧
      (b.length = 4 → fieldAt b 2 2 = 0 →
        (s.isOpen n = false ∨ x.priv = false ∧ s.opened x n = false → Responds (.lclose d) s x r 4 [] fun u => u = h) ∧
        (s.opened x n = true → s.siteA.placing = [] → s.siteB.placing = [] →
          (∀ k < 2, (∀ q ∈ (s.site k).queues, q.front = []) ∧ (s.site k).gangWait = []) →
          Responds (.lclose d) s x r 0 [] fun u => u.mem = s.mem ∧ u.waves = s.waves ∧ u.isOpen n = false ∧
            u.crews.map Crew.key = s.crews.map Crew.key ∧
            ∀ k < 2, (u.site k).queues = (s.site k).queues.map fun q =>
              { q with entries := q.entries.map fun e => if (recLaunch e.record).toNat = n then { e with dropped := true } else e }))) ∧
    (InTurn d 0x14 s x r →
      let pa := s.nowAt (fieldAt b 0 8)
      let v := BitVec.ofNat 512 (ofBytes (b.drop 8))
      (b.length ≠ 72 → Responds (.push d) s x r 1 [] fun u => u = h) ∧
      (b.length = 72 → x.priv = true →
        (s.recordOk v = false → Responds (.push d) s x r 0x204 [] fun u => u = h) ∧
        (s.recordOk v = true →
          (s.queue? pa = none → Responds (.push d) s x r 0x205 [] fun u => u = h) ∧
          ∀ k q, s.queue? pa = some (k, q) →
            (q.state = .closed → Responds (.push d) s x r 0x202 [] fun u => u = h) ∧
            (q.state = .faulted → Responds (.push d) s x r 0x203 [] fun u => u = h) ∧
            (q.state = .opened → q.full = true → Responds (.push d) s x r 0x201 [] fun u => u = h) ∧
            (∀ p, TakesRecord s k q p → s.Canonical → Responds (.push d) s x r 0 [] fun u =>
              Pushed h u k q p { record := v, scope := .system, cont := none } ∧ u.waves = s.waves))) ∧
      (b.length = 72 → x.priv = false → (∀ k q, s.queue? pa = some (k, q) → q.state ≠ .opened ∨ s.opened x q.owner = false) →
        Responds (.push d) s x r 4 [] fun u => u = h)) ∧
    (InTurn d 0x15 s x r →
      let v : DWord := BitVec.ofNat 64 (fieldAt b 0 8)
      let pa := s.nowAt ((v.extractLsb' 6 46).toNat * 64)
      (b.length ≠ 8 → Responds (.qcmd d) s x r 1 [] fun u => u = h) ∧
      (b.length = 8 → isMemory pa = true → s.badLines = [] → x.priv = true →
        Responds (.qcmd d) s x r (if (h.queueCmd (v.extractLsb' 0 2) pa).2 then 0 else 5) [] fun u =>
          u = { (h.queueCmd (v.extractLsb' 0 2) pa).1 with held := [] })) ∧
    (InTurn d 0x16 s x r →
      let v : DWord := BitVec.ofNat 64 (fieldAt b 0 8)
      let sites := if v.getLsbD 8 then [0, 1] else [d.port % 2]
      (b.length ≠ 16 ∨ fieldAt b 10 6 ≠ 0 → Responds (.tlbinv d) s x r 1 [] fun u => u = h) ∧
      (b.length = 16 → fieldAt b 10 6 = 0 →
        (x.priv = false → Responds (.tlbinv d) s x r 2 [] fun u => u = h) ∧
        (∀ t, x.priv = true → h.tlbinv sites (fieldAt b 8 2) v = some t →
          Responds (.tlbinv d) s x r 0 [] fun u => u = { t with held := [] }) ∧
        (x.priv = true → h.tlbinv sites (fieldAt b 8 2) v = none → exec (.tlbinv d) s = .next h))) ∧
    (InTurn d 0x05 s x r →
      let bad : Prop := b.length ≠ 24 ∨ 1 < fieldAt b 0 1 ∨ fieldAt b 1 3 ≠ 0 ∨ 128 < fieldAt b 20 1 ∨ fieldAt b 21 3 ≠ 0
      (bad → Responds (.setip d) s x r 1 [] fun u => u = h) ∧
      (¬ bad → x.priv = false → Responds (.setip d) s x r 2 [] fun u => u = h) ∧
      (¬ bad → x.priv = true → Responds (.setip d) s x r 0 [] fun u => u = { h with siteA := u.siteA, siteB := u.siteB } ∧
        u.site (fieldAt b 0 1) = { s.site (fieldAt b 0 1) with ip := BitVec.ofNat 128 (fieldAt b 4 16), ipPrefix := BitVec.ofNat 8 (fieldAt b 20 1) } ∧
        u.site (1 - fieldAt b 0 1) = s.site (1 - fieldAt b 0 1))) ∧
    (InTurn d 0x17 s x r →
      let base := fieldAt b 0 8
      let n := fieldAt b 8 4
      let bad : Prop := b.length ≠ 16 ∨ base % 4096 ≠ 0 ∨ n < 256 ∨ 2 ^ 20 < n ∨ 2 ^ Nat.log2 n ≠ n ∨ fieldAt b 12 4 ≠ 0
      (bad → Responds (.hsring d) s x r 1 [] fun u => u = h) ∧
      (¬ bad → x.priv = false → Responds (.hsring d) s x r 2 [] fun u => u = h) ∧
      (¬ bad → x.priv = true → isMemory base = true → isMemory (base + 32 * n - 1) = true →
        Responds (.hsring d) s x r 0 [] fun u => u = { h with hsRing := some (base, n) })) ∧
    (InTurn d 0x18 s x r →
      let n := fieldAt b 20 4
      let es := (List.range n).map fun k => (BitVec.ofNat 64 (fieldAt b (24 + 8 * k) 8) : DWord)
      let bad : Prop := b.length ≠ 24 + 8 * n ∨ 1 < fieldAt b 0 1 ∨ fieldAt b 1 7 ≠ 0 ∨ n = 0 ∨ 128 < n ∨
        ∃ e ∈ es, e.extractLsb' 8 24 ≠ 0
      (bad → Responds (.gate d) s x r 1 [] fun u => u = h) ∧
      (¬ bad → x.priv = false → Responds (.gate d) s x r 2 [] fun u => u = h) ∧
      (¬ bad → x.priv = true → Responds (.gate d) s x r 0 [] fun u => u = { h with siteA := u.siteA, siteB := u.siteB } ∧
        (u.site (fieldAt b 0 1)).gates = ⟨BitVec.ofNat 64 (fieldAt b 8 8), BitVec.ofNat 32 (fieldAt b 16 4), es⟩)) ∧
    (InTurn d 0x30 s x r →
      let k := fieldAt b 32 1
      let bad : Prop := b.length ≠ 36 ∨ 1 < k ∨ fieldAt b 33 3 ≠ 0
      let t := s.site k
      (bad → Responds (.attest d) s x r 1 [] fun u => u = h) ∧
      let e := b.take 32 ++ toBytes (BitVec.ofNat 64 k) 8 ++ sha512 t.image ++ sha512 t.config ++
        toBytes (t.fusedMin.setWidth 64) 8 ++ toBytes t.poleLoft 8 ++
        toBytes (BitVec.ofNat 64 (((s.cores.drop (96 * k)).take 96).countP (·.retired))) 8
      (¬ bad → t.keys = false → Responds (.attest d) s x r 3 [] fun u => u = h) ∧
      (¬ bad → t.keys = true → ∃ salt, salt.length = 64 ∧
        Responds (.attest d) s x r 0 (e ++ pssSign (Config.idKey k) e salt) fun u => u = { h with fresh := u.fresh }))

/-! ### Power, boot, errors and the environment (17 R400-R403, 18 R404-R415) -/

/-- A site's ROM runs the flash's image when every check passes; otherwise site A asks for a replacement, chunk by chunk, and site B
reads the flash again (R411).  The configuration record in the host's answer, on the site's port or on the other's, ends the boot
and fuses its minimum version (R391, R412, R397).  Two images of different versions stop both sites with an error each (R411).  The
model's choices: memory reads 0 at power-on (log 1), the layout of an image and of the error (log 61), what a power cycle leaves and
where a failed recovery begins again (log 62). -/
def Obligations.PowerAndBoot : Prop :=
  ∀ (s : State) (x : Nat), x < 2 →
    let t := s.site x
    (∀ u img, u = s.runImage x img →
      let o := s.site (1 - x)
      let other : Prop := (o.boot = .waitingConfig ∨ o.boot = .booted) ∧ Config.imageVersion o.image ≠ Config.imageVersion img
      u.flash = s.flash ∧ (u.site x).image = img ∧ (u.site x).keys = true ∧
      (u.site x).dpTrains = (if t.dpPresent then t.dpTrains + 1 else t.dpTrains) ∧
      (other → u.siteA.boot = .stopped ∧ u.siteB.boot = .stopped ∧ ∃ m n : BitVec 8 × BitVec 16,
        let error (k : Nat) (p : BitVec 8 × BitVec 16) : OutGram :=
          ⟨k, 0xFF020000000000000000000000000001, 47310, rosoinu p.1 0 0 p.2 0 []⟩
        u.outbox = s.outbox ++ [error 0 m, error 1 n]) ∧
      (¬ other → (u.site x).boot = .waitingConfig ∧ (u.site (1 - x)) = o)) ∧
    (t.boot = .off →
      (t.imageOk x s.flash = true → exec (.powerOn x) s = .next (s.runImage x s.flash)) ∧
      (x = 0 → t.imageOk 0 s.flash = false → ∃ u, exec (.powerOn x) s = .next u ∧ u.siteA.boot = .recovering [] none ∧
        u.flash = s.flash ∧ u.outbox = s.outbox ++ [⟨0, 0xFF020000000000000000000000000001, 47310,
          rosoinu 0x32 0 0 0 u.siteA.bootTag (toBytes Config.serial 8 ++ [0, 0, 0, 0])⟩]) ∧
      (x = 1 → t.imageOk 1 s.flash = false → ∃ u, exec (.powerOn x) s = .next u ∧ u = { s with siteB := u.siteB } ∧
        u.siteB = { s.siteB with boot := .rereading })) ∧
    (t.boot ≠ .off → ∃ u, exec (.powerOn x) s = .next u ∧ u.flash = s.flash ∧ u.waves = [] ∧ u.launches = [] ∧ u.mem = [] ∧
      u.sessions = [] ∧ u.alarm = false ∧ (u.site x).boot ≠ .booted ∧ u.siteA.fusedMin = s.siteA.fusedMin ∧
      u.siteB.fusedMin = s.siteB.fusedMin) ∧
    (s.siteB.boot = .rereading → s.siteB.imageOk 1 s.flash = true → exec .flashReread s = .next (s.runImage 1 s.flash)) ∧
    (s.siteB.boot = .rereading → s.siteB.imageOk 1 s.flash = false → exec .flashReread s = .next s) ∧
    (s.siteB.boot ≠ .rereading → exec .flashReread s = .next s) ∧
    (t.boot = .waitingConfig → ∃ u, exec (.bootRequestRepeat x) s = .next u ∧ u = { s with outbox := u.outbox } ∧
      u.outbox = s.outbox ++ [⟨x, 0xFF020000000000000000000000000001, 47310, rosoinu 0x31 0 0 0 t.bootTag
        (toBytes Config.serial 8 ++ (toBytes (BitVec.ofNat 32 x) 4 ++ toBytes (Config.imageVersion t.image) 4))⟩]) ∧
    (t.boot = .booted → exec (.bootRequestRepeat x) s = .next s) ∧
    (∀ d, s.listens d = false → exec (.bootreq d) s = .next s ∧ exec (.recover d) s = .next s) ∧
    (∀ d b, s.listens d = true → (d.port = x ∨ (d.port = 1 - x ∧ (s.site (1 - x)).boot = .booted)) → t.boot = .waitingConfig → t.answerTo 0x31 d = some b →
      (t.configOk b = false → exec (.bootreq d) s = .next s) ∧
      (t.configOk b = true → ∃ u, exec (.bootreq d) s = .next u ∧ u = { s with siteA := u.siteA, siteB := u.siteB, snapCtl := u.snapCtl } ∧
        u.site (1 - x) = s.site (1 - x) ∧ b.length = 576 ∧ b.getD 0 0 = 1 ∧
        u.site x = { t with boot := .booted, config := b, fusedMin := (u.site x).fusedMin } ∧
        (u.site x).fusedMin.toNat = max t.fusedMin.toNat (fieldAt b 4 2) ∧
        u.snapCtl.getLsbD 1 = (fieldAt b 3 1 % 2 = 1 : Bool))) ∧
    (∀ d b got len, s.listens d = true → d.port = 0 → s.siteA.boot = .recovering got len → s.siteA.answerTo 0x32 d = some b → 8 ≤ b.length →
      b.length ≤ 1440 → fieldAt b 0 4 = got.length →
      let total := fieldAt b 4 4
      let all := got ++ b.drop 8
      (∀ n, len = some n → n = total) →
      (all.length < total → ∃ u, exec (.recover d) s = .next u ∧ u.siteA.boot = .recovering all (some total) ∧ u.flash = s.flash) ∧
      (all.length = total → s.siteA.imageOk 0 all = true → exec (.recover d) s = .next ({ s with flash := all }.runImage 0 all)) ∧
      (all.length = total → s.siteA.imageOk 0 all = false →
        ∃ u, exec (.recover d) s = .next u ∧ u.siteA.boot = .recovering [] none ∧ u.flash = s.flash))

/-- A display that comes is trained (R400); the security alarm stops what shows and, with ERASE, the keys (R414); an overheated
cluster slows by 25 MHz down to 200, and returns to its class's clock (R403); the time trigger takes a snapshot (R415);
RAS_CNT1 counts a corrected error, RAS_CNT2 a transient one and RAS_CNT3 a line of memory or of a scratchpad whose repeat fails, which is poisoned, and RAS_CNT0
a message that no one takes; an error in a core that lasts is its lasting fault (R404, R410); a lasting fault retires a core and discards its crews, or
lowers a pole's ratio a step (R406, R407, R409).  The model's choices: one set of SNAP_ registers for the module (log 32), a
throttled cluster's clock (log 39), which error repeats, and TJMAX without a configuration record (log 45). -/
def Obligations.ErrorsAndEnvironment : Prop :=
  ∀ (s : State),
    (∀ x present, x < 2 → ∃ u, exec (.dpHotplug x present) s = .next u ∧ u = { s with siteA := u.siteA, siteB := u.siteB } ∧
      u.site x = { s.site x with dpPresent := present
                                 dpTrains := (s.site x).dpTrains + if present then 1 else 0 } ∧ u.site (1 - x) = s.site (1 - x)) ∧
    (∀ x, x < 2 → ∃ u, exec (.securityAlarm x) s = .next u ∧ u.alarm = true ∧ u.mem = s.mem ∧ u.waves = s.waves ∧
      ∀ y < 2, (u.site y).scan.out = [] ∧ (u.site y).keys = ((s.site y).keys && !(s.site y).cfg.getLsbD 25)) ∧
    (∀ k watts tj, k < s.clusters.length →
      let c := s.cluster k
      let limit := if (s.site (k / 12)).config = [] then 105 else ((s.site (k / 12)).cfg.extractLsb' 16 8).toNat
      let only (j : Instr) (z : Cluster) : Prop := ∃ u, exec j s = .next u ∧ u = { s with clusters := u.clusters } ∧
        u.cluster k = z ∧ ∀ n, n ≠ k → u.cluster n = s.cluster n
      (250 < watts ∨ limit < tj → only (.throttle k watts tj) { c with thr := true, mhz := max 200 (c.mhz - 25) } ∧
        exec (.throttleEnd k watts tj) s = .next s) ∧
      (watts ≤ 250 → tj ≤ limit → exec (.throttle k watts tj) s = .next s ∧
        (c.thr = true → only (.throttleEnd k watts tj) { c with thr := false, mhz := c.nominal }) ∧
        (c.thr = false → only (.throttleEnd k watts tj) c))) ∧
    (∃ u, exec .snapTime s = .next u ∧ u.mem = s.mem ∧ u.waves = s.waves ∧
      (s.snapCtl.getLsbD 0 = true → s.snapCtl.getLsbD 3 = true → s.snapTime.toNat ≤ s.timer.toNat →
        u.snapCtl.getLsbD 0 = false ∧ u.snapCtl.extractLsb' 1 15 = s.snapCtl.extractLsb' 1 15 ∧ u.snapCtl.extractLsb' 16 2 = 3 ∧
        u.snapAt = if s.snapTime.toNat < s.snapFrom.toNat then s.snapFrom else s.snapTime) ∧
      (s.snapCtl.getLsbD 0 = false ∨ s.snapCtl.getLsbD 3 = false ∨ s.timer.toNat < s.snapTime.toNat → u = s)) ∧
    (let more (n : Word) : Word := if n = 0xFFFFFFFF then n else n + 1
     let count (t : State) (x k : Nat) : Word := (t.site x).rasCnt.getD k 0
     let counts (x code : Nat) (u : State) : Prop := count u x code = more (count s x code) ∧
       (∀ k, k ≠ 0 → k ≠ code → count u x k = count s x k) ∧ ((∀ y ∈ s.sessions, y.priv = false) → count u x 0 = more (count s x 0))
     (∀ x addr, x < 2 → (s.site x).rasCnt.length = 16 → ∃ u, exec (.correctedError x addr) s = .next u ∧ u.mem = s.mem ∧
       u.waves = s.waves ∧ u.badLines = s.badLines ∧ counts x 1 u) ∧
     (∀ addr second x, isWindow addr = false → Config.homeSite addr = some x → x < 2 → (s.site x).rasCnt.length = 16 →
       ∃ u, exec (.uncorrectableError (.line addr) second) s = .next u ∧ u.mem = s.mem ∧ u.waves = s.waves ∧
         counts x (if second then 3 else 2) u ∧ (second = false → u.badLines = s.badLines) ∧
         (second = true → u.lineBad addr = true ∧ ∀ a, a / 64 ≠ addr / 64 → u.lineBad a = s.lineBad a)) ∧
     (∀ crew off second c, s.crew? crew = some c → c.core < 192 → (s.site (c.core / 96)).rasCnt.length = 16 →
       (c.scratchBytes ≤ off → exec (.uncorrectableError (.scratch crew off) second) s = .next s) ∧
       (off < c.scratchBytes → ∃ u d, exec (.uncorrectableError (.scratch crew off) second) s = .next u ∧ u.mem = s.mem ∧
         u.waves = s.waves ∧ counts (c.core / 96) (if second then 3 else 2) u ∧ u.crew? crew = some d ∧
         d = { c with badLines := d.badLines } ∧ (∀ k, k ≠ crew → u.crew? k = s.crew? k) ∧
         ∀ k, k ∈ d.badLines ↔ k ∈ c.badLines ∨ (second = true ∧ k = off / 64))) ∧
     (∀ core pole, core < 192 → (s.site (core / 96)).rasCnt.length = 16 →
       (∃ u, exec (.uncorrectableError (.lane core) false) s = .next u ∧ u.mem = s.mem ∧ u.waves = s.waves ∧ counts (core / 96) 2 u) ∧
       (∃ u, exec (.uncorrectableError (.pole core pole) false) s = .next u ∧ u.mem = s.mem ∧ u.waves = s.waves ∧
         counts (core / 96) 2 u) ∧
       exec (.uncorrectableError (.lane core) true) s = exec (.lastingLaneFault core) s ∧
       exec (.uncorrectableError (.pole core pole) true) s = exec (.lastingPoleFault core pole) s)) ∧
    (∀ core, core < 192 → s.cores.length = 192 →
      ((s.core core).retired = true → exec (.lastingLaneFault core) s = .next s) ∧
      ((s.core core).retired = false → ∃ u, exec (.lastingLaneFault core) s = .next u ∧ (u.core core).retired = true ∧
        (∀ c ∈ u.crews, c.core ≠ core) ∧ ∀ r, u.fits core r = false) ∧
      (∀ p, p < 16 →
        let st := (s.core core).poles.extractLsb' (2 * p) 2
        (st = 3 → exec (.lastingPoleFault core (.reg p)) s = .next s) ∧
        (st ≠ 3 → ∃ u, exec (.lastingPoleFault core (.reg p)) s = .next u ∧
          (u.core core).poles.extractLsb' (2 * p) 2 = st + 1 ∧
          ∀ q < 16, q ≠ p → (u.core core).poles.extractLsb' (2 * q) 2 = (s.core core).poles.extractLsb' (2 * q) 2)) ∧
      (∀ p, p < 512 →
        let st := SMap.get (s.site (core / 96)).loftPoles p
        (st = 3 → exec (.lastingPoleFault core (.loft p)) s = .next s) ∧
        (st ≠ 3 → SMap.wf (s.site (core / 96)).loftPoles = true → ∃ u, exec (.lastingPoleFault core (.loft p)) s = .next u ∧
          u.mem = s.mem ∧ u.waves = s.waves ∧ SMap.get (u.site (core / 96)).loftPoles p = st + 1 ∧
          ∀ q, q ≠ p → SMap.get (u.site (core / 96)).loftPoles q = SMap.get (s.site (core / 96)).loftPoles q)))
end

