-- ==== Sys2Proof/Laws/Issue.lean ====
section
/-!
SUPPORT. What the issue of an instruction comes to when nothing stops it: one lemma that every completion cites.
-/
namespace Sys2Proof.Laws
open Sys2Proof.Machine

/-- Lanes without a deferred POISON raise none. -/
theorem poisonTraps_nil (w : Wave) (ls : List Nat) (h : ∀ l ∈ ls, (w.lane l).poison = none) : poisonTraps w ls = [] := by
  unfold poisonTraps
  apply List.filterMap_eq_nil_iff.mpr
  intro l hl
  rw [h l hl]
  rfl

/-- No trap: nothing parks. -/
theorem takeTraps_nil (s : State) (w : Wave) (insn : LongWord) (pc : Word) : s.takeTraps w insn pc [] = s := by
  have : (laneIds.filterMap fun l => ([] : List LaneTrap).find? fun t => t.lane = l) = [] :=
    List.filterMap_eq_nil_iff.mpr fun _ _ => rfl
  unfold State.takeTraps
  simp only [this, groupTraps, List.filterMap_nil, List.foldl_nil, List.isEmpty_nil, if_true]

/-- An issue whose effect takes no trap, does not wait and does not stop completes with that effect. -/
theorem issue_completes {i : Instr} {s : State} {w : Wave} {body : Issue → Eff} {e : Eff} (h : Issues i s w)
    (hb : body (issueOf i s w) = e) (ht : e.traps = []) (hh : e.hold = false) (hs : e.stop = none) (hd : e.held = [] := by rfl) :
    issue i body s = .next (State.retire (issueOf i s w) e) := by
  have hx : (issueOf i s w).xs = w.settled.issueSet := rfl
  have hp : poisonTraps (w.settled.atIssue (instrHead i))
      ((issueOf i s w).xs.filter fun l => guardOf (instrHead i) ((issueOf i s w).w.lane l)) = [] := by
    apply poisonTraps_nil
    intro l hl
    exact h.clean l (hx ▸ (List.mem_filter.mp hl).1)
  have hl : w.settled.issueSet.isEmpty = false := by
    cases hq : w.settled.issueSet with
    | nil => exact absurd hq h.lanes
    | cons _ _ => rfl
  unfold issue
  simp only [h.cur, hl, h.tags]
  have hq : body (Issue.of s w.settled (instrHead i)) = e := hb
  simp only [hq]
  have hp' : poisonTraps (w.settled.atIssue (instrHead i)) ((Issue.of s w.settled (instrHead i)).xs.filter fun l =>
      guardOf (instrHead i) ((Issue.of s w.settled (instrHead i)).w.lane l)) = [] := hp
  have ha : ((Issue.of s w.settled (instrHead i)).xs.all e.held.contains) = false := by
    show w.settled.issueSet.all e.held.contains = false
    rw [hd]
    cases hq : w.settled.issueSet with
    | nil => exact absurd hq h.lanes
    | cons _ _ => rfl
  simp only [hp', ht, hs, hh, ha, Bool.and_false]
  have he : ({ e with traps := [] ++ [], hold := false, stop := none } : Eff) = e := by
    rcases e with ⟨⟩
    simp only at ht hh hs
    subst ht hh hs
    rfl
  show finishIssue (issueOf i s w) (instrWord i) ({ e with traps := [] ++ [], hold := false, stop := none } : Eff) = _
  rw [he]
  unfold finishIssue State.retire Issue.after
  simp only [hs, hh, ht, takeTraps_nil]
  have hn : decide (([] : List LaneTrap).length < (issueOf i s w).xs.length) = true := by
    rw [hx]
    simpa using List.length_pos_iff.mpr h.lanes
  rw [hn]
  cases e.s.wave? (issueOf i s w).w.key <;> rfl

end Sys2Proof.Laws
end

