-- ==== Sys2Proof/Laws/Element.lean ====
section
/-!
SUPPORT. What an element-wise instruction does when no element fails: its effect depends on the elements that it runs
alone, and takes no trap.
-/
namespace Sys2Proof.Laws
open Sys2Proof.Machine

/-- Elements that agree give the same result. -/
theorem runElems_congr {f g : Nat → ElemRes} : ∀ n k, (∀ j, k ≤ j → j < k + n → f j = g j) → runElems f k n = runElems g k n
  | 0, _, _ => rfl
  | n + 1, k, h => by
    have h0 := h k (Nat.le_refl k) (by omega)
    have ih := runElems_congr n (k + 1) fun j h1 h2 => h j (by omega) (by omega)
    simp only [runElems, h0, ih]

/-- Elements that all succeed give no trap. -/
theorem runElems_ok {f : Nat → ElemRes} : ∀ n k, (∀ j, k ≤ j → j < k + n → ∃ v, f j = .ok v) → (runElems f k n).trap = none
  | 0, _, _ => rfl
  | n + 1, k, h => by
    obtain ⟨v, h0⟩ := h k (Nat.le_refl k) (by omega)
    have ih := runElems_ok n (k + 1) fun j h1 h2 => h j (by omega) (by omega)
    simp only [runElems, h0]
    exact ih

/-- What the acting lanes of an issue run, element by element. -/
abbrev outsOf (i : Issue) (e : Ext) (f : Nat → Nat → ElemRes) : List (Nat × LaneOut) :=
  i.act.map fun l => (l, runElems (f l) i.first (e.count - i.first))

theorem outsOf_congr {i : Issue} {e : Ext} {f g : Nat → Nat → ElemRes}
    (h : ∀ l ∈ i.act, ∀ k, i.first ≤ k → k < e.count → f l k = g l k) : outsOf i e f = outsOf i e g := by
  apply List.map_congr_left
  intro l hl
  have := runElems_congr (f := f l) (g := g l) (e.count - i.first) i.first fun k h1 h2 => h l hl k h1 (by omega)
  simp [this]

theorem outsOf_noTrap {i : Issue} {e : Ext} {f : Nat → Nat → ElemRes}
    (h : ∀ l ∈ i.act, ∀ k, i.first ≤ k → k < e.count → ∃ v, f l k = .ok v) : outTraps (outsOf i e f) = [] := by
  unfold outTraps outsOf
  rw [List.filterMap_map]
  apply List.filterMap_eq_nil_iff.mpr
  intro l hl
  simp [runElems_ok (f := f l) (e.count - i.first) i.first fun k h1 h2 => h l hl k h1 (by omega)]

theorem elemEff_congr {i : Issue} {e : Ext} {n : Nat} {sx land : Bool} {d : Sel} {f g : Nat → Nat → ElemRes}
    (h : ∀ l ∈ i.act, ∀ k, i.first ≤ k → k < e.count → f l k = g l k) :
    elemEff i e n sx land d f = elemEff i e n sx land d g := by
  have := outsOf_congr h
  simp only [outsOf] at this
  simp only [elemEff, this]

theorem predEff_congr {i : Issue} {e : Ext} {p : Nat} {f g : Nat → Nat → ElemRes}
    (h : ∀ l ∈ i.act, ∀ k, i.first ≤ k → k < e.count → f l k = g l k) : predEff i e p f = predEff i e p g := by
  have := outsOf_congr h
  simp only [outsOf] at this
  simp only [predEff, this]

/-- An element-wise effect without a failing element takes no trap, does not wait and does not stop. -/
theorem elemEff_goes {i : Issue} {e : Ext} {n : Nat} {sx land : Bool} {d : Sel} {f : Nat → Nat → ElemRes}
    (h : ∀ l ∈ i.act, ∀ k, i.first ≤ k → k < e.count → ∃ v, f l k = .ok v) :
    (elemEff i e n sx land d f).traps = [] ∧ (elemEff i e n sx land d f).hold = false ∧
      (elemEff i e n sx land d f).stop = none ∧ (elemEff i e n sx land d f).held = [] := by
  have := outsOf_noTrap h
  simp only [outsOf] at this
  unfold elemEff
  simp only [this]
  split
  · split <;> exact ⟨rfl, rfl, rfl, rfl⟩
  · split <;> exact ⟨rfl, rfl, rfl, rfl⟩
  · exact ⟨rfl, rfl, rfl, rfl⟩

theorem predEff_goes {i : Issue} {e : Ext} {p : Nat} {f : Nat → Nat → ElemRes}
    (h : ∀ l ∈ i.act, ∀ k, i.first ≤ k → k < e.count → ∃ v, f l k = .ok v) :
    (predEff i e p f).traps = [] ∧ (predEff i e p f).hold = false ∧ (predEff i e p f).stop = none := by
  have := outsOf_noTrap h
  simp only [outsOf] at this
  exact ⟨this, rfl, rfl⟩

/-- An element-wise instruction completes with the values that its elements give. -/
theorem elem_completes {i : Instr} {s : State} {w : Wave} {e : Ext} {n : Nat} {sx land : Bool} {d : Sel}
    {f : Issue → Nat → Nat → ElemRes} {g : Nat → Nat → DWord × Flags} (h : Issues i s w)
    (hg : ∀ l ∈ (issueOf i s w).act, ∀ k, (issueOf i s w).first ≤ k → k < e.count → f (issueOf i s w) l k = .ok (g l k)) :
    issue i (fun q => elemEff q e n sx land d (f q)) s =
      .next (State.retire (issueOf i s w) (elemEff (issueOf i s w) e n sx land d fun l k => .ok (g l k))) := by
  have hgo := elemEff_goes (i := issueOf i s w) (e := e) (n := n) (sx := sx) (land := land) (d := d)
    (f := fun l k => .ok (g l k)) fun _ _ _ _ _ => ⟨_, rfl⟩
  exact issue_completes h (elemEff_congr hg) hgo.1 hgo.2.1 hgo.2.2.1 hgo.2.2.2

/-- The same for an instruction that writes predicates. -/
theorem pred_completes {i : Instr} {s : State} {w : Wave} {e : Ext} {p : Nat} {f : Issue → Nat → Nat → ElemRes}
    {g : Nat → Nat → DWord × Flags} (h : Issues i s w)
    (hg : ∀ l ∈ (issueOf i s w).act, ∀ k, (issueOf i s w).first ≤ k → k < e.count → f (issueOf i s w) l k = .ok (g l k)) :
    issue i (fun q => predEff q e p (f q)) s =
      .next (State.retire (issueOf i s w) (predEff (issueOf i s w) e p fun l k => .ok (g l k))) := by
  have hgo := predEff_goes (i := issueOf i s w) (e := e) (p := p) (f := fun l k => .ok (g l k)) fun _ _ _ _ _ => ⟨_, rfl⟩
  exact issue_completes h (predEff_congr hg) hgo.1 hgo.2.1 hgo.2.2

/-! ### Integer operands -/

/-- A 32-bit source supplies 32 bits. -/
theorem readSrc_lt {w : Wave} {e : Ext} {l k : Nat} {x : Sel} {a : DWord}
    (h : readSrc w e l k (.int 1) x = .ok a) : a.toNat < 2 ^ 32 := by
  have h32 : ∀ y : BitVec 32, (y.setWidth 64).toNat < 2 ^ 32 := fun y => by
    rw [BitVec.toNat_setWidth]; exact Nat.lt_of_le_of_lt (Nat.mod_le _ _) y.isLt
  cases x with
  | v r => simp only [readSrc, OpTy.regs] at h; cases h; exact h32 _
  | s r => simp only [readSrc, OpTy.regs] at h; cases h; exact h32 _
  | b b =>
    have hx : latchElem (w.latches.getD b.toNat {}) k false l = .ok a := h
    unfold latchElem at hx
    simp only [Bool.false_eq_true, if_false] at hx
    by_cases h1 : (w.latches.getD b.toNat {}).lost = true
    · rw [if_pos h1] at hx; cases hx
    rw [if_neg h1] at hx
    by_cases h2 : (w.latches.getD b.toNat {}).empty = true
    · rw [if_pos h2] at hx; cases hx
    rw [if_neg h2] at hx
    by_cases h3 : (w.latches.getD b.toNat {}).count ≤ k
    · rw [if_pos h3] at hx; cases hx
    rw [if_neg h3] at hx
    by_cases h4 : ((w.latches.getD b.toNat {}).wide != false) = true
    · rw [if_pos h4] at hx; cases hx
    rw [if_neg h4] at hx
    injection hx with hx
    rw [← hx]; exact h32 _
  | p p => simp only [readSrc, OpTy.small] at h; cases h; exact h32 _
  | inl i => simp only [readSrc, OpTy.small] at h; cases h; exact h32 _
  | q k => cases h; decide
  | m k => cases h; decide
  | bad k => cases h; decide

/-- A value that an operand of n registers can supply. -/
def Fits (n : Nat) (a : DWord) : Prop := n = 1 → a.toNat < 2 ^ 32

theorem readSrc_fits {w : Wave} {e : Ext} {l k n : Nat} {x : Sel} {a : DWord}
    (h : readSrc w e l k (.int n) x = .ok a) : Fits n a := by
  intro hn; subst hn; exact readSrc_lt h

/-- An instruction that writes a constant completes with it. -/
theorem gives0 {i : Instr} {e : Ext} {n : Nat} {sx : Bool} {d : Sel} {f : DWord} {F : DWord}
    (he : ∀ s, exec i s = issue i (fun q => elemEff q e n sx false d fun _ _ => .ok (F, 0)) s) (hf : F = f) :
    Gives0 i e n sx d f := by
  intro s w h
  subst hf
  show exec i s = _
  rw [he]
  exact elem_completes (g := fun _ _ => (F, 0)) h fun _ _ _ _ _ => rfl

/-- An instruction of one integer operand completes with the value of `f` where its own `F` agrees with it. -/
theorem gives1 {i : Instr} {e : Ext} {n : Nat} {sx : Bool} {d : Sel} {na : Nat} {a : Sel} {f F : DWord → DWord}
    (he : ∀ s, exec i s = issue i (fun q => elemEff q e n sx false d fun l k =>
      match readSrc q.w e l k (.int na) a with
      | .ok x => .ok (F x, 0)
      | .error d => .error (0x02, d)) s)
    (hf : ∀ x, Fits na x → F x = f x) : Gives1 i e n sx d (.int na) a f := by
  intro s w A h hA
  show exec i s = _
  rw [he]
  refine elem_completes (g := fun l k => (f (A l k), 0)) h fun l hl k h1 h2 => ?_
  have hr := hA l hl k h1 h2
  simp only [hr, hf _ (readSrc_fits hr)]

/-- The same for two operands. -/
theorem gives2 {i : Instr} {e : Ext} {n : Nat} {sx : Bool} {d : Sel} {na nb : Nat} {a b : Sel} {f F : DWord → DWord → DWord}
    (he : ∀ s, exec i s = issue i (fun q => elemEff q e n sx false d fun l k =>
      match read2 q.w e l k (.int na) (.int nb) a b with
      | .ok (x, y) => .ok (F x y, 0)
      | .error e => .error e) s)
    (hf : ∀ x y, Fits na x → Fits nb y → F x y = f x y) : Gives2 i e n sx d (.int na) a (.int nb) b f := by
  intro s w A B h hA hB
  show exec i s = _
  rw [he]
  refine elem_completes (g := fun l k => (f (A l k) (B l k), 0)) h fun l hl k h1 h2 => ?_
  have ha := hA l hl k h1 h2
  have hb := hB l hl k h1 h2
  simp only [read2, ha, hb, hf _ _ (readSrc_fits ha) (readSrc_fits hb)]

/-- The same for three operands. -/
theorem gives3 {i : Instr} {e : Ext} {n : Nat} {sx : Bool} {d : Sel} {na nb nc : Nat} {a b c : Sel}
    {f F : DWord → DWord → DWord → DWord}
    (he : ∀ s, exec i s = issue i (fun q => elemEff q e n sx false d fun l k =>
      match read3 q.w e l k (.int na) (.int nb) (.int nc) a b c with
      | .ok (x, y, z) => .ok (F x y z, 0)
      | .error e => .error e) s)
    (hf : ∀ x y z, Fits na x → Fits nb y → Fits nc z → F x y z = f x y z) :
    Gives3 i e n sx d (.int na) a (.int nb) b (.int nc) c f := by
  intro s w A B C h hA hB hC
  show exec i s = _
  rw [he]
  refine elem_completes (g := fun l k => (f (A l k) (B l k) (C l k), 0)) h fun l hl k h1 h2 => ?_
  have ha := hA l hl k h1 h2
  have hb := hB l hl k h1 h2
  have hc := hC l hl k h1 h2
  simp only [read3, ha, hb, hc, hf _ _ _ (readSrc_fits ha) (readSrc_fits hb) (readSrc_fits hc)]

end Sys2Proof.Laws
end

