-- ==== Sys2Proof/Laws/Encoding.lean ====
section
/-!
SUPPORT. The encoder and the decoder field by field: what each format of 02 R33-R38 reads from the word that the encoder
writes from it.
-/
namespace Sys2Proof.Laws

theorem decodeSel_encodeSel (x : Sel) : decodeSel (encodeSel x) = x := by
  cases x with
  | v r => revert r; decide +kernel
  | p r | s r | b r | q r | m r | bad r | inl r => revert r; decide

/-! ### Reading a field of a concatenation -/

/-- A field above the lowest part. -/
theorem ex_skip {n m : Nat} (y : BitVec n) (z : BitVec m) (s l : Nat) :
    (y ++ z).extractLsb' (m + s) l = y.extractLsb' s l := by
  ext i h
  simp [BitVec.getLsbD_append, Nat.add_assoc]

/-- The lowest part. -/
theorem ex_here {n m : Nat} (y : BitVec n) (z : BitVec m) : (y ++ z).extractLsb' 0 m = z := by
  ext i h
  simp [BitVec.getLsbD_append, h]

/-- A field within the lowest part. -/
theorem ex_low {n m : Nat} (y : BitVec n) (z : BitVec m) (s l : Nat) (h : s + l ≤ m) :
    (y ++ z).extractLsb' s l = z.extractLsb' s l := by
  ext i hi
  simp [BitVec.getLsbD_append, show s + i < m by omega]

/-- The whole of one part. -/
theorem ex_all {n : Nat} (y : BitVec n) : y.extractLsb' 0 n = y := by simp

theorem bit_skip {n m : Nat} (y : BitVec n) (z : BitVec m) (s : Nat) : (y ++ z).getLsbD (m + s) = y.getLsbD s := by
  simp [BitVec.getLsbD_append]

theorem bit_low {n m : Nat} (y : BitVec n) (z : BitVec m) (s : Nat) (h : s < m) : (y ++ z).getLsbD s = z.getLsbD s := by
  simp [BitVec.getLsbD_append, h]

theorem bit_here {n : Nat} (y : BitVec n) (b : Bool) : (y ++ bit1 b).getLsbD 0 = b := by
  rw [bit_low _ _ _ (by decide)]
  cases b <;> rfl

/-! ### The header (R33) -/

section Header
variable (h : Hdr) (fn : BitVec 6) (op : BitVec 8)

theorem hdr_tc :
    (encodeHdr h fn op).extractLsb' 26 8 = h.tc :=
  ((ex_skip _ _ 25 8).trans ((ex_skip _ _ 17 8).trans ((ex_skip _ _ 11 8).trans ((ex_skip _ _ 7 8).trans ((ex_skip _ _ 6 8).trans ((ex_skip _ _ 5 8).trans ((ex_skip _ _ 4 8).trans ((ex_skip _ _ 1 8).trans ((ex_skip _ _ 0 8).trans (ex_all _))))))))))
theorem hdr_tav :
    (encodeHdr h fn op).getLsbD 25 = h.tav :=
  ((bit_skip _ _ 24).trans ((bit_skip _ _ 16).trans ((bit_skip _ _ 10).trans ((bit_skip _ _ 6).trans ((bit_skip _ _ 5).trans ((bit_skip _ _ 4).trans ((bit_skip _ _ 3).trans ((bit_skip _ _ 0).trans (bit_here _ h.tav)))))))))
theorem hdr_tat :
    (encodeHdr h fn op).extractLsb' 22 3 = h.tat :=
  ((ex_skip _ _ 21 3).trans ((ex_skip _ _ 13 3).trans ((ex_skip _ _ 7 3).trans ((ex_skip _ _ 3 3).trans ((ex_skip _ _ 2 3).trans ((ex_skip _ _ 1 3).trans ((ex_skip _ _ 0 3).trans (ex_here _ _))))))))
theorem hdr_ch :
    (encodeHdr h fn op).getLsbD 21 = h.ch :=
  ((bit_skip _ _ 20).trans ((bit_skip _ _ 12).trans ((bit_skip _ _ 6).trans ((bit_skip _ _ 2).trans ((bit_skip _ _ 1).trans ((bit_skip _ _ 0).trans (bit_here _ h.ch)))))))
theorem hdr_ws :
    (encodeHdr h fn op).getLsbD 20 = h.ws :=
  ((bit_skip _ _ 19).trans ((bit_skip _ _ 11).trans ((bit_skip _ _ 5).trans ((bit_skip _ _ 1).trans ((bit_skip _ _ 0).trans (bit_here _ h.ws))))))
theorem hdr_gn :
    (encodeHdr h fn op).getLsbD 19 = h.gn :=
  ((bit_skip _ _ 18).trans ((bit_skip _ _ 10).trans ((bit_skip _ _ 4).trans ((bit_skip _ _ 0).trans (bit_here _ h.gn)))))
theorem hdr_gp :
    (encodeHdr h fn op).extractLsb' 15 4 = h.gp :=
  ((ex_skip _ _ 14 4).trans ((ex_skip _ _ 6 4).trans ((ex_skip _ _ 0 4).trans (ex_here _ _))))
theorem hdr_fn :
    (encodeHdr h fn op).extractLsb' 9 6 = fn :=
  ((ex_skip _ _ 8 6).trans ((ex_skip _ _ 0 6).trans (ex_here _ _)))
theorem hdr_op :
    (encodeHdr h fn op).extractLsb' 1 8 = op :=
  ((ex_skip _ _ 0 8).trans (ex_here _ _))

variable (a : BitVec 46)

theorem longOp_append : longOp (a ++ encodeHdr h fn op) = op :=
  (ex_low a _ 1 8 (by decide)).trans (hdr_op h fn op)
theorem longFn_append : longFn (a ++ encodeHdr h fn op) = fn :=
  (ex_low a _ 9 6 (by decide)).trans (hdr_fn h fn op)

/-- The header's fields are read as they were written. -/
theorem hdrOf_append : hdrOf (a ++ encodeHdr h fn op) = h := by
  have e1 := (ex_low a (encodeHdr h fn op) 26 8 (by decide)).trans (hdr_tc h fn op)
  have e2 := (bit_low a (encodeHdr h fn op) 25 (by decide)).trans (hdr_tav h fn op)
  have e3 := (ex_low a (encodeHdr h fn op) 22 3 (by decide)).trans (hdr_tat h fn op)
  have e4 := (bit_low a (encodeHdr h fn op) 21 (by decide)).trans (hdr_ch h fn op)
  have e5 := (bit_low a (encodeHdr h fn op) 20 (by decide)).trans (hdr_ws h fn op)
  have e6 := (bit_low a (encodeHdr h fn op) 19 (by decide)).trans (hdr_gn h fn op)
  have e7 := (ex_low a (encodeHdr h fn op) 15 4 (by decide)).trans (hdr_gp h fn op)
  exact congr (congr (congr (congr (congr (congr (congrArg Hdr.mk e1) e2) e3) e4) e5) e6) e7

end Header

/-! ### The formats (R35) -/

theorem sel {x : BitVec 9} {y : Sel} (h : x = encodeSel y) : decodeSel x = y := h ▸ decodeSel_encodeSel y

theorem lrOf_encode (x : LR) (op : BitVec 8) (fn : BitVec 6) (m : BitVec 2) :
    lrOf (m ++ x.rs ++ x.exc ++ x.exr ++ encodeSel x.c ++ encodeSel x.b ++
      encodeSel x.a ++ encodeSel x.d ++ encodeHdr x.h fn op) = x := by
  have e0 := hdrOf_append x.h fn op (m ++ x.rs ++ x.exc ++ x.exr ++ encodeSel x.c ++ encodeSel x.b ++
      encodeSel x.a ++ encodeSel x.d)
  generalize encodeHdr x.h fn op = H at *
  have e_rs : (m ++ x.rs ++ x.exc ++ x.exr ++ encodeSel x.c ++ encodeSel x.b ++
      encodeSel x.a ++ encodeSel x.d ++ H).extractLsb' 76 2 = x.rs :=
    ((ex_skip _ _ 42 2).trans ((ex_skip _ _ 33 2).trans ((ex_skip _ _ 24 2).trans ((ex_skip _ _ 15 2).trans ((ex_skip _ _ 6 2).trans ((ex_skip _ _ 3 2).trans ((ex_skip _ _ 0 2).trans (ex_here _ _))))))))
  have e_exc : (m ++ x.rs ++ x.exc ++ x.exr ++ encodeSel x.c ++ encodeSel x.b ++
      encodeSel x.a ++ encodeSel x.d ++ H).extractLsb' 73 3 = x.exc :=
    ((ex_skip _ _ 39 3).trans ((ex_skip _ _ 30 3).trans ((ex_skip _ _ 21 3).trans ((ex_skip _ _ 12 3).trans ((ex_skip _ _ 3 3).trans ((ex_skip _ _ 0 3).trans (ex_here _ _)))))))
  have e_exr : (m ++ x.rs ++ x.exc ++ x.exr ++ encodeSel x.c ++ encodeSel x.b ++
      encodeSel x.a ++ encodeSel x.d ++ H).extractLsb' 70 3 = x.exr :=
    ((ex_skip _ _ 36 3).trans ((ex_skip _ _ 27 3).trans ((ex_skip _ _ 18 3).trans ((ex_skip _ _ 9 3).trans ((ex_skip _ _ 0 3).trans (ex_here _ _))))))
  have e_c : (m ++ x.rs ++ x.exc ++ x.exr ++ encodeSel x.c ++ encodeSel x.b ++
      encodeSel x.a ++ encodeSel x.d ++ H).extractLsb' 61 9 = encodeSel x.c :=
    ((ex_skip _ _ 27 9).trans ((ex_skip _ _ 18 9).trans ((ex_skip _ _ 9 9).trans ((ex_skip _ _ 0 9).trans (ex_here _ _)))))
  have e_b : (m ++ x.rs ++ x.exc ++ x.exr ++ encodeSel x.c ++ encodeSel x.b ++
      encodeSel x.a ++ encodeSel x.d ++ H).extractLsb' 52 9 = encodeSel x.b :=
    ((ex_skip _ _ 18 9).trans ((ex_skip _ _ 9 9).trans ((ex_skip _ _ 0 9).trans (ex_here _ _))))
  have e_a : (m ++ x.rs ++ x.exc ++ x.exr ++ encodeSel x.c ++ encodeSel x.b ++
      encodeSel x.a ++ encodeSel x.d ++ H).extractLsb' 43 9 = encodeSel x.a :=
    ((ex_skip _ _ 9 9).trans ((ex_skip _ _ 0 9).trans (ex_here _ _)))
  have e_d : (m ++ x.rs ++ x.exc ++ x.exr ++ encodeSel x.c ++ encodeSel x.b ++
      encodeSel x.a ++ encodeSel x.d ++ H).extractLsb' 34 9 = encodeSel x.d :=
    ((ex_skip _ _ 0 9).trans (ex_here _ _))
  exact congr (congr (congr (congr (congr (congr (congr (congrArg LR.mk e0) e_rs) e_exc) e_exr) (sel e_c)) (sel e_b)) (sel e_a)) (sel e_d)

theorem liOf_encode (x : LI) (op : BitVec 8) (fn : BitVec 6) :
    liOf (x.imm ++ x.exc ++ x.exr ++ encodeSel x.a ++ encodeSel x.d ++ encodeHdr x.h fn op) = x := by
  have e0 := hdrOf_append x.h fn op (x.imm ++ x.exc ++ x.exr ++ encodeSel x.a ++ encodeSel x.d)
  generalize encodeHdr x.h fn op = H at *
  have e_imm : (x.imm ++ x.exc ++ x.exr ++ encodeSel x.a ++ encodeSel x.d ++ H).extractLsb' 58 22 = x.imm :=
    ((ex_skip _ _ 24 22).trans ((ex_skip _ _ 15 22).trans ((ex_skip _ _ 6 22).trans ((ex_skip _ _ 3 22).trans ((ex_skip _ _ 0 22).trans (ex_all _))))))
  have e_exc : (x.imm ++ x.exc ++ x.exr ++ encodeSel x.a ++ encodeSel x.d ++ H).extractLsb' 55 3 = x.exc :=
    ((ex_skip _ _ 21 3).trans ((ex_skip _ _ 12 3).trans ((ex_skip _ _ 3 3).trans ((ex_skip _ _ 0 3).trans (ex_here _ _)))))
  have e_exr : (x.imm ++ x.exc ++ x.exr ++ encodeSel x.a ++ encodeSel x.d ++ H).extractLsb' 52 3 = x.exr :=
    ((ex_skip _ _ 18 3).trans ((ex_skip _ _ 9 3).trans ((ex_skip _ _ 0 3).trans (ex_here _ _))))
  have e_a : (x.imm ++ x.exc ++ x.exr ++ encodeSel x.a ++ encodeSel x.d ++ H).extractLsb' 43 9 = encodeSel x.a :=
    ((ex_skip _ _ 9 9).trans ((ex_skip _ _ 0 9).trans (ex_here _ _)))
  have e_d : (x.imm ++ x.exc ++ x.exr ++ encodeSel x.a ++ encodeSel x.d ++ H).extractLsb' 34 9 = encodeSel x.d :=
    ((ex_skip _ _ 0 9).trans (ex_here _ _))
  exact congr (congr (congr (congr (congr (congrArg LI.mk e0) e_imm) e_exc) e_exr) (sel e_a)) (sel e_d)

theorem lkOf_encode (x : LK) (op : BitVec 8) (fn : BitVec 6) :
    lkOf (x.exc ++ x.exr ++ x.imm ++ encodeSel x.d ++ encodeHdr x.h fn op) = x := by
  have e0 := hdrOf_append x.h fn op (x.exc ++ x.exr ++ x.imm ++ encodeSel x.d)
  generalize encodeHdr x.h fn op = H at *
  have e_exc : (x.exc ++ x.exr ++ x.imm ++ encodeSel x.d ++ H).extractLsb' 77 3 = x.exc :=
    ((ex_skip _ _ 43 3).trans ((ex_skip _ _ 34 3).trans ((ex_skip _ _ 2 3).trans ((ex_skip _ _ 0 3).trans (ex_all _)))))
  have e_exr : (x.exc ++ x.exr ++ x.imm ++ encodeSel x.d ++ H).extractLsb' 75 2 = x.exr :=
    ((ex_skip _ _ 41 2).trans ((ex_skip _ _ 32 2).trans ((ex_skip _ _ 0 2).trans (ex_here _ _))))
  have e_imm : (x.exc ++ x.exr ++ x.imm ++ encodeSel x.d ++ H).extractLsb' 43 32 = x.imm :=
    ((ex_skip _ _ 9 32).trans ((ex_skip _ _ 0 32).trans (ex_here _ _)))
  have e_d : (x.exc ++ x.exr ++ x.imm ++ encodeSel x.d ++ H).extractLsb' 34 9 = encodeSel x.d :=
    ((ex_skip _ _ 0 9).trans (ex_here _ _))
  exact congr (congr (congr (congr (congrArg LK.mk e0) e_exc) e_exr) e_imm) (sel e_d)

theorem lmOf_encode (x : LM) (op : BitVec 8) (fn : BitVec 6) :
    lmOf (0#1 ++ x.scp ++ x.ord ++ x.sc ++ x.imm ++ encodeSel x.o ++ x.sb ++ encodeSel x.d ++ encodeHdr x.h fn op) = x := by
  have e0 := hdrOf_append x.h fn op (0#1 ++ x.scp ++ x.ord ++ x.sc ++ x.imm ++ encodeSel x.o ++ x.sb ++ encodeSel x.d)
  generalize encodeHdr x.h fn op = H at *
  have e_scp : (0#1 ++ x.scp ++ x.ord ++ x.sc ++ x.imm ++ encodeSel x.o ++ x.sb ++ encodeSel x.d ++ H).extractLsb' 76 3 = x.scp :=
    ((ex_skip _ _ 42 3).trans ((ex_skip _ _ 33 3).trans ((ex_skip _ _ 27 3).trans ((ex_skip _ _ 18 3).trans ((ex_skip _ _ 4 3).trans ((ex_skip _ _ 2 3).trans ((ex_skip _ _ 0 3).trans (ex_here _ _))))))))
  have e_ord : (0#1 ++ x.scp ++ x.ord ++ x.sc ++ x.imm ++ encodeSel x.o ++ x.sb ++ encodeSel x.d ++ H).extractLsb' 74 2 = x.ord :=
    ((ex_skip _ _ 40 2).trans ((ex_skip _ _ 31 2).trans ((ex_skip _ _ 25 2).trans ((ex_skip _ _ 16 2).trans ((ex_skip _ _ 2 2).trans ((ex_skip _ _ 0 2).trans (ex_here _ _)))))))
  have e_sc : (0#1 ++ x.scp ++ x.ord ++ x.sc ++ x.imm ++ encodeSel x.o ++ x.sb ++ encodeSel x.d ++ H).extractLsb' 72 2 = x.sc :=
    ((ex_skip _ _ 38 2).trans ((ex_skip _ _ 29 2).trans ((ex_skip _ _ 23 2).trans ((ex_skip _ _ 14 2).trans ((ex_skip _ _ 0 2).trans (ex_here _ _))))))
  have e_imm : (0#1 ++ x.scp ++ x.ord ++ x.sc ++ x.imm ++ encodeSel x.o ++ x.sb ++ encodeSel x.d ++ H).extractLsb' 58 14 = x.imm :=
    ((ex_skip _ _ 24 14).trans ((ex_skip _ _ 15 14).trans ((ex_skip _ _ 9 14).trans ((ex_skip _ _ 0 14).trans (ex_here _ _)))))
  have e_o : (0#1 ++ x.scp ++ x.ord ++ x.sc ++ x.imm ++ encodeSel x.o ++ x.sb ++ encodeSel x.d ++ H).extractLsb' 49 9 = encodeSel x.o :=
    ((ex_skip _ _ 15 9).trans ((ex_skip _ _ 6 9).trans ((ex_skip _ _ 0 9).trans (ex_here _ _))))
  have e_sb : (0#1 ++ x.scp ++ x.ord ++ x.sc ++ x.imm ++ encodeSel x.o ++ x.sb ++ encodeSel x.d ++ H).extractLsb' 43 6 = x.sb :=
    ((ex_skip _ _ 9 6).trans ((ex_skip _ _ 0 6).trans (ex_here _ _)))
  have e_d : (0#1 ++ x.scp ++ x.ord ++ x.sc ++ x.imm ++ encodeSel x.o ++ x.sb ++ encodeSel x.d ++ H).extractLsb' 34 9 = encodeSel x.d :=
    ((ex_skip _ _ 0 9).trans (ex_here _ _))
  exact congr (congr (congr (congr (congr (congr (congr (congrArg LM.mk e0) e_scp) e_ord) e_sc) e_imm) (sel e_o)) e_sb) (sel e_d)

theorem lbOf_encode (x : LB) (op : BitVec 8) (fn : BitVec 6) :
    lbOf (x.kind ++ encodeSel x.lk ++ x.tgt ++ encodeHdr x.h fn op) = x := by
  have e0 := hdrOf_append x.h fn op (x.kind ++ encodeSel x.lk ++ x.tgt)
  generalize encodeHdr x.h fn op = H at *
  have e_kind : (x.kind ++ encodeSel x.lk ++ x.tgt ++ H).extractLsb' 75 5 = x.kind :=
    ((ex_skip _ _ 41 5).trans ((ex_skip _ _ 9 5).trans ((ex_skip _ _ 0 5).trans (ex_all _))))
  have e_lk : (x.kind ++ encodeSel x.lk ++ x.tgt ++ H).extractLsb' 66 9 = encodeSel x.lk :=
    ((ex_skip _ _ 32 9).trans ((ex_skip _ _ 0 9).trans (ex_here _ _)))
  have e_tgt : (x.kind ++ encodeSel x.lk ++ x.tgt ++ H).extractLsb' 34 32 = x.tgt :=
    ((ex_skip _ _ 0 32).trans (ex_here _ _))
  exact congr (congr (congr (congrArg LB.mk e0) e_kind) (sel e_lk)) e_tgt

theorem leOf_encode (x : LE) (op : BitVec 8) (fn : BitVec 6) :
    leOf (x.f10 ++ encodeSel x.c ++ encodeSel x.b ++ encodeSel x.a ++ encodeSel x.d ++ encodeHdr x.h fn op) = x := by
  have e0 := hdrOf_append x.h fn op (x.f10 ++ encodeSel x.c ++ encodeSel x.b ++ encodeSel x.a ++ encodeSel x.d)
  generalize encodeHdr x.h fn op = H at *
  have e_f10 : (x.f10 ++ encodeSel x.c ++ encodeSel x.b ++ encodeSel x.a ++ encodeSel x.d ++ H).extractLsb' 70 10 = x.f10 :=
    ((ex_skip _ _ 36 10).trans ((ex_skip _ _ 27 10).trans ((ex_skip _ _ 18 10).trans ((ex_skip _ _ 9 10).trans ((ex_skip _ _ 0 10).trans (ex_all _))))))
  have e_c : (x.f10 ++ encodeSel x.c ++ encodeSel x.b ++ encodeSel x.a ++ encodeSel x.d ++ H).extractLsb' 61 9 = encodeSel x.c :=
    ((ex_skip _ _ 27 9).trans ((ex_skip _ _ 18 9).trans ((ex_skip _ _ 9 9).trans ((ex_skip _ _ 0 9).trans (ex_here _ _)))))
  have e_b : (x.f10 ++ encodeSel x.c ++ encodeSel x.b ++ encodeSel x.a ++ encodeSel x.d ++ H).extractLsb' 52 9 = encodeSel x.b :=
    ((ex_skip _ _ 18 9).trans ((ex_skip _ _ 9 9).trans ((ex_skip _ _ 0 9).trans (ex_here _ _))))
  have e_a : (x.f10 ++ encodeSel x.c ++ encodeSel x.b ++ encodeSel x.a ++ encodeSel x.d ++ H).extractLsb' 43 9 = encodeSel x.a :=
    ((ex_skip _ _ 9 9).trans ((ex_skip _ _ 0 9).trans (ex_here _ _)))
  have e_d : (x.f10 ++ encodeSel x.c ++ encodeSel x.b ++ encodeSel x.a ++ encodeSel x.d ++ H).extractLsb' 34 9 = encodeSel x.d :=
    ((ex_skip _ _ 0 9).trans (ex_here _ _))
  exact congr (congr (congr (congr (congr (congrArg LE.mk e0) e_f10) (sel e_c)) (sel e_b)) (sel e_a)) (sel e_d)

/-- MOD of LR. -/
theorem longMod_encode (x : LR) (op : BitVec 8) (fn : BitVec 6) (m : BitVec 2) :
    longMod (m ++ x.rs ++ x.exc ++ x.exr ++ encodeSel x.c ++ encodeSel x.b ++ encodeSel x.a ++ encodeSel x.d ++
      encodeHdr x.h fn op) = m :=
  ((ex_skip _ _ 44 2).trans ((ex_skip _ _ 35 2).trans ((ex_skip _ _ 26 2).trans ((ex_skip _ _ 17 2).trans ((ex_skip _ _ 8 2).trans ((ex_skip _ _ 5 2).trans ((ex_skip _ _ 2 2).trans ((ex_skip _ _ 0 2).trans (ex_all _)))))))))

/-- LM bit [79]. -/
theorem lmTop_encode (x : LM) (op : BitVec 8) (fn : BitVec 6) :
    (0#1 ++ x.scp ++ x.ord ++ x.sc ++ x.imm ++ encodeSel x.o ++ x.sb ++ encodeSel x.d ++ encodeHdr x.h fn op).getLsbD 79 =
      false :=
  ((bit_skip _ _ 45).trans ((bit_skip _ _ 36).trans ((bit_skip _ _ 30).trans ((bit_skip _ _ 21).trans ((bit_skip _ _ 7).trans ((bit_skip _ _ 5).trans ((bit_skip _ _ 3).trans ((bit_skip _ _ 0).trans rfl))))))))

/-! ### The short form (R37) -/

section Short
variable (x : SH) (ops : BitVec 4)

theorem sh_top :
    (0#1 ++ bit1 x.ch ++ bit1 x.ws ++ bit1 x.twv ++ x.twt ++ bit1 x.gn ++ x.gp ++ x.exc ++ x.exr ++ encodeSel x.b ++ x.da ++
      ops ++ 0#1).getLsbD 39 = false :=
  ((bit_skip _ _ 38).trans ((bit_skip _ _ 34).trans ((bit_skip _ _ 26).trans ((bit_skip _ _ 17).trans ((bit_skip _ _ 14).trans ((bit_skip _ _ 11).trans ((bit_skip _ _ 7).trans ((bit_skip _ _ 6).trans ((bit_skip _ _ 3).trans ((bit_skip _ _ 2).trans ((bit_skip _ _ 1).trans ((bit_skip _ _ 0).trans rfl))))))))))))
theorem sh_ch :
    (0#1 ++ bit1 x.ch ++ bit1 x.ws ++ bit1 x.twv ++ x.twt ++ bit1 x.gn ++ x.gp ++ x.exc ++ x.exr ++ encodeSel x.b ++ x.da ++
      ops ++ 0#1).getLsbD 38 = x.ch :=
  ((bit_skip _ _ 37).trans ((bit_skip _ _ 33).trans ((bit_skip _ _ 25).trans ((bit_skip _ _ 16).trans ((bit_skip _ _ 13).trans ((bit_skip _ _ 10).trans ((bit_skip _ _ 6).trans ((bit_skip _ _ 5).trans ((bit_skip _ _ 2).trans ((bit_skip _ _ 1).trans ((bit_skip _ _ 0).trans (bit_here _ x.ch))))))))))))
theorem sh_ws :
    (0#1 ++ bit1 x.ch ++ bit1 x.ws ++ bit1 x.twv ++ x.twt ++ bit1 x.gn ++ x.gp ++ x.exc ++ x.exr ++ encodeSel x.b ++ x.da ++
      ops ++ 0#1).getLsbD 37 = x.ws :=
  ((bit_skip _ _ 36).trans ((bit_skip _ _ 32).trans ((bit_skip _ _ 24).trans ((bit_skip _ _ 15).trans ((bit_skip _ _ 12).trans ((bit_skip _ _ 9).trans ((bit_skip _ _ 5).trans ((bit_skip _ _ 4).trans ((bit_skip _ _ 1).trans ((bit_skip _ _ 0).trans (bit_here _ x.ws)))))))))))
theorem sh_twv :
    (0#1 ++ bit1 x.ch ++ bit1 x.ws ++ bit1 x.twv ++ x.twt ++ bit1 x.gn ++ x.gp ++ x.exc ++ x.exr ++ encodeSel x.b ++ x.da ++
      ops ++ 0#1).getLsbD 36 = x.twv :=
  ((bit_skip _ _ 35).trans ((bit_skip _ _ 31).trans ((bit_skip _ _ 23).trans ((bit_skip _ _ 14).trans ((bit_skip _ _ 11).trans ((bit_skip _ _ 8).trans ((bit_skip _ _ 4).trans ((bit_skip _ _ 3).trans ((bit_skip _ _ 0).trans (bit_here _ x.twv))))))))))
theorem sh_twt :
    (0#1 ++ bit1 x.ch ++ bit1 x.ws ++ bit1 x.twv ++ x.twt ++ bit1 x.gn ++ x.gp ++ x.exc ++ x.exr ++ encodeSel x.b ++ x.da ++
      ops ++ 0#1).extractLsb' 33 3 = x.twt :=
  ((ex_skip _ _ 32 3).trans ((ex_skip _ _ 28 3).trans ((ex_skip _ _ 20 3).trans ((ex_skip _ _ 11 3).trans ((ex_skip _ _ 8 3).trans ((ex_skip _ _ 5 3).trans ((ex_skip _ _ 1 3).trans ((ex_skip _ _ 0 3).trans (ex_here _ _)))))))))
theorem sh_gn :
    (0#1 ++ bit1 x.ch ++ bit1 x.ws ++ bit1 x.twv ++ x.twt ++ bit1 x.gn ++ x.gp ++ x.exc ++ x.exr ++ encodeSel x.b ++ x.da ++
      ops ++ 0#1).getLsbD 32 = x.gn :=
  ((bit_skip _ _ 31).trans ((bit_skip _ _ 27).trans ((bit_skip _ _ 19).trans ((bit_skip _ _ 10).trans ((bit_skip _ _ 7).trans ((bit_skip _ _ 4).trans ((bit_skip _ _ 0).trans (bit_here _ x.gn))))))))
theorem sh_gp :
    (0#1 ++ bit1 x.ch ++ bit1 x.ws ++ bit1 x.twv ++ x.twt ++ bit1 x.gn ++ x.gp ++ x.exc ++ x.exr ++ encodeSel x.b ++ x.da ++
      ops ++ 0#1).extractLsb' 28 4 = x.gp :=
  ((ex_skip _ _ 27 4).trans ((ex_skip _ _ 23 4).trans ((ex_skip _ _ 15 4).trans ((ex_skip _ _ 6 4).trans ((ex_skip _ _ 3 4).trans ((ex_skip _ _ 0 4).trans (ex_here _ _)))))))
theorem sh_exc :
    (0#1 ++ bit1 x.ch ++ bit1 x.ws ++ bit1 x.twv ++ x.twt ++ bit1 x.gn ++ x.gp ++ x.exc ++ x.exr ++ encodeSel x.b ++ x.da ++
      ops ++ 0#1).extractLsb' 25 3 = x.exc :=
  ((ex_skip _ _ 24 3).trans ((ex_skip _ _ 20 3).trans ((ex_skip _ _ 12 3).trans ((ex_skip _ _ 3 3).trans ((ex_skip _ _ 0 3).trans (ex_here _ _))))))
theorem sh_exr :
    (0#1 ++ bit1 x.ch ++ bit1 x.ws ++ bit1 x.twv ++ x.twt ++ bit1 x.gn ++ x.gp ++ x.exc ++ x.exr ++ encodeSel x.b ++ x.da ++
      ops ++ 0#1).extractLsb' 22 3 = x.exr :=
  ((ex_skip _ _ 21 3).trans ((ex_skip _ _ 17 3).trans ((ex_skip _ _ 9 3).trans ((ex_skip _ _ 0 3).trans (ex_here _ _)))))
theorem sh_b :
    (0#1 ++ bit1 x.ch ++ bit1 x.ws ++ bit1 x.twv ++ x.twt ++ bit1 x.gn ++ x.gp ++ x.exc ++ x.exr ++ encodeSel x.b ++ x.da ++
      ops ++ 0#1).extractLsb' 13 9 = encodeSel x.b :=
  ((ex_skip _ _ 12 9).trans ((ex_skip _ _ 8 9).trans ((ex_skip _ _ 0 9).trans (ex_here _ _))))
theorem sh_da :
    (0#1 ++ bit1 x.ch ++ bit1 x.ws ++ bit1 x.twv ++ x.twt ++ bit1 x.gn ++ x.gp ++ x.exc ++ x.exr ++ encodeSel x.b ++ x.da ++
      ops ++ 0#1).extractLsb' 5 8 = x.da :=
  ((ex_skip _ _ 4 8).trans ((ex_skip _ _ 0 8).trans (ex_here _ _)))
theorem sh_ops :
    (0#1 ++ bit1 x.ch ++ bit1 x.ws ++ bit1 x.twv ++ x.twt ++ bit1 x.gn ++ x.gp ++ x.exc ++ x.exr ++ encodeSel x.b ++ x.da ++
      ops ++ 0#1).extractLsb' 1 4 = ops :=
  ((ex_skip _ _ 0 4).trans (ex_here _ _))
theorem sh_low :
    (0#1 ++ bit1 x.ch ++ bit1 x.ws ++ bit1 x.twv ++ x.twt ++ bit1 x.gn ++ x.gp ++ x.exc ++ x.exr ++ encodeSel x.b ++ x.da ++
      ops ++ 0#1).getLsbD 0 = false :=
  (bit_low _ _ 0 (by decide)).trans rfl

/-- The short form's fields are read as they were written. -/
theorem shOf_encode :
    shOf (0#1 ++ bit1 x.ch ++ bit1 x.ws ++ bit1 x.twv ++ x.twt ++ bit1 x.gn ++ x.gp ++ x.exc ++ x.exr ++ encodeSel x.b ++ x.da ++
      ops ++ 0#1) = x :=
  congr (congr (congr (congr (congr (congr (congr (congr (congr (congrArg SH.mk (sh_ch x ops)) (sh_ws x ops))
    (sh_twv x ops)) (sh_twt x ops)) (sh_gn x ops)) (sh_gp x ops)) (sh_exc x ops)) (sh_exr x ops))
    (sel (sh_b x ops))) (sh_da x ops)

end Short

end Sys2Proof.Laws
end

