-- ==== Sys2Proof/Laws/State.lean ====
section
/-!
SUPPORT. What each update of the state leaves alone, field by field, and what it changes.
-/
namespace Sys2Proof.Laws
open Sys2Proof.Machine

/-! ### setWave -/

@[simp] theorem setWave_mem (s : State) (w : Wave) : (s.setWave w).mem = s.mem := rfl
@[simp] theorem setWave_badLines (s : State) (w : Wave) : (s.setWave w).badLines = s.badLines := rfl
@[simp] theorem setWave_inflight (s : State) (w : Wave) : (s.setWave w).inflight = s.inflight := rfl
@[simp] theorem setWave_nextId (s : State) (w : Wave) : (s.setWave w).nextId = s.nextId := rfl
@[simp] theorem setWave_crews (s : State) (w : Wave) : (s.setWave w).crews = s.crews := rfl
@[simp] theorem setWave_cores (s : State) (w : Wave) : (s.setWave w).cores = s.cores := rfl
@[simp] theorem setWave_clusters (s : State) (w : Wave) : (s.setWave w).clusters = s.clusters := rfl
@[simp] theorem setWave_siteA (s : State) (w : Wave) : (s.setWave w).siteA = s.siteA := rfl
@[simp] theorem setWave_siteB (s : State) (w : Wave) : (s.setWave w).siteB = s.siteB := rfl
@[simp] theorem setWave_launches (s : State) (w : Wave) : (s.setWave w).launches = s.launches := rfl
@[simp] theorem setWave_gangs (s : State) (w : Wave) : (s.setWave w).gangs = s.gangs := rfl
@[simp] theorem setWave_gangDone (s : State) (w : Wave) : (s.setWave w).gangDone = s.gangDone := rfl
@[simp] theorem setWave_offers (s : State) (w : Wave) : (s.setWave w).offers = s.offers := rfl
@[simp] theorem setWave_joins (s : State) (w : Wave) : (s.setWave w).joins = s.joins := rfl
@[simp] theorem setWave_fires (s : State) (w : Wave) : (s.setWave w).fires = s.fires := rfl
@[simp] theorem setWave_waiters (s : State) (w : Wave) : (s.setWave w).waiters = s.waiters := rfl
@[simp] theorem setWave_dsWrites (s : State) (w : Wave) : (s.setWave w).dsWrites = s.dsWrites := rfl
@[simp] theorem setWave_flows (s : State) (w : Wave) : (s.setWave w).flows = s.flows := rfl
@[simp] theorem setWave_pause (s : State) (w : Wave) : (s.setWave w).pause = s.pause := rfl
@[simp] theorem setWave_paused (s : State) (w : Wave) : (s.setWave w).paused = s.paused := rfl
@[simp] theorem setWave_linkState (s : State) (w : Wave) : (s.setWave w).linkState = s.linkState := rfl
@[simp] theorem setWave_training (s : State) (w : Wave) : (s.setWave w).training = s.training := rfl
@[simp] theorem setWave_sideband (s : State) (w : Wave) : (s.setWave w).sideband = s.sideband := rfl
@[simp] theorem setWave_sessions (s : State) (w : Wave) : (s.setWave w).sessions = s.sessions := rfl
@[simp] theorem setWave_lastSession (s : State) (w : Wave) : (s.setWave w).lastSession = s.lastSession := rfl
@[simp] theorem setWave_messages (s : State) (w : Wave) : (s.setWave w).messages = s.messages := rfl
@[simp] theorem setWave_outbox (s : State) (w : Wave) : (s.setWave w).outbox = s.outbox := rfl
@[simp] theorem setWave_timer (s : State) (w : Wave) : (s.setWave w).timer = s.timer := rfl
@[simp] theorem setWave_elapsed (s : State) (w : Wave) : (s.setWave w).elapsed = s.elapsed := rfl
@[simp] theorem setWave_timerFrac (s : State) (w : Wave) : (s.setWave w).timerFrac = s.timerFrac := rfl
@[simp] theorem setWave_issues (s : State) (w : Wave) : (s.setWave w).issues = s.issues := rfl
@[simp] theorem setWave_opp (s : State) (w : Wave) : (s.setWave w).opp = s.opp := rfl
@[simp] theorem setWave_snapCtl (s : State) (w : Wave) : (s.setWave w).snapCtl = s.snapCtl := rfl
@[simp] theorem setWave_snapTime (s : State) (w : Wave) : (s.setWave w).snapTime = s.snapTime := rfl
@[simp] theorem setWave_snapAt (s : State) (w : Wave) : (s.setWave w).snapAt = s.snapAt := rfl
@[simp] theorem setWave_snapSel (s : State) (w : Wave) : (s.setWave w).snapSel = s.snapSel := rfl
@[simp] theorem setWave_snapFrom (s : State) (w : Wave) : (s.setWave w).snapFrom = s.snapFrom := rfl
@[simp] theorem setWave_snapDraw (s : State) (w : Wave) : (s.setWave w).snapDraw = s.snapDraw := rfl
@[simp] theorem setWave_hsCount (s : State) (w : Wave) : (s.setWave w).hsCount = s.hsCount := rfl
@[simp] theorem setWave_hsRing (s : State) (w : Wave) : (s.setWave w).hsRing = s.hsRing := rfl
@[simp] theorem setWave_launched (s : State) (w : Wave) : (s.setWave w).launched = s.launched := rfl
@[simp] theorem setWave_alarm (s : State) (w : Wave) : (s.setWave w).alarm = s.alarm := rfl
@[simp] theorem setWave_flash (s : State) (w : Wave) : (s.setWave w).flash = s.flash := rfl
@[simp] theorem setWave_retired (s : State) (w : Wave) : (s.setWave w).retired = s.retired := rfl
@[simp] theorem setWave_agenda (s : State) (w : Wave) : (s.setWave w).agenda = s.agenda := rfl
@[simp] theorem setWave_fresh (s : State) (w : Wave) : (s.setWave w).fresh = s.fresh := rfl
@[simp] theorem setWave_moves (s : State) (w : Wave) : (s.setWave w).moves = s.moves := rfl
@[simp] theorem setWave_cur (s : State) (w : Wave) : (s.setWave w).cur = s.cur := rfl
@[simp] theorem setWave_turn (s : State) (w : Wave) : (s.setWave w).turn = s.turn := rfl
@[simp] theorem setWave_held (s : State) (w : Wave) : (s.setWave w).held = s.held := rfl

/-! ### setCrew -/

@[simp] theorem setCrew_mem (s : State) (c : Crew) : (s.setCrew c).mem = s.mem := rfl
@[simp] theorem setCrew_badLines (s : State) (c : Crew) : (s.setCrew c).badLines = s.badLines := rfl
@[simp] theorem setCrew_inflight (s : State) (c : Crew) : (s.setCrew c).inflight = s.inflight := rfl
@[simp] theorem setCrew_nextId (s : State) (c : Crew) : (s.setCrew c).nextId = s.nextId := rfl
@[simp] theorem setCrew_waves (s : State) (c : Crew) : (s.setCrew c).waves = s.waves := rfl
@[simp] theorem setCrew_cores (s : State) (c : Crew) : (s.setCrew c).cores = s.cores := rfl
@[simp] theorem setCrew_clusters (s : State) (c : Crew) : (s.setCrew c).clusters = s.clusters := rfl
@[simp] theorem setCrew_siteA (s : State) (c : Crew) : (s.setCrew c).siteA = s.siteA := rfl
@[simp] theorem setCrew_siteB (s : State) (c : Crew) : (s.setCrew c).siteB = s.siteB := rfl
@[simp] theorem setCrew_launches (s : State) (c : Crew) : (s.setCrew c).launches = s.launches := rfl
@[simp] theorem setCrew_gangs (s : State) (c : Crew) : (s.setCrew c).gangs = s.gangs := rfl
@[simp] theorem setCrew_gangDone (s : State) (c : Crew) : (s.setCrew c).gangDone = s.gangDone := rfl
@[simp] theorem setCrew_offers (s : State) (c : Crew) : (s.setCrew c).offers = s.offers := rfl
@[simp] theorem setCrew_joins (s : State) (c : Crew) : (s.setCrew c).joins = s.joins := rfl
@[simp] theorem setCrew_fires (s : State) (c : Crew) : (s.setCrew c).fires = s.fires := rfl
@[simp] theorem setCrew_waiters (s : State) (c : Crew) : (s.setCrew c).waiters = s.waiters := rfl
@[simp] theorem setCrew_dsWrites (s : State) (c : Crew) : (s.setCrew c).dsWrites = s.dsWrites := rfl
@[simp] theorem setCrew_flows (s : State) (c : Crew) : (s.setCrew c).flows = s.flows := rfl
@[simp] theorem setCrew_pause (s : State) (c : Crew) : (s.setCrew c).pause = s.pause := rfl
@[simp] theorem setCrew_paused (s : State) (c : Crew) : (s.setCrew c).paused = s.paused := rfl
@[simp] theorem setCrew_linkState (s : State) (c : Crew) : (s.setCrew c).linkState = s.linkState := rfl
@[simp] theorem setCrew_training (s : State) (c : Crew) : (s.setCrew c).training = s.training := rfl
@[simp] theorem setCrew_sideband (s : State) (c : Crew) : (s.setCrew c).sideband = s.sideband := rfl
@[simp] theorem setCrew_sessions (s : State) (c : Crew) : (s.setCrew c).sessions = s.sessions := rfl
@[simp] theorem setCrew_lastSession (s : State) (c : Crew) : (s.setCrew c).lastSession = s.lastSession := rfl
@[simp] theorem setCrew_messages (s : State) (c : Crew) : (s.setCrew c).messages = s.messages := rfl
@[simp] theorem setCrew_outbox (s : State) (c : Crew) : (s.setCrew c).outbox = s.outbox := rfl
@[simp] theorem setCrew_timer (s : State) (c : Crew) : (s.setCrew c).timer = s.timer := rfl
@[simp] theorem setCrew_elapsed (s : State) (c : Crew) : (s.setCrew c).elapsed = s.elapsed := rfl
@[simp] theorem setCrew_timerFrac (s : State) (c : Crew) : (s.setCrew c).timerFrac = s.timerFrac := rfl
@[simp] theorem setCrew_issues (s : State) (c : Crew) : (s.setCrew c).issues = s.issues := rfl
@[simp] theorem setCrew_opp (s : State) (c : Crew) : (s.setCrew c).opp = s.opp := rfl
@[simp] theorem setCrew_snapCtl (s : State) (c : Crew) : (s.setCrew c).snapCtl = s.snapCtl := rfl
@[simp] theorem setCrew_snapTime (s : State) (c : Crew) : (s.setCrew c).snapTime = s.snapTime := rfl
@[simp] theorem setCrew_snapAt (s : State) (c : Crew) : (s.setCrew c).snapAt = s.snapAt := rfl
@[simp] theorem setCrew_snapSel (s : State) (c : Crew) : (s.setCrew c).snapSel = s.snapSel := rfl
@[simp] theorem setCrew_snapFrom (s : State) (c : Crew) : (s.setCrew c).snapFrom = s.snapFrom := rfl
@[simp] theorem setCrew_snapDraw (s : State) (c : Crew) : (s.setCrew c).snapDraw = s.snapDraw := rfl
@[simp] theorem setCrew_hsCount (s : State) (c : Crew) : (s.setCrew c).hsCount = s.hsCount := rfl
@[simp] theorem setCrew_hsRing (s : State) (c : Crew) : (s.setCrew c).hsRing = s.hsRing := rfl
@[simp] theorem setCrew_launched (s : State) (c : Crew) : (s.setCrew c).launched = s.launched := rfl
@[simp] theorem setCrew_alarm (s : State) (c : Crew) : (s.setCrew c).alarm = s.alarm := rfl
@[simp] theorem setCrew_flash (s : State) (c : Crew) : (s.setCrew c).flash = s.flash := rfl
@[simp] theorem setCrew_retired (s : State) (c : Crew) : (s.setCrew c).retired = s.retired := rfl
@[simp] theorem setCrew_agenda (s : State) (c : Crew) : (s.setCrew c).agenda = s.agenda := rfl
@[simp] theorem setCrew_fresh (s : State) (c : Crew) : (s.setCrew c).fresh = s.fresh := rfl
@[simp] theorem setCrew_moves (s : State) (c : Crew) : (s.setCrew c).moves = s.moves := rfl
@[simp] theorem setCrew_cur (s : State) (c : Crew) : (s.setCrew c).cur = s.cur := rfl
@[simp] theorem setCrew_turn (s : State) (c : Crew) : (s.setCrew c).turn = s.turn := rfl
@[simp] theorem setCrew_held (s : State) (c : Crew) : (s.setCrew c).held = s.held := rfl

/-! ### updWave -/

@[simp] theorem updWave_mem (s : State) (k : Nat) (f : Wave → Wave) : (s.updWave k f).mem = s.mem := by
  unfold State.updWave; split <;> rfl
@[simp] theorem updWave_badLines (s : State) (k : Nat) (f : Wave → Wave) : (s.updWave k f).badLines = s.badLines := by
  unfold State.updWave; split <;> rfl
@[simp] theorem updWave_inflight (s : State) (k : Nat) (f : Wave → Wave) : (s.updWave k f).inflight = s.inflight := by
  unfold State.updWave; split <;> rfl
@[simp] theorem updWave_nextId (s : State) (k : Nat) (f : Wave → Wave) : (s.updWave k f).nextId = s.nextId := by
  unfold State.updWave; split <;> rfl
@[simp] theorem updWave_crews (s : State) (k : Nat) (f : Wave → Wave) : (s.updWave k f).crews = s.crews := by
  unfold State.updWave; split <;> rfl
@[simp] theorem updWave_cores (s : State) (k : Nat) (f : Wave → Wave) : (s.updWave k f).cores = s.cores := by
  unfold State.updWave; split <;> rfl
@[simp] theorem updWave_clusters (s : State) (k : Nat) (f : Wave → Wave) : (s.updWave k f).clusters = s.clusters := by
  unfold State.updWave; split <;> rfl
@[simp] theorem updWave_siteA (s : State) (k : Nat) (f : Wave → Wave) : (s.updWave k f).siteA = s.siteA := by
  unfold State.updWave; split <;> rfl
@[simp] theorem updWave_siteB (s : State) (k : Nat) (f : Wave → Wave) : (s.updWave k f).siteB = s.siteB := by
  unfold State.updWave; split <;> rfl
@[simp] theorem updWave_launches (s : State) (k : Nat) (f : Wave → Wave) : (s.updWave k f).launches = s.launches := by
  unfold State.updWave; split <;> rfl
@[simp] theorem updWave_gangs (s : State) (k : Nat) (f : Wave → Wave) : (s.updWave k f).gangs = s.gangs := by
  unfold State.updWave; split <;> rfl
@[simp] theorem updWave_gangDone (s : State) (k : Nat) (f : Wave → Wave) : (s.updWave k f).gangDone = s.gangDone := by
  unfold State.updWave; split <;> rfl
@[simp] theorem updWave_offers (s : State) (k : Nat) (f : Wave → Wave) : (s.updWave k f).offers = s.offers := by
  unfold State.updWave; split <;> rfl
@[simp] theorem updWave_joins (s : State) (k : Nat) (f : Wave → Wave) : (s.updWave k f).joins = s.joins := by
  unfold State.updWave; split <;> rfl
@[simp] theorem updWave_fires (s : State) (k : Nat) (f : Wave → Wave) : (s.updWave k f).fires = s.fires := by
  unfold State.updWave; split <;> rfl
@[simp] theorem updWave_waiters (s : State) (k : Nat) (f : Wave → Wave) : (s.updWave k f).waiters = s.waiters := by
  unfold State.updWave; split <;> rfl
@[simp] theorem updWave_dsWrites (s : State) (k : Nat) (f : Wave → Wave) : (s.updWave k f).dsWrites = s.dsWrites := by
  unfold State.updWave; split <;> rfl
@[simp] theorem updWave_flows (s : State) (k : Nat) (f : Wave → Wave) : (s.updWave k f).flows = s.flows := by
  unfold State.updWave; split <;> rfl
@[simp] theorem updWave_pause (s : State) (k : Nat) (f : Wave → Wave) : (s.updWave k f).pause = s.pause := by
  unfold State.updWave; split <;> rfl
@[simp] theorem updWave_paused (s : State) (k : Nat) (f : Wave → Wave) : (s.updWave k f).paused = s.paused := by
  unfold State.updWave; split <;> rfl
@[simp] theorem updWave_linkState (s : State) (k : Nat) (f : Wave → Wave) : (s.updWave k f).linkState = s.linkState := by
  unfold State.updWave; split <;> rfl
@[simp] theorem updWave_training (s : State) (k : Nat) (f : Wave → Wave) : (s.updWave k f).training = s.training := by
  unfold State.updWave; split <;> rfl
@[simp] theorem updWave_sideband (s : State) (k : Nat) (f : Wave → Wave) : (s.updWave k f).sideband = s.sideband := by
  unfold State.updWave; split <;> rfl
@[simp] theorem updWave_sessions (s : State) (k : Nat) (f : Wave → Wave) : (s.updWave k f).sessions = s.sessions := by
  unfold State.updWave; split <;> rfl
@[simp] theorem updWave_lastSession (s : State) (k : Nat) (f : Wave → Wave) : (s.updWave k f).lastSession = s.lastSession := by
  unfold State.updWave; split <;> rfl
@[simp] theorem updWave_messages (s : State) (k : Nat) (f : Wave → Wave) : (s.updWave k f).messages = s.messages := by
  unfold State.updWave; split <;> rfl
@[simp] theorem updWave_outbox (s : State) (k : Nat) (f : Wave → Wave) : (s.updWave k f).outbox = s.outbox := by
  unfold State.updWave; split <;> rfl
@[simp] theorem updWave_timer (s : State) (k : Nat) (f : Wave → Wave) : (s.updWave k f).timer = s.timer := by
  unfold State.updWave; split <;> rfl
@[simp] theorem updWave_elapsed (s : State) (k : Nat) (f : Wave → Wave) : (s.updWave k f).elapsed = s.elapsed := by
  unfold State.updWave; split <;> rfl
@[simp] theorem updWave_timerFrac (s : State) (k : Nat) (f : Wave → Wave) : (s.updWave k f).timerFrac = s.timerFrac := by
  unfold State.updWave; split <;> rfl
@[simp] theorem updWave_issues (s : State) (k : Nat) (f : Wave → Wave) : (s.updWave k f).issues = s.issues := by
  unfold State.updWave; split <;> rfl
@[simp] theorem updWave_opp (s : State) (k : Nat) (f : Wave → Wave) : (s.updWave k f).opp = s.opp := by
  unfold State.updWave; split <;> rfl
@[simp] theorem updWave_snapCtl (s : State) (k : Nat) (f : Wave → Wave) : (s.updWave k f).snapCtl = s.snapCtl := by
  unfold State.updWave; split <;> rfl
@[simp] theorem updWave_snapTime (s : State) (k : Nat) (f : Wave → Wave) : (s.updWave k f).snapTime = s.snapTime := by
  unfold State.updWave; split <;> rfl
@[simp] theorem updWave_snapAt (s : State) (k : Nat) (f : Wave → Wave) : (s.updWave k f).snapAt = s.snapAt := by
  unfold State.updWave; split <;> rfl
@[simp] theorem updWave_snapSel (s : State) (k : Nat) (f : Wave → Wave) : (s.updWave k f).snapSel = s.snapSel := by
  unfold State.updWave; split <;> rfl
@[simp] theorem updWave_snapFrom (s : State) (k : Nat) (f : Wave → Wave) : (s.updWave k f).snapFrom = s.snapFrom := by
  unfold State.updWave; split <;> rfl
@[simp] theorem updWave_snapDraw (s : State) (k : Nat) (f : Wave → Wave) : (s.updWave k f).snapDraw = s.snapDraw := by
  unfold State.updWave; split <;> rfl
@[simp] theorem updWave_hsCount (s : State) (k : Nat) (f : Wave → Wave) : (s.updWave k f).hsCount = s.hsCount := by
  unfold State.updWave; split <;> rfl
@[simp] theorem updWave_hsRing (s : State) (k : Nat) (f : Wave → Wave) : (s.updWave k f).hsRing = s.hsRing := by
  unfold State.updWave; split <;> rfl
@[simp] theorem updWave_launched (s : State) (k : Nat) (f : Wave → Wave) : (s.updWave k f).launched = s.launched := by
  unfold State.updWave; split <;> rfl
@[simp] theorem updWave_alarm (s : State) (k : Nat) (f : Wave → Wave) : (s.updWave k f).alarm = s.alarm := by
  unfold State.updWave; split <;> rfl
@[simp] theorem updWave_flash (s : State) (k : Nat) (f : Wave → Wave) : (s.updWave k f).flash = s.flash := by
  unfold State.updWave; split <;> rfl
@[simp] theorem updWave_retired (s : State) (k : Nat) (f : Wave → Wave) : (s.updWave k f).retired = s.retired := by
  unfold State.updWave; split <;> rfl
@[simp] theorem updWave_agenda (s : State) (k : Nat) (f : Wave → Wave) : (s.updWave k f).agenda = s.agenda := by
  unfold State.updWave; split <;> rfl
@[simp] theorem updWave_fresh (s : State) (k : Nat) (f : Wave → Wave) : (s.updWave k f).fresh = s.fresh := by
  unfold State.updWave; split <;> rfl
@[simp] theorem updWave_moves (s : State) (k : Nat) (f : Wave → Wave) : (s.updWave k f).moves = s.moves := by
  unfold State.updWave; split <;> rfl
@[simp] theorem updWave_cur (s : State) (k : Nat) (f : Wave → Wave) : (s.updWave k f).cur = s.cur := by
  unfold State.updWave; split <;> rfl
@[simp] theorem updWave_turn (s : State) (k : Nat) (f : Wave → Wave) : (s.updWave k f).turn = s.turn := by
  unfold State.updWave; split <;> rfl
@[simp] theorem updWave_held (s : State) (k : Nat) (f : Wave → Wave) : (s.updWave k f).held = s.held := by
  unfold State.updWave; split <;> rfl

/-! ### updCrew -/

@[simp] theorem updCrew_mem (s : State) (k : Nat) (f : Crew → Crew) : (s.updCrew k f).mem = s.mem := by
  unfold State.updCrew; split <;> rfl
@[simp] theorem updCrew_badLines (s : State) (k : Nat) (f : Crew → Crew) : (s.updCrew k f).badLines = s.badLines := by
  unfold State.updCrew; split <;> rfl
@[simp] theorem updCrew_inflight (s : State) (k : Nat) (f : Crew → Crew) : (s.updCrew k f).inflight = s.inflight := by
  unfold State.updCrew; split <;> rfl
@[simp] theorem updCrew_nextId (s : State) (k : Nat) (f : Crew → Crew) : (s.updCrew k f).nextId = s.nextId := by
  unfold State.updCrew; split <;> rfl
@[simp] theorem updCrew_waves (s : State) (k : Nat) (f : Crew → Crew) : (s.updCrew k f).waves = s.waves := by
  unfold State.updCrew; split <;> rfl
@[simp] theorem updCrew_cores (s : State) (k : Nat) (f : Crew → Crew) : (s.updCrew k f).cores = s.cores := by
  unfold State.updCrew; split <;> rfl
@[simp] theorem updCrew_clusters (s : State) (k : Nat) (f : Crew → Crew) : (s.updCrew k f).clusters = s.clusters := by
  unfold State.updCrew; split <;> rfl
@[simp] theorem updCrew_siteA (s : State) (k : Nat) (f : Crew → Crew) : (s.updCrew k f).siteA = s.siteA := by
  unfold State.updCrew; split <;> rfl
@[simp] theorem updCrew_siteB (s : State) (k : Nat) (f : Crew → Crew) : (s.updCrew k f).siteB = s.siteB := by
  unfold State.updCrew; split <;> rfl
@[simp] theorem updCrew_launches (s : State) (k : Nat) (f : Crew → Crew) : (s.updCrew k f).launches = s.launches := by
  unfold State.updCrew; split <;> rfl
@[simp] theorem updCrew_gangs (s : State) (k : Nat) (f : Crew → Crew) : (s.updCrew k f).gangs = s.gangs := by
  unfold State.updCrew; split <;> rfl
@[simp] theorem updCrew_gangDone (s : State) (k : Nat) (f : Crew → Crew) : (s.updCrew k f).gangDone = s.gangDone := by
  unfold State.updCrew; split <;> rfl
@[simp] theorem updCrew_offers (s : State) (k : Nat) (f : Crew → Crew) : (s.updCrew k f).offers = s.offers := by
  unfold State.updCrew; split <;> rfl
@[simp] theorem updCrew_joins (s : State) (k : Nat) (f : Crew → Crew) : (s.updCrew k f).joins = s.joins := by
  unfold State.updCrew; split <;> rfl
@[simp] theorem updCrew_fires (s : State) (k : Nat) (f : Crew → Crew) : (s.updCrew k f).fires = s.fires := by
  unfold State.updCrew; split <;> rfl
@[simp] theorem updCrew_waiters (s : State) (k : Nat) (f : Crew → Crew) : (s.updCrew k f).waiters = s.waiters := by
  unfold State.updCrew; split <;> rfl
@[simp] theorem updCrew_dsWrites (s : State) (k : Nat) (f : Crew → Crew) : (s.updCrew k f).dsWrites = s.dsWrites := by
  unfold State.updCrew; split <;> rfl
@[simp] theorem updCrew_flows (s : State) (k : Nat) (f : Crew → Crew) : (s.updCrew k f).flows = s.flows := by
  unfold State.updCrew; split <;> rfl
@[simp] theorem updCrew_pause (s : State) (k : Nat) (f : Crew → Crew) : (s.updCrew k f).pause = s.pause := by
  unfold State.updCrew; split <;> rfl
@[simp] theorem updCrew_paused (s : State) (k : Nat) (f : Crew → Crew) : (s.updCrew k f).paused = s.paused := by
  unfold State.updCrew; split <;> rfl
@[simp] theorem updCrew_linkState (s : State) (k : Nat) (f : Crew → Crew) : (s.updCrew k f).linkState = s.linkState := by
  unfold State.updCrew; split <;> rfl
@[simp] theorem updCrew_training (s : State) (k : Nat) (f : Crew → Crew) : (s.updCrew k f).training = s.training := by
  unfold State.updCrew; split <;> rfl
@[simp] theorem updCrew_sideband (s : State) (k : Nat) (f : Crew → Crew) : (s.updCrew k f).sideband = s.sideband := by
  unfold State.updCrew; split <;> rfl
@[simp] theorem updCrew_sessions (s : State) (k : Nat) (f : Crew → Crew) : (s.updCrew k f).sessions = s.sessions := by
  unfold State.updCrew; split <;> rfl
@[simp] theorem updCrew_lastSession (s : State) (k : Nat) (f : Crew → Crew) : (s.updCrew k f).lastSession = s.lastSession := by
  unfold State.updCrew; split <;> rfl
@[simp] theorem updCrew_messages (s : State) (k : Nat) (f : Crew → Crew) : (s.updCrew k f).messages = s.messages := by
  unfold State.updCrew; split <;> rfl
@[simp] theorem updCrew_outbox (s : State) (k : Nat) (f : Crew → Crew) : (s.updCrew k f).outbox = s.outbox := by
  unfold State.updCrew; split <;> rfl
@[simp] theorem updCrew_timer (s : State) (k : Nat) (f : Crew → Crew) : (s.updCrew k f).timer = s.timer := by
  unfold State.updCrew; split <;> rfl
@[simp] theorem updCrew_elapsed (s : State) (k : Nat) (f : Crew → Crew) : (s.updCrew k f).elapsed = s.elapsed := by
  unfold State.updCrew; split <;> rfl
@[simp] theorem updCrew_timerFrac (s : State) (k : Nat) (f : Crew → Crew) : (s.updCrew k f).timerFrac = s.timerFrac := by
  unfold State.updCrew; split <;> rfl
@[simp] theorem updCrew_issues (s : State) (k : Nat) (f : Crew → Crew) : (s.updCrew k f).issues = s.issues := by
  unfold State.updCrew; split <;> rfl
@[simp] theorem updCrew_opp (s : State) (k : Nat) (f : Crew → Crew) : (s.updCrew k f).opp = s.opp := by
  unfold State.updCrew; split <;> rfl
@[simp] theorem updCrew_snapCtl (s : State) (k : Nat) (f : Crew → Crew) : (s.updCrew k f).snapCtl = s.snapCtl := by
  unfold State.updCrew; split <;> rfl
@[simp] theorem updCrew_snapTime (s : State) (k : Nat) (f : Crew → Crew) : (s.updCrew k f).snapTime = s.snapTime := by
  unfold State.updCrew; split <;> rfl
@[simp] theorem updCrew_snapAt (s : State) (k : Nat) (f : Crew → Crew) : (s.updCrew k f).snapAt = s.snapAt := by
  unfold State.updCrew; split <;> rfl
@[simp] theorem updCrew_snapSel (s : State) (k : Nat) (f : Crew → Crew) : (s.updCrew k f).snapSel = s.snapSel := by
  unfold State.updCrew; split <;> rfl
@[simp] theorem updCrew_snapFrom (s : State) (k : Nat) (f : Crew → Crew) : (s.updCrew k f).snapFrom = s.snapFrom := by
  unfold State.updCrew; split <;> rfl
@[simp] theorem updCrew_snapDraw (s : State) (k : Nat) (f : Crew → Crew) : (s.updCrew k f).snapDraw = s.snapDraw := by
  unfold State.updCrew; split <;> rfl
@[simp] theorem updCrew_hsCount (s : State) (k : Nat) (f : Crew → Crew) : (s.updCrew k f).hsCount = s.hsCount := by
  unfold State.updCrew; split <;> rfl
@[simp] theorem updCrew_hsRing (s : State) (k : Nat) (f : Crew → Crew) : (s.updCrew k f).hsRing = s.hsRing := by
  unfold State.updCrew; split <;> rfl
@[simp] theorem updCrew_launched (s : State) (k : Nat) (f : Crew → Crew) : (s.updCrew k f).launched = s.launched := by
  unfold State.updCrew; split <;> rfl
@[simp] theorem updCrew_alarm (s : State) (k : Nat) (f : Crew → Crew) : (s.updCrew k f).alarm = s.alarm := by
  unfold State.updCrew; split <;> rfl
@[simp] theorem updCrew_flash (s : State) (k : Nat) (f : Crew → Crew) : (s.updCrew k f).flash = s.flash := by
  unfold State.updCrew; split <;> rfl
@[simp] theorem updCrew_retired (s : State) (k : Nat) (f : Crew → Crew) : (s.updCrew k f).retired = s.retired := by
  unfold State.updCrew; split <;> rfl
@[simp] theorem updCrew_agenda (s : State) (k : Nat) (f : Crew → Crew) : (s.updCrew k f).agenda = s.agenda := by
  unfold State.updCrew; split <;> rfl
@[simp] theorem updCrew_fresh (s : State) (k : Nat) (f : Crew → Crew) : (s.updCrew k f).fresh = s.fresh := by
  unfold State.updCrew; split <;> rfl
@[simp] theorem updCrew_moves (s : State) (k : Nat) (f : Crew → Crew) : (s.updCrew k f).moves = s.moves := by
  unfold State.updCrew; split <;> rfl
@[simp] theorem updCrew_cur (s : State) (k : Nat) (f : Crew → Crew) : (s.updCrew k f).cur = s.cur := by
  unfold State.updCrew; split <;> rfl
@[simp] theorem updCrew_turn (s : State) (k : Nat) (f : Crew → Crew) : (s.updCrew k f).turn = s.turn := by
  unfold State.updCrew; split <;> rfl
@[simp] theorem updCrew_held (s : State) (k : Nat) (f : Crew → Crew) : (s.updCrew k f).held = s.held := by
  unfold State.updCrew; split <;> rfl

/-! ### setCore -/

@[simp] theorem setCore_mem (s : State) (k : Nat) (c : Core) : (s.setCore k c).mem = s.mem := rfl
@[simp] theorem setCore_badLines (s : State) (k : Nat) (c : Core) : (s.setCore k c).badLines = s.badLines := rfl
@[simp] theorem setCore_inflight (s : State) (k : Nat) (c : Core) : (s.setCore k c).inflight = s.inflight := rfl
@[simp] theorem setCore_nextId (s : State) (k : Nat) (c : Core) : (s.setCore k c).nextId = s.nextId := rfl
@[simp] theorem setCore_waves (s : State) (k : Nat) (c : Core) : (s.setCore k c).waves = s.waves := rfl
@[simp] theorem setCore_crews (s : State) (k : Nat) (c : Core) : (s.setCore k c).crews = s.crews := rfl
@[simp] theorem setCore_clusters (s : State) (k : Nat) (c : Core) : (s.setCore k c).clusters = s.clusters := rfl
@[simp] theorem setCore_siteA (s : State) (k : Nat) (c : Core) : (s.setCore k c).siteA = s.siteA := rfl
@[simp] theorem setCore_siteB (s : State) (k : Nat) (c : Core) : (s.setCore k c).siteB = s.siteB := rfl
@[simp] theorem setCore_launches (s : State) (k : Nat) (c : Core) : (s.setCore k c).launches = s.launches := rfl
@[simp] theorem setCore_gangs (s : State) (k : Nat) (c : Core) : (s.setCore k c).gangs = s.gangs := rfl
@[simp] theorem setCore_gangDone (s : State) (k : Nat) (c : Core) : (s.setCore k c).gangDone = s.gangDone := rfl
@[simp] theorem setCore_offers (s : State) (k : Nat) (c : Core) : (s.setCore k c).offers = s.offers := rfl
@[simp] theorem setCore_joins (s : State) (k : Nat) (c : Core) : (s.setCore k c).joins = s.joins := rfl
@[simp] theorem setCore_fires (s : State) (k : Nat) (c : Core) : (s.setCore k c).fires = s.fires := rfl
@[simp] theorem setCore_waiters (s : State) (k : Nat) (c : Core) : (s.setCore k c).waiters = s.waiters := rfl
@[simp] theorem setCore_dsWrites (s : State) (k : Nat) (c : Core) : (s.setCore k c).dsWrites = s.dsWrites := rfl
@[simp] theorem setCore_flows (s : State) (k : Nat) (c : Core) : (s.setCore k c).flows = s.flows := rfl
@[simp] theorem setCore_pause (s : State) (k : Nat) (c : Core) : (s.setCore k c).pause = s.pause := rfl
@[simp] theorem setCore_paused (s : State) (k : Nat) (c : Core) : (s.setCore k c).paused = s.paused := rfl
@[simp] theorem setCore_linkState (s : State) (k : Nat) (c : Core) : (s.setCore k c).linkState = s.linkState := rfl
@[simp] theorem setCore_training (s : State) (k : Nat) (c : Core) : (s.setCore k c).training = s.training := rfl
@[simp] theorem setCore_sideband (s : State) (k : Nat) (c : Core) : (s.setCore k c).sideband = s.sideband := rfl
@[simp] theorem setCore_sessions (s : State) (k : Nat) (c : Core) : (s.setCore k c).sessions = s.sessions := rfl
@[simp] theorem setCore_lastSession (s : State) (k : Nat) (c : Core) : (s.setCore k c).lastSession = s.lastSession := rfl
@[simp] theorem setCore_messages (s : State) (k : Nat) (c : Core) : (s.setCore k c).messages = s.messages := rfl
@[simp] theorem setCore_outbox (s : State) (k : Nat) (c : Core) : (s.setCore k c).outbox = s.outbox := rfl
@[simp] theorem setCore_timer (s : State) (k : Nat) (c : Core) : (s.setCore k c).timer = s.timer := rfl
@[simp] theorem setCore_elapsed (s : State) (k : Nat) (c : Core) : (s.setCore k c).elapsed = s.elapsed := rfl
@[simp] theorem setCore_timerFrac (s : State) (k : Nat) (c : Core) : (s.setCore k c).timerFrac = s.timerFrac := rfl
@[simp] theorem setCore_issues (s : State) (k : Nat) (c : Core) : (s.setCore k c).issues = s.issues := rfl
@[simp] theorem setCore_opp (s : State) (k : Nat) (c : Core) : (s.setCore k c).opp = s.opp := rfl
@[simp] theorem setCore_snapCtl (s : State) (k : Nat) (c : Core) : (s.setCore k c).snapCtl = s.snapCtl := rfl
@[simp] theorem setCore_snapTime (s : State) (k : Nat) (c : Core) : (s.setCore k c).snapTime = s.snapTime := rfl
@[simp] theorem setCore_snapAt (s : State) (k : Nat) (c : Core) : (s.setCore k c).snapAt = s.snapAt := rfl
@[simp] theorem setCore_snapSel (s : State) (k : Nat) (c : Core) : (s.setCore k c).snapSel = s.snapSel := rfl
@[simp] theorem setCore_snapFrom (s : State) (k : Nat) (c : Core) : (s.setCore k c).snapFrom = s.snapFrom := rfl
@[simp] theorem setCore_snapDraw (s : State) (k : Nat) (c : Core) : (s.setCore k c).snapDraw = s.snapDraw := rfl
@[simp] theorem setCore_hsCount (s : State) (k : Nat) (c : Core) : (s.setCore k c).hsCount = s.hsCount := rfl
@[simp] theorem setCore_hsRing (s : State) (k : Nat) (c : Core) : (s.setCore k c).hsRing = s.hsRing := rfl
@[simp] theorem setCore_launched (s : State) (k : Nat) (c : Core) : (s.setCore k c).launched = s.launched := rfl
@[simp] theorem setCore_alarm (s : State) (k : Nat) (c : Core) : (s.setCore k c).alarm = s.alarm := rfl
@[simp] theorem setCore_flash (s : State) (k : Nat) (c : Core) : (s.setCore k c).flash = s.flash := rfl
@[simp] theorem setCore_retired (s : State) (k : Nat) (c : Core) : (s.setCore k c).retired = s.retired := rfl
@[simp] theorem setCore_agenda (s : State) (k : Nat) (c : Core) : (s.setCore k c).agenda = s.agenda := rfl
@[simp] theorem setCore_fresh (s : State) (k : Nat) (c : Core) : (s.setCore k c).fresh = s.fresh := rfl
@[simp] theorem setCore_moves (s : State) (k : Nat) (c : Core) : (s.setCore k c).moves = s.moves := rfl
@[simp] theorem setCore_cur (s : State) (k : Nat) (c : Core) : (s.setCore k c).cur = s.cur := rfl
@[simp] theorem setCore_turn (s : State) (k : Nat) (c : Core) : (s.setCore k c).turn = s.turn := rfl
@[simp] theorem setCore_held (s : State) (k : Nat) (c : Core) : (s.setCore k c).held = s.held := rfl

/-! ### setCluster -/

@[simp] theorem setCluster_mem (s : State) (k : Nat) (c : Cluster) : (s.setCluster k c).mem = s.mem := rfl
@[simp] theorem setCluster_badLines (s : State) (k : Nat) (c : Cluster) : (s.setCluster k c).badLines = s.badLines := rfl
@[simp] theorem setCluster_inflight (s : State) (k : Nat) (c : Cluster) : (s.setCluster k c).inflight = s.inflight := rfl
@[simp] theorem setCluster_nextId (s : State) (k : Nat) (c : Cluster) : (s.setCluster k c).nextId = s.nextId := rfl
@[simp] theorem setCluster_waves (s : State) (k : Nat) (c : Cluster) : (s.setCluster k c).waves = s.waves := rfl
@[simp] theorem setCluster_crews (s : State) (k : Nat) (c : Cluster) : (s.setCluster k c).crews = s.crews := rfl
@[simp] theorem setCluster_cores (s : State) (k : Nat) (c : Cluster) : (s.setCluster k c).cores = s.cores := rfl
@[simp] theorem setCluster_siteA (s : State) (k : Nat) (c : Cluster) : (s.setCluster k c).siteA = s.siteA := rfl
@[simp] theorem setCluster_siteB (s : State) (k : Nat) (c : Cluster) : (s.setCluster k c).siteB = s.siteB := rfl
@[simp] theorem setCluster_launches (s : State) (k : Nat) (c : Cluster) : (s.setCluster k c).launches = s.launches := rfl
@[simp] theorem setCluster_gangs (s : State) (k : Nat) (c : Cluster) : (s.setCluster k c).gangs = s.gangs := rfl
@[simp] theorem setCluster_gangDone (s : State) (k : Nat) (c : Cluster) : (s.setCluster k c).gangDone = s.gangDone := rfl
@[simp] theorem setCluster_offers (s : State) (k : Nat) (c : Cluster) : (s.setCluster k c).offers = s.offers := rfl
@[simp] theorem setCluster_joins (s : State) (k : Nat) (c : Cluster) : (s.setCluster k c).joins = s.joins := rfl
@[simp] theorem setCluster_fires (s : State) (k : Nat) (c : Cluster) : (s.setCluster k c).fires = s.fires := rfl
@[simp] theorem setCluster_waiters (s : State) (k : Nat) (c : Cluster) : (s.setCluster k c).waiters = s.waiters := rfl
@[simp] theorem setCluster_dsWrites (s : State) (k : Nat) (c : Cluster) : (s.setCluster k c).dsWrites = s.dsWrites := rfl
@[simp] theorem setCluster_flows (s : State) (k : Nat) (c : Cluster) : (s.setCluster k c).flows = s.flows := rfl
@[simp] theorem setCluster_pause (s : State) (k : Nat) (c : Cluster) : (s.setCluster k c).pause = s.pause := rfl
@[simp] theorem setCluster_paused (s : State) (k : Nat) (c : Cluster) : (s.setCluster k c).paused = s.paused := rfl
@[simp] theorem setCluster_linkState (s : State) (k : Nat) (c : Cluster) : (s.setCluster k c).linkState = s.linkState := rfl
@[simp] theorem setCluster_training (s : State) (k : Nat) (c : Cluster) : (s.setCluster k c).training = s.training := rfl
@[simp] theorem setCluster_sideband (s : State) (k : Nat) (c : Cluster) : (s.setCluster k c).sideband = s.sideband := rfl
@[simp] theorem setCluster_sessions (s : State) (k : Nat) (c : Cluster) : (s.setCluster k c).sessions = s.sessions := rfl
@[simp] theorem setCluster_lastSession (s : State) (k : Nat) (c : Cluster) : (s.setCluster k c).lastSession = s.lastSession := rfl
@[simp] theorem setCluster_messages (s : State) (k : Nat) (c : Cluster) : (s.setCluster k c).messages = s.messages := rfl
@[simp] theorem setCluster_outbox (s : State) (k : Nat) (c : Cluster) : (s.setCluster k c).outbox = s.outbox := rfl
@[simp] theorem setCluster_timer (s : State) (k : Nat) (c : Cluster) : (s.setCluster k c).timer = s.timer := rfl
@[simp] theorem setCluster_elapsed (s : State) (k : Nat) (c : Cluster) : (s.setCluster k c).elapsed = s.elapsed := rfl
@[simp] theorem setCluster_timerFrac (s : State) (k : Nat) (c : Cluster) : (s.setCluster k c).timerFrac = s.timerFrac := rfl
@[simp] theorem setCluster_issues (s : State) (k : Nat) (c : Cluster) : (s.setCluster k c).issues = s.issues := rfl
@[simp] theorem setCluster_opp (s : State) (k : Nat) (c : Cluster) : (s.setCluster k c).opp = s.opp := rfl
@[simp] theorem setCluster_snapCtl (s : State) (k : Nat) (c : Cluster) : (s.setCluster k c).snapCtl = s.snapCtl := rfl
@[simp] theorem setCluster_snapTime (s : State) (k : Nat) (c : Cluster) : (s.setCluster k c).snapTime = s.snapTime := rfl
@[simp] theorem setCluster_snapAt (s : State) (k : Nat) (c : Cluster) : (s.setCluster k c).snapAt = s.snapAt := rfl
@[simp] theorem setCluster_snapSel (s : State) (k : Nat) (c : Cluster) : (s.setCluster k c).snapSel = s.snapSel := rfl
@[simp] theorem setCluster_snapFrom (s : State) (k : Nat) (c : Cluster) : (s.setCluster k c).snapFrom = s.snapFrom := rfl
@[simp] theorem setCluster_snapDraw (s : State) (k : Nat) (c : Cluster) : (s.setCluster k c).snapDraw = s.snapDraw := rfl
@[simp] theorem setCluster_hsCount (s : State) (k : Nat) (c : Cluster) : (s.setCluster k c).hsCount = s.hsCount := rfl
@[simp] theorem setCluster_hsRing (s : State) (k : Nat) (c : Cluster) : (s.setCluster k c).hsRing = s.hsRing := rfl
@[simp] theorem setCluster_launched (s : State) (k : Nat) (c : Cluster) : (s.setCluster k c).launched = s.launched := rfl
@[simp] theorem setCluster_alarm (s : State) (k : Nat) (c : Cluster) : (s.setCluster k c).alarm = s.alarm := rfl
@[simp] theorem setCluster_flash (s : State) (k : Nat) (c : Cluster) : (s.setCluster k c).flash = s.flash := rfl
@[simp] theorem setCluster_retired (s : State) (k : Nat) (c : Cluster) : (s.setCluster k c).retired = s.retired := rfl
@[simp] theorem setCluster_agenda (s : State) (k : Nat) (c : Cluster) : (s.setCluster k c).agenda = s.agenda := rfl
@[simp] theorem setCluster_fresh (s : State) (k : Nat) (c : Cluster) : (s.setCluster k c).fresh = s.fresh := rfl
@[simp] theorem setCluster_moves (s : State) (k : Nat) (c : Cluster) : (s.setCluster k c).moves = s.moves := rfl
@[simp] theorem setCluster_cur (s : State) (k : Nat) (c : Cluster) : (s.setCluster k c).cur = s.cur := rfl
@[simp] theorem setCluster_turn (s : State) (k : Nat) (c : Cluster) : (s.setCluster k c).turn = s.turn := rfl
@[simp] theorem setCluster_held (s : State) (k : Nat) (c : Cluster) : (s.setCluster k c).held = s.held := rfl

/-! ### setSite -/

@[simp] theorem setSite_mem (s : State) (x : Nat) (t : Site) : (s.setSite x t).mem = s.mem := by
  unfold State.setSite; split <;> rfl
@[simp] theorem setSite_badLines (s : State) (x : Nat) (t : Site) : (s.setSite x t).badLines = s.badLines := by
  unfold State.setSite; split <;> rfl
@[simp] theorem setSite_inflight (s : State) (x : Nat) (t : Site) : (s.setSite x t).inflight = s.inflight := by
  unfold State.setSite; split <;> rfl
@[simp] theorem setSite_nextId (s : State) (x : Nat) (t : Site) : (s.setSite x t).nextId = s.nextId := by
  unfold State.setSite; split <;> rfl
@[simp] theorem setSite_waves (s : State) (x : Nat) (t : Site) : (s.setSite x t).waves = s.waves := by
  unfold State.setSite; split <;> rfl
@[simp] theorem setSite_crews (s : State) (x : Nat) (t : Site) : (s.setSite x t).crews = s.crews := by
  unfold State.setSite; split <;> rfl
@[simp] theorem setSite_cores (s : State) (x : Nat) (t : Site) : (s.setSite x t).cores = s.cores := by
  unfold State.setSite; split <;> rfl
@[simp] theorem setSite_clusters (s : State) (x : Nat) (t : Site) : (s.setSite x t).clusters = s.clusters := by
  unfold State.setSite; split <;> rfl
@[simp] theorem setSite_launches (s : State) (x : Nat) (t : Site) : (s.setSite x t).launches = s.launches := by
  unfold State.setSite; split <;> rfl
@[simp] theorem setSite_gangs (s : State) (x : Nat) (t : Site) : (s.setSite x t).gangs = s.gangs := by
  unfold State.setSite; split <;> rfl
@[simp] theorem setSite_gangDone (s : State) (x : Nat) (t : Site) : (s.setSite x t).gangDone = s.gangDone := by
  unfold State.setSite; split <;> rfl
@[simp] theorem setSite_offers (s : State) (x : Nat) (t : Site) : (s.setSite x t).offers = s.offers := by
  unfold State.setSite; split <;> rfl
@[simp] theorem setSite_joins (s : State) (x : Nat) (t : Site) : (s.setSite x t).joins = s.joins := by
  unfold State.setSite; split <;> rfl
@[simp] theorem setSite_fires (s : State) (x : Nat) (t : Site) : (s.setSite x t).fires = s.fires := by
  unfold State.setSite; split <;> rfl
@[simp] theorem setSite_waiters (s : State) (x : Nat) (t : Site) : (s.setSite x t).waiters = s.waiters := by
  unfold State.setSite; split <;> rfl
@[simp] theorem setSite_dsWrites (s : State) (x : Nat) (t : Site) : (s.setSite x t).dsWrites = s.dsWrites := by
  unfold State.setSite; split <;> rfl
@[simp] theorem setSite_flows (s : State) (x : Nat) (t : Site) : (s.setSite x t).flows = s.flows := by
  unfold State.setSite; split <;> rfl
@[simp] theorem setSite_pause (s : State) (x : Nat) (t : Site) : (s.setSite x t).pause = s.pause := by
  unfold State.setSite; split <;> rfl
@[simp] theorem setSite_paused (s : State) (x : Nat) (t : Site) : (s.setSite x t).paused = s.paused := by
  unfold State.setSite; split <;> rfl
@[simp] theorem setSite_linkState (s : State) (x : Nat) (t : Site) : (s.setSite x t).linkState = s.linkState := by
  unfold State.setSite; split <;> rfl
@[simp] theorem setSite_training (s : State) (x : Nat) (t : Site) : (s.setSite x t).training = s.training := by
  unfold State.setSite; split <;> rfl
@[simp] theorem setSite_sideband (s : State) (x : Nat) (t : Site) : (s.setSite x t).sideband = s.sideband := by
  unfold State.setSite; split <;> rfl
@[simp] theorem setSite_sessions (s : State) (x : Nat) (t : Site) : (s.setSite x t).sessions = s.sessions := by
  unfold State.setSite; split <;> rfl
@[simp] theorem setSite_lastSession (s : State) (x : Nat) (t : Site) : (s.setSite x t).lastSession = s.lastSession := by
  unfold State.setSite; split <;> rfl
@[simp] theorem setSite_messages (s : State) (x : Nat) (t : Site) : (s.setSite x t).messages = s.messages := by
  unfold State.setSite; split <;> rfl
@[simp] theorem setSite_outbox (s : State) (x : Nat) (t : Site) : (s.setSite x t).outbox = s.outbox := by
  unfold State.setSite; split <;> rfl
@[simp] theorem setSite_timer (s : State) (x : Nat) (t : Site) : (s.setSite x t).timer = s.timer := by
  unfold State.setSite; split <;> rfl
@[simp] theorem setSite_elapsed (s : State) (x : Nat) (t : Site) : (s.setSite x t).elapsed = s.elapsed := by
  unfold State.setSite; split <;> rfl
@[simp] theorem setSite_timerFrac (s : State) (x : Nat) (t : Site) : (s.setSite x t).timerFrac = s.timerFrac := by
  unfold State.setSite; split <;> rfl
@[simp] theorem setSite_issues (s : State) (x : Nat) (t : Site) : (s.setSite x t).issues = s.issues := by
  unfold State.setSite; split <;> rfl
@[simp] theorem setSite_opp (s : State) (x : Nat) (t : Site) : (s.setSite x t).opp = s.opp := by
  unfold State.setSite; split <;> rfl
@[simp] theorem setSite_snapCtl (s : State) (x : Nat) (t : Site) : (s.setSite x t).snapCtl = s.snapCtl := by
  unfold State.setSite; split <;> rfl
@[simp] theorem setSite_snapTime (s : State) (x : Nat) (t : Site) : (s.setSite x t).snapTime = s.snapTime := by
  unfold State.setSite; split <;> rfl
@[simp] theorem setSite_snapAt (s : State) (x : Nat) (t : Site) : (s.setSite x t).snapAt = s.snapAt := by
  unfold State.setSite; split <;> rfl
@[simp] theorem setSite_snapSel (s : State) (x : Nat) (t : Site) : (s.setSite x t).snapSel = s.snapSel := by
  unfold State.setSite; split <;> rfl
@[simp] theorem setSite_snapFrom (s : State) (x : Nat) (t : Site) : (s.setSite x t).snapFrom = s.snapFrom := by
  unfold State.setSite; split <;> rfl
@[simp] theorem setSite_snapDraw (s : State) (x : Nat) (t : Site) : (s.setSite x t).snapDraw = s.snapDraw := by
  unfold State.setSite; split <;> rfl
@[simp] theorem setSite_hsCount (s : State) (x : Nat) (t : Site) : (s.setSite x t).hsCount = s.hsCount := by
  unfold State.setSite; split <;> rfl
@[simp] theorem setSite_hsRing (s : State) (x : Nat) (t : Site) : (s.setSite x t).hsRing = s.hsRing := by
  unfold State.setSite; split <;> rfl
@[simp] theorem setSite_launched (s : State) (x : Nat) (t : Site) : (s.setSite x t).launched = s.launched := by
  unfold State.setSite; split <;> rfl
@[simp] theorem setSite_alarm (s : State) (x : Nat) (t : Site) : (s.setSite x t).alarm = s.alarm := by
  unfold State.setSite; split <;> rfl
@[simp] theorem setSite_flash (s : State) (x : Nat) (t : Site) : (s.setSite x t).flash = s.flash := by
  unfold State.setSite; split <;> rfl
@[simp] theorem setSite_retired (s : State) (x : Nat) (t : Site) : (s.setSite x t).retired = s.retired := by
  unfold State.setSite; split <;> rfl
@[simp] theorem setSite_agenda (s : State) (x : Nat) (t : Site) : (s.setSite x t).agenda = s.agenda := by
  unfold State.setSite; split <;> rfl
@[simp] theorem setSite_fresh (s : State) (x : Nat) (t : Site) : (s.setSite x t).fresh = s.fresh := by
  unfold State.setSite; split <;> rfl
@[simp] theorem setSite_moves (s : State) (x : Nat) (t : Site) : (s.setSite x t).moves = s.moves := by
  unfold State.setSite; split <;> rfl
@[simp] theorem setSite_cur (s : State) (x : Nat) (t : Site) : (s.setSite x t).cur = s.cur := by
  unfold State.setSite; split <;> rfl
@[simp] theorem setSite_turn (s : State) (x : Nat) (t : Site) : (s.setSite x t).turn = s.turn := by
  unfold State.setSite; split <;> rfl
@[simp] theorem setSite_held (s : State) (x : Nat) (t : Site) : (s.setSite x t).held = s.held := by
  unfold State.setSite; split <;> rfl

/-! ### updLaunch -/

@[simp] theorem updLaunch_mem (s : State) (n : Nat) (f : Launch → Launch) : (s.updLaunch n f).mem = s.mem := rfl
@[simp] theorem updLaunch_badLines (s : State) (n : Nat) (f : Launch → Launch) : (s.updLaunch n f).badLines = s.badLines := rfl
@[simp] theorem updLaunch_inflight (s : State) (n : Nat) (f : Launch → Launch) : (s.updLaunch n f).inflight = s.inflight := rfl
@[simp] theorem updLaunch_nextId (s : State) (n : Nat) (f : Launch → Launch) : (s.updLaunch n f).nextId = s.nextId := rfl
@[simp] theorem updLaunch_waves (s : State) (n : Nat) (f : Launch → Launch) : (s.updLaunch n f).waves = s.waves := rfl
@[simp] theorem updLaunch_crews (s : State) (n : Nat) (f : Launch → Launch) : (s.updLaunch n f).crews = s.crews := rfl
@[simp] theorem updLaunch_cores (s : State) (n : Nat) (f : Launch → Launch) : (s.updLaunch n f).cores = s.cores := rfl
@[simp] theorem updLaunch_clusters (s : State) (n : Nat) (f : Launch → Launch) : (s.updLaunch n f).clusters = s.clusters := rfl
@[simp] theorem updLaunch_siteA (s : State) (n : Nat) (f : Launch → Launch) : (s.updLaunch n f).siteA = s.siteA := rfl
@[simp] theorem updLaunch_siteB (s : State) (n : Nat) (f : Launch → Launch) : (s.updLaunch n f).siteB = s.siteB := rfl
@[simp] theorem updLaunch_gangs (s : State) (n : Nat) (f : Launch → Launch) : (s.updLaunch n f).gangs = s.gangs := rfl
@[simp] theorem updLaunch_gangDone (s : State) (n : Nat) (f : Launch → Launch) : (s.updLaunch n f).gangDone = s.gangDone := rfl
@[simp] theorem updLaunch_offers (s : State) (n : Nat) (f : Launch → Launch) : (s.updLaunch n f).offers = s.offers := rfl
@[simp] theorem updLaunch_joins (s : State) (n : Nat) (f : Launch → Launch) : (s.updLaunch n f).joins = s.joins := rfl
@[simp] theorem updLaunch_fires (s : State) (n : Nat) (f : Launch → Launch) : (s.updLaunch n f).fires = s.fires := rfl
@[simp] theorem updLaunch_waiters (s : State) (n : Nat) (f : Launch → Launch) : (s.updLaunch n f).waiters = s.waiters := rfl
@[simp] theorem updLaunch_dsWrites (s : State) (n : Nat) (f : Launch → Launch) : (s.updLaunch n f).dsWrites = s.dsWrites := rfl
@[simp] theorem updLaunch_flows (s : State) (n : Nat) (f : Launch → Launch) : (s.updLaunch n f).flows = s.flows := rfl
@[simp] theorem updLaunch_pause (s : State) (n : Nat) (f : Launch → Launch) : (s.updLaunch n f).pause = s.pause := rfl
@[simp] theorem updLaunch_paused (s : State) (n : Nat) (f : Launch → Launch) : (s.updLaunch n f).paused = s.paused := rfl
@[simp] theorem updLaunch_linkState (s : State) (n : Nat) (f : Launch → Launch) : (s.updLaunch n f).linkState = s.linkState := rfl
@[simp] theorem updLaunch_training (s : State) (n : Nat) (f : Launch → Launch) : (s.updLaunch n f).training = s.training := rfl
@[simp] theorem updLaunch_sideband (s : State) (n : Nat) (f : Launch → Launch) : (s.updLaunch n f).sideband = s.sideband := rfl
@[simp] theorem updLaunch_sessions (s : State) (n : Nat) (f : Launch → Launch) : (s.updLaunch n f).sessions = s.sessions := rfl
@[simp] theorem updLaunch_lastSession (s : State) (n : Nat) (f : Launch → Launch) : (s.updLaunch n f).lastSession = s.lastSession := rfl
@[simp] theorem updLaunch_messages (s : State) (n : Nat) (f : Launch → Launch) : (s.updLaunch n f).messages = s.messages := rfl
@[simp] theorem updLaunch_outbox (s : State) (n : Nat) (f : Launch → Launch) : (s.updLaunch n f).outbox = s.outbox := rfl
@[simp] theorem updLaunch_timer (s : State) (n : Nat) (f : Launch → Launch) : (s.updLaunch n f).timer = s.timer := rfl
@[simp] theorem updLaunch_elapsed (s : State) (n : Nat) (f : Launch → Launch) : (s.updLaunch n f).elapsed = s.elapsed := rfl
@[simp] theorem updLaunch_timerFrac (s : State) (n : Nat) (f : Launch → Launch) : (s.updLaunch n f).timerFrac = s.timerFrac := rfl
@[simp] theorem updLaunch_issues (s : State) (n : Nat) (f : Launch → Launch) : (s.updLaunch n f).issues = s.issues := rfl
@[simp] theorem updLaunch_opp (s : State) (n : Nat) (f : Launch → Launch) : (s.updLaunch n f).opp = s.opp := rfl
@[simp] theorem updLaunch_snapCtl (s : State) (n : Nat) (f : Launch → Launch) : (s.updLaunch n f).snapCtl = s.snapCtl := rfl
@[simp] theorem updLaunch_snapTime (s : State) (n : Nat) (f : Launch → Launch) : (s.updLaunch n f).snapTime = s.snapTime := rfl
@[simp] theorem updLaunch_snapAt (s : State) (n : Nat) (f : Launch → Launch) : (s.updLaunch n f).snapAt = s.snapAt := rfl
@[simp] theorem updLaunch_snapSel (s : State) (n : Nat) (f : Launch → Launch) : (s.updLaunch n f).snapSel = s.snapSel := rfl
@[simp] theorem updLaunch_snapFrom (s : State) (n : Nat) (f : Launch → Launch) : (s.updLaunch n f).snapFrom = s.snapFrom := rfl
@[simp] theorem updLaunch_snapDraw (s : State) (n : Nat) (f : Launch → Launch) : (s.updLaunch n f).snapDraw = s.snapDraw := rfl
@[simp] theorem updLaunch_hsCount (s : State) (n : Nat) (f : Launch → Launch) : (s.updLaunch n f).hsCount = s.hsCount := rfl
@[simp] theorem updLaunch_hsRing (s : State) (n : Nat) (f : Launch → Launch) : (s.updLaunch n f).hsRing = s.hsRing := rfl
@[simp] theorem updLaunch_launched (s : State) (n : Nat) (f : Launch → Launch) : (s.updLaunch n f).launched = s.launched := rfl
@[simp] theorem updLaunch_alarm (s : State) (n : Nat) (f : Launch → Launch) : (s.updLaunch n f).alarm = s.alarm := rfl
@[simp] theorem updLaunch_flash (s : State) (n : Nat) (f : Launch → Launch) : (s.updLaunch n f).flash = s.flash := rfl
@[simp] theorem updLaunch_retired (s : State) (n : Nat) (f : Launch → Launch) : (s.updLaunch n f).retired = s.retired := rfl
@[simp] theorem updLaunch_agenda (s : State) (n : Nat) (f : Launch → Launch) : (s.updLaunch n f).agenda = s.agenda := rfl
@[simp] theorem updLaunch_fresh (s : State) (n : Nat) (f : Launch → Launch) : (s.updLaunch n f).fresh = s.fresh := rfl
@[simp] theorem updLaunch_moves (s : State) (n : Nat) (f : Launch → Launch) : (s.updLaunch n f).moves = s.moves := rfl
@[simp] theorem updLaunch_cur (s : State) (n : Nat) (f : Launch → Launch) : (s.updLaunch n f).cur = s.cur := rfl
@[simp] theorem updLaunch_turn (s : State) (n : Nat) (f : Launch → Launch) : (s.updLaunch n f).turn = s.turn := rfl
@[simp] theorem updLaunch_held (s : State) (n : Nat) (f : Launch → Launch) : (s.updLaunch n f).held = s.held := rfl

/-! ### setSession -/

@[simp] theorem setSession_mem (s : State) (x : Session) : (s.setSession x).mem = s.mem := rfl
@[simp] theorem setSession_badLines (s : State) (x : Session) : (s.setSession x).badLines = s.badLines := rfl
@[simp] theorem setSession_inflight (s : State) (x : Session) : (s.setSession x).inflight = s.inflight := rfl
@[simp] theorem setSession_nextId (s : State) (x : Session) : (s.setSession x).nextId = s.nextId := rfl
@[simp] theorem setSession_waves (s : State) (x : Session) : (s.setSession x).waves = s.waves := rfl
@[simp] theorem setSession_crews (s : State) (x : Session) : (s.setSession x).crews = s.crews := rfl
@[simp] theorem setSession_cores (s : State) (x : Session) : (s.setSession x).cores = s.cores := rfl
@[simp] theorem setSession_clusters (s : State) (x : Session) : (s.setSession x).clusters = s.clusters := rfl
@[simp] theorem setSession_siteA (s : State) (x : Session) : (s.setSession x).siteA = s.siteA := rfl
@[simp] theorem setSession_siteB (s : State) (x : Session) : (s.setSession x).siteB = s.siteB := rfl
@[simp] theorem setSession_launches (s : State) (x : Session) : (s.setSession x).launches = s.launches := rfl
@[simp] theorem setSession_gangs (s : State) (x : Session) : (s.setSession x).gangs = s.gangs := rfl
@[simp] theorem setSession_gangDone (s : State) (x : Session) : (s.setSession x).gangDone = s.gangDone := rfl
@[simp] theorem setSession_offers (s : State) (x : Session) : (s.setSession x).offers = s.offers := rfl
@[simp] theorem setSession_joins (s : State) (x : Session) : (s.setSession x).joins = s.joins := rfl
@[simp] theorem setSession_fires (s : State) (x : Session) : (s.setSession x).fires = s.fires := rfl
@[simp] theorem setSession_waiters (s : State) (x : Session) : (s.setSession x).waiters = s.waiters := rfl
@[simp] theorem setSession_dsWrites (s : State) (x : Session) : (s.setSession x).dsWrites = s.dsWrites := rfl
@[simp] theorem setSession_flows (s : State) (x : Session) : (s.setSession x).flows = s.flows := rfl
@[simp] theorem setSession_pause (s : State) (x : Session) : (s.setSession x).pause = s.pause := rfl
@[simp] theorem setSession_paused (s : State) (x : Session) : (s.setSession x).paused = s.paused := rfl
@[simp] theorem setSession_linkState (s : State) (x : Session) : (s.setSession x).linkState = s.linkState := rfl
@[simp] theorem setSession_training (s : State) (x : Session) : (s.setSession x).training = s.training := rfl
@[simp] theorem setSession_sideband (s : State) (x : Session) : (s.setSession x).sideband = s.sideband := rfl
@[simp] theorem setSession_lastSession (s : State) (x : Session) : (s.setSession x).lastSession = s.lastSession := rfl
@[simp] theorem setSession_messages (s : State) (x : Session) : (s.setSession x).messages = s.messages := rfl
@[simp] theorem setSession_outbox (s : State) (x : Session) : (s.setSession x).outbox = s.outbox := rfl
@[simp] theorem setSession_timer (s : State) (x : Session) : (s.setSession x).timer = s.timer := rfl
@[simp] theorem setSession_elapsed (s : State) (x : Session) : (s.setSession x).elapsed = s.elapsed := rfl
@[simp] theorem setSession_timerFrac (s : State) (x : Session) : (s.setSession x).timerFrac = s.timerFrac := rfl
@[simp] theorem setSession_issues (s : State) (x : Session) : (s.setSession x).issues = s.issues := rfl
@[simp] theorem setSession_opp (s : State) (x : Session) : (s.setSession x).opp = s.opp := rfl
@[simp] theorem setSession_snapCtl (s : State) (x : Session) : (s.setSession x).snapCtl = s.snapCtl := rfl
@[simp] theorem setSession_snapTime (s : State) (x : Session) : (s.setSession x).snapTime = s.snapTime := rfl
@[simp] theorem setSession_snapAt (s : State) (x : Session) : (s.setSession x).snapAt = s.snapAt := rfl
@[simp] theorem setSession_snapSel (s : State) (x : Session) : (s.setSession x).snapSel = s.snapSel := rfl
@[simp] theorem setSession_snapFrom (s : State) (x : Session) : (s.setSession x).snapFrom = s.snapFrom := rfl
@[simp] theorem setSession_snapDraw (s : State) (x : Session) : (s.setSession x).snapDraw = s.snapDraw := rfl
@[simp] theorem setSession_hsCount (s : State) (x : Session) : (s.setSession x).hsCount = s.hsCount := rfl
@[simp] theorem setSession_hsRing (s : State) (x : Session) : (s.setSession x).hsRing = s.hsRing := rfl
@[simp] theorem setSession_launched (s : State) (x : Session) : (s.setSession x).launched = s.launched := rfl
@[simp] theorem setSession_alarm (s : State) (x : Session) : (s.setSession x).alarm = s.alarm := rfl
@[simp] theorem setSession_flash (s : State) (x : Session) : (s.setSession x).flash = s.flash := rfl
@[simp] theorem setSession_retired (s : State) (x : Session) : (s.setSession x).retired = s.retired := rfl
@[simp] theorem setSession_agenda (s : State) (x : Session) : (s.setSession x).agenda = s.agenda := rfl
@[simp] theorem setSession_fresh (s : State) (x : Session) : (s.setSession x).fresh = s.fresh := rfl
@[simp] theorem setSession_moves (s : State) (x : Session) : (s.setSession x).moves = s.moves := rfl
@[simp] theorem setSession_cur (s : State) (x : Session) : (s.setSession x).cur = s.cur := rfl
@[simp] theorem setSession_turn (s : State) (x : Session) : (s.setSession x).turn = s.turn := rfl
@[simp] theorem setSession_held (s : State) (x : Session) : (s.setSession x).held = s.held := rfl

/-! ### pokeHome -/

@[simp] theorem pokeHome_badLines (s : State) (a : Nat) (bs : List Byte) : (s.pokeHome a bs).badLines = s.badLines := rfl
@[simp] theorem pokeHome_inflight (s : State) (a : Nat) (bs : List Byte) : (s.pokeHome a bs).inflight = s.inflight := rfl
@[simp] theorem pokeHome_nextId (s : State) (a : Nat) (bs : List Byte) : (s.pokeHome a bs).nextId = s.nextId := rfl
@[simp] theorem pokeHome_waves (s : State) (a : Nat) (bs : List Byte) : (s.pokeHome a bs).waves = s.waves := rfl
@[simp] theorem pokeHome_crews (s : State) (a : Nat) (bs : List Byte) : (s.pokeHome a bs).crews = s.crews := rfl
@[simp] theorem pokeHome_cores (s : State) (a : Nat) (bs : List Byte) : (s.pokeHome a bs).cores = s.cores := rfl
@[simp] theorem pokeHome_clusters (s : State) (a : Nat) (bs : List Byte) : (s.pokeHome a bs).clusters = s.clusters := rfl
@[simp] theorem pokeHome_siteA (s : State) (a : Nat) (bs : List Byte) : (s.pokeHome a bs).siteA = s.siteA := rfl
@[simp] theorem pokeHome_siteB (s : State) (a : Nat) (bs : List Byte) : (s.pokeHome a bs).siteB = s.siteB := rfl
@[simp] theorem pokeHome_launches (s : State) (a : Nat) (bs : List Byte) : (s.pokeHome a bs).launches = s.launches := rfl
@[simp] theorem pokeHome_gangs (s : State) (a : Nat) (bs : List Byte) : (s.pokeHome a bs).gangs = s.gangs := rfl
@[simp] theorem pokeHome_gangDone (s : State) (a : Nat) (bs : List Byte) : (s.pokeHome a bs).gangDone = s.gangDone := rfl
@[simp] theorem pokeHome_offers (s : State) (a : Nat) (bs : List Byte) : (s.pokeHome a bs).offers = s.offers := rfl
@[simp] theorem pokeHome_joins (s : State) (a : Nat) (bs : List Byte) : (s.pokeHome a bs).joins = s.joins := rfl
@[simp] theorem pokeHome_fires (s : State) (a : Nat) (bs : List Byte) : (s.pokeHome a bs).fires = s.fires := rfl
@[simp] theorem pokeHome_waiters (s : State) (a : Nat) (bs : List Byte) : (s.pokeHome a bs).waiters = s.waiters := rfl
@[simp] theorem pokeHome_dsWrites (s : State) (a : Nat) (bs : List Byte) : (s.pokeHome a bs).dsWrites = s.dsWrites := rfl
@[simp] theorem pokeHome_flows (s : State) (a : Nat) (bs : List Byte) : (s.pokeHome a bs).flows = s.flows := rfl
@[simp] theorem pokeHome_pause (s : State) (a : Nat) (bs : List Byte) : (s.pokeHome a bs).pause = s.pause := rfl
@[simp] theorem pokeHome_paused (s : State) (a : Nat) (bs : List Byte) : (s.pokeHome a bs).paused = s.paused := rfl
@[simp] theorem pokeHome_linkState (s : State) (a : Nat) (bs : List Byte) : (s.pokeHome a bs).linkState = s.linkState := rfl
@[simp] theorem pokeHome_training (s : State) (a : Nat) (bs : List Byte) : (s.pokeHome a bs).training = s.training := rfl
@[simp] theorem pokeHome_sideband (s : State) (a : Nat) (bs : List Byte) : (s.pokeHome a bs).sideband = s.sideband := rfl
@[simp] theorem pokeHome_sessions (s : State) (a : Nat) (bs : List Byte) : (s.pokeHome a bs).sessions = s.sessions := rfl
@[simp] theorem pokeHome_lastSession (s : State) (a : Nat) (bs : List Byte) : (s.pokeHome a bs).lastSession = s.lastSession := rfl
@[simp] theorem pokeHome_messages (s : State) (a : Nat) (bs : List Byte) : (s.pokeHome a bs).messages = s.messages := rfl
@[simp] theorem pokeHome_outbox (s : State) (a : Nat) (bs : List Byte) : (s.pokeHome a bs).outbox = s.outbox := rfl
@[simp] theorem pokeHome_timer (s : State) (a : Nat) (bs : List Byte) : (s.pokeHome a bs).timer = s.timer := rfl
@[simp] theorem pokeHome_elapsed (s : State) (a : Nat) (bs : List Byte) : (s.pokeHome a bs).elapsed = s.elapsed := rfl
@[simp] theorem pokeHome_timerFrac (s : State) (a : Nat) (bs : List Byte) : (s.pokeHome a bs).timerFrac = s.timerFrac := rfl
@[simp] theorem pokeHome_issues (s : State) (a : Nat) (bs : List Byte) : (s.pokeHome a bs).issues = s.issues := rfl
@[simp] theorem pokeHome_opp (s : State) (a : Nat) (bs : List Byte) : (s.pokeHome a bs).opp = s.opp := rfl
@[simp] theorem pokeHome_snapCtl (s : State) (a : Nat) (bs : List Byte) : (s.pokeHome a bs).snapCtl = s.snapCtl := rfl
@[simp] theorem pokeHome_snapTime (s : State) (a : Nat) (bs : List Byte) : (s.pokeHome a bs).snapTime = s.snapTime := rfl
@[simp] theorem pokeHome_snapAt (s : State) (a : Nat) (bs : List Byte) : (s.pokeHome a bs).snapAt = s.snapAt := rfl
@[simp] theorem pokeHome_snapSel (s : State) (a : Nat) (bs : List Byte) : (s.pokeHome a bs).snapSel = s.snapSel := rfl
@[simp] theorem pokeHome_snapFrom (s : State) (a : Nat) (bs : List Byte) : (s.pokeHome a bs).snapFrom = s.snapFrom := rfl
@[simp] theorem pokeHome_snapDraw (s : State) (a : Nat) (bs : List Byte) : (s.pokeHome a bs).snapDraw = s.snapDraw := rfl
@[simp] theorem pokeHome_hsCount (s : State) (a : Nat) (bs : List Byte) : (s.pokeHome a bs).hsCount = s.hsCount := rfl
@[simp] theorem pokeHome_hsRing (s : State) (a : Nat) (bs : List Byte) : (s.pokeHome a bs).hsRing = s.hsRing := rfl
@[simp] theorem pokeHome_launched (s : State) (a : Nat) (bs : List Byte) : (s.pokeHome a bs).launched = s.launched := rfl
@[simp] theorem pokeHome_alarm (s : State) (a : Nat) (bs : List Byte) : (s.pokeHome a bs).alarm = s.alarm := rfl
@[simp] theorem pokeHome_flash (s : State) (a : Nat) (bs : List Byte) : (s.pokeHome a bs).flash = s.flash := rfl
@[simp] theorem pokeHome_retired (s : State) (a : Nat) (bs : List Byte) : (s.pokeHome a bs).retired = s.retired := rfl
@[simp] theorem pokeHome_agenda (s : State) (a : Nat) (bs : List Byte) : (s.pokeHome a bs).agenda = s.agenda := rfl
@[simp] theorem pokeHome_fresh (s : State) (a : Nat) (bs : List Byte) : (s.pokeHome a bs).fresh = s.fresh := rfl
@[simp] theorem pokeHome_moves (s : State) (a : Nat) (bs : List Byte) : (s.pokeHome a bs).moves = s.moves := rfl
@[simp] theorem pokeHome_cur (s : State) (a : Nat) (bs : List Byte) : (s.pokeHome a bs).cur = s.cur := rfl
@[simp] theorem pokeHome_turn (s : State) (a : Nat) (bs : List Byte) : (s.pokeHome a bs).turn = s.turn := rfl
@[simp] theorem pokeHome_held (s : State) (a : Nat) (bs : List Byte) : (s.pokeHome a bs).held = s.held := rfl

/-! ### pokeAll -/

@[simp] theorem pokeAll_badLines (s : State) (ws : List (Nat × Byte)) : (s.pokeAll ws).badLines = s.badLines := rfl
@[simp] theorem pokeAll_inflight (s : State) (ws : List (Nat × Byte)) : (s.pokeAll ws).inflight = s.inflight := rfl
@[simp] theorem pokeAll_nextId (s : State) (ws : List (Nat × Byte)) : (s.pokeAll ws).nextId = s.nextId := rfl
@[simp] theorem pokeAll_waves (s : State) (ws : List (Nat × Byte)) : (s.pokeAll ws).waves = s.waves := rfl
@[simp] theorem pokeAll_crews (s : State) (ws : List (Nat × Byte)) : (s.pokeAll ws).crews = s.crews := rfl
@[simp] theorem pokeAll_cores (s : State) (ws : List (Nat × Byte)) : (s.pokeAll ws).cores = s.cores := rfl
@[simp] theorem pokeAll_clusters (s : State) (ws : List (Nat × Byte)) : (s.pokeAll ws).clusters = s.clusters := rfl
@[simp] theorem pokeAll_siteA (s : State) (ws : List (Nat × Byte)) : (s.pokeAll ws).siteA = s.siteA := rfl
@[simp] theorem pokeAll_siteB (s : State) (ws : List (Nat × Byte)) : (s.pokeAll ws).siteB = s.siteB := rfl
@[simp] theorem pokeAll_launches (s : State) (ws : List (Nat × Byte)) : (s.pokeAll ws).launches = s.launches := rfl
@[simp] theorem pokeAll_gangs (s : State) (ws : List (Nat × Byte)) : (s.pokeAll ws).gangs = s.gangs := rfl
@[simp] theorem pokeAll_gangDone (s : State) (ws : List (Nat × Byte)) : (s.pokeAll ws).gangDone = s.gangDone := rfl
@[simp] theorem pokeAll_offers (s : State) (ws : List (Nat × Byte)) : (s.pokeAll ws).offers = s.offers := rfl
@[simp] theorem pokeAll_joins (s : State) (ws : List (Nat × Byte)) : (s.pokeAll ws).joins = s.joins := rfl
@[simp] theorem pokeAll_fires (s : State) (ws : List (Nat × Byte)) : (s.pokeAll ws).fires = s.fires := rfl
@[simp] theorem pokeAll_waiters (s : State) (ws : List (Nat × Byte)) : (s.pokeAll ws).waiters = s.waiters := rfl
@[simp] theorem pokeAll_dsWrites (s : State) (ws : List (Nat × Byte)) : (s.pokeAll ws).dsWrites = s.dsWrites := rfl
@[simp] theorem pokeAll_flows (s : State) (ws : List (Nat × Byte)) : (s.pokeAll ws).flows = s.flows := rfl
@[simp] theorem pokeAll_pause (s : State) (ws : List (Nat × Byte)) : (s.pokeAll ws).pause = s.pause := rfl
@[simp] theorem pokeAll_paused (s : State) (ws : List (Nat × Byte)) : (s.pokeAll ws).paused = s.paused := rfl
@[simp] theorem pokeAll_linkState (s : State) (ws : List (Nat × Byte)) : (s.pokeAll ws).linkState = s.linkState := rfl
@[simp] theorem pokeAll_training (s : State) (ws : List (Nat × Byte)) : (s.pokeAll ws).training = s.training := rfl
@[simp] theorem pokeAll_sideband (s : State) (ws : List (Nat × Byte)) : (s.pokeAll ws).sideband = s.sideband := rfl
@[simp] theorem pokeAll_sessions (s : State) (ws : List (Nat × Byte)) : (s.pokeAll ws).sessions = s.sessions := rfl
@[simp] theorem pokeAll_lastSession (s : State) (ws : List (Nat × Byte)) : (s.pokeAll ws).lastSession = s.lastSession := rfl
@[simp] theorem pokeAll_messages (s : State) (ws : List (Nat × Byte)) : (s.pokeAll ws).messages = s.messages := rfl
@[simp] theorem pokeAll_outbox (s : State) (ws : List (Nat × Byte)) : (s.pokeAll ws).outbox = s.outbox := rfl
@[simp] theorem pokeAll_timer (s : State) (ws : List (Nat × Byte)) : (s.pokeAll ws).timer = s.timer := rfl
@[simp] theorem pokeAll_elapsed (s : State) (ws : List (Nat × Byte)) : (s.pokeAll ws).elapsed = s.elapsed := rfl
@[simp] theorem pokeAll_timerFrac (s : State) (ws : List (Nat × Byte)) : (s.pokeAll ws).timerFrac = s.timerFrac := rfl
@[simp] theorem pokeAll_issues (s : State) (ws : List (Nat × Byte)) : (s.pokeAll ws).issues = s.issues := rfl
@[simp] theorem pokeAll_opp (s : State) (ws : List (Nat × Byte)) : (s.pokeAll ws).opp = s.opp := rfl
@[simp] theorem pokeAll_snapCtl (s : State) (ws : List (Nat × Byte)) : (s.pokeAll ws).snapCtl = s.snapCtl := rfl
@[simp] theorem pokeAll_snapTime (s : State) (ws : List (Nat × Byte)) : (s.pokeAll ws).snapTime = s.snapTime := rfl
@[simp] theorem pokeAll_snapAt (s : State) (ws : List (Nat × Byte)) : (s.pokeAll ws).snapAt = s.snapAt := rfl
@[simp] theorem pokeAll_snapSel (s : State) (ws : List (Nat × Byte)) : (s.pokeAll ws).snapSel = s.snapSel := rfl
@[simp] theorem pokeAll_snapFrom (s : State) (ws : List (Nat × Byte)) : (s.pokeAll ws).snapFrom = s.snapFrom := rfl
@[simp] theorem pokeAll_snapDraw (s : State) (ws : List (Nat × Byte)) : (s.pokeAll ws).snapDraw = s.snapDraw := rfl
@[simp] theorem pokeAll_hsCount (s : State) (ws : List (Nat × Byte)) : (s.pokeAll ws).hsCount = s.hsCount := rfl
@[simp] theorem pokeAll_hsRing (s : State) (ws : List (Nat × Byte)) : (s.pokeAll ws).hsRing = s.hsRing := rfl
@[simp] theorem pokeAll_launched (s : State) (ws : List (Nat × Byte)) : (s.pokeAll ws).launched = s.launched := rfl
@[simp] theorem pokeAll_alarm (s : State) (ws : List (Nat × Byte)) : (s.pokeAll ws).alarm = s.alarm := rfl
@[simp] theorem pokeAll_flash (s : State) (ws : List (Nat × Byte)) : (s.pokeAll ws).flash = s.flash := rfl
@[simp] theorem pokeAll_retired (s : State) (ws : List (Nat × Byte)) : (s.pokeAll ws).retired = s.retired := rfl
@[simp] theorem pokeAll_agenda (s : State) (ws : List (Nat × Byte)) : (s.pokeAll ws).agenda = s.agenda := rfl
@[simp] theorem pokeAll_fresh (s : State) (ws : List (Nat × Byte)) : (s.pokeAll ws).fresh = s.fresh := rfl
@[simp] theorem pokeAll_moves (s : State) (ws : List (Nat × Byte)) : (s.pokeAll ws).moves = s.moves := rfl
@[simp] theorem pokeAll_cur (s : State) (ws : List (Nat × Byte)) : (s.pokeAll ws).cur = s.cur := rfl
@[simp] theorem pokeAll_turn (s : State) (ws : List (Nat × Byte)) : (s.pokeAll ws).turn = s.turn := rfl
@[simp] theorem pokeAll_held (s : State) (ws : List (Nat × Byte)) : (s.pokeAll ws).held = s.held := rfl

/-! ### clearLine -/

@[simp] theorem clearLine_mem (s : State) (a : Nat) : (s.clearLine a).mem = s.mem := rfl
@[simp] theorem clearLine_inflight (s : State) (a : Nat) : (s.clearLine a).inflight = s.inflight := rfl
@[simp] theorem clearLine_nextId (s : State) (a : Nat) : (s.clearLine a).nextId = s.nextId := rfl
@[simp] theorem clearLine_waves (s : State) (a : Nat) : (s.clearLine a).waves = s.waves := rfl
@[simp] theorem clearLine_crews (s : State) (a : Nat) : (s.clearLine a).crews = s.crews := rfl
@[simp] theorem clearLine_cores (s : State) (a : Nat) : (s.clearLine a).cores = s.cores := rfl
@[simp] theorem clearLine_clusters (s : State) (a : Nat) : (s.clearLine a).clusters = s.clusters := rfl
@[simp] theorem clearLine_siteA (s : State) (a : Nat) : (s.clearLine a).siteA = s.siteA := rfl
@[simp] theorem clearLine_siteB (s : State) (a : Nat) : (s.clearLine a).siteB = s.siteB := rfl
@[simp] theorem clearLine_launches (s : State) (a : Nat) : (s.clearLine a).launches = s.launches := rfl
@[simp] theorem clearLine_gangs (s : State) (a : Nat) : (s.clearLine a).gangs = s.gangs := rfl
@[simp] theorem clearLine_gangDone (s : State) (a : Nat) : (s.clearLine a).gangDone = s.gangDone := rfl
@[simp] theorem clearLine_offers (s : State) (a : Nat) : (s.clearLine a).offers = s.offers := rfl
@[simp] theorem clearLine_joins (s : State) (a : Nat) : (s.clearLine a).joins = s.joins := rfl
@[simp] theorem clearLine_fires (s : State) (a : Nat) : (s.clearLine a).fires = s.fires := rfl
@[simp] theorem clearLine_waiters (s : State) (a : Nat) : (s.clearLine a).waiters = s.waiters := rfl
@[simp] theorem clearLine_dsWrites (s : State) (a : Nat) : (s.clearLine a).dsWrites = s.dsWrites := rfl
@[simp] theorem clearLine_flows (s : State) (a : Nat) : (s.clearLine a).flows = s.flows := rfl
@[simp] theorem clearLine_pause (s : State) (a : Nat) : (s.clearLine a).pause = s.pause := rfl
@[simp] theorem clearLine_paused (s : State) (a : Nat) : (s.clearLine a).paused = s.paused := rfl
@[simp] theorem clearLine_linkState (s : State) (a : Nat) : (s.clearLine a).linkState = s.linkState := rfl
@[simp] theorem clearLine_training (s : State) (a : Nat) : (s.clearLine a).training = s.training := rfl
@[simp] theorem clearLine_sideband (s : State) (a : Nat) : (s.clearLine a).sideband = s.sideband := rfl
@[simp] theorem clearLine_sessions (s : State) (a : Nat) : (s.clearLine a).sessions = s.sessions := rfl
@[simp] theorem clearLine_lastSession (s : State) (a : Nat) : (s.clearLine a).lastSession = s.lastSession := rfl
@[simp] theorem clearLine_messages (s : State) (a : Nat) : (s.clearLine a).messages = s.messages := rfl
@[simp] theorem clearLine_outbox (s : State) (a : Nat) : (s.clearLine a).outbox = s.outbox := rfl
@[simp] theorem clearLine_timer (s : State) (a : Nat) : (s.clearLine a).timer = s.timer := rfl
@[simp] theorem clearLine_elapsed (s : State) (a : Nat) : (s.clearLine a).elapsed = s.elapsed := rfl
@[simp] theorem clearLine_timerFrac (s : State) (a : Nat) : (s.clearLine a).timerFrac = s.timerFrac := rfl
@[simp] theorem clearLine_issues (s : State) (a : Nat) : (s.clearLine a).issues = s.issues := rfl
@[simp] theorem clearLine_opp (s : State) (a : Nat) : (s.clearLine a).opp = s.opp := rfl
@[simp] theorem clearLine_snapCtl (s : State) (a : Nat) : (s.clearLine a).snapCtl = s.snapCtl := rfl
@[simp] theorem clearLine_snapTime (s : State) (a : Nat) : (s.clearLine a).snapTime = s.snapTime := rfl
@[simp] theorem clearLine_snapAt (s : State) (a : Nat) : (s.clearLine a).snapAt = s.snapAt := rfl
@[simp] theorem clearLine_snapSel (s : State) (a : Nat) : (s.clearLine a).snapSel = s.snapSel := rfl
@[simp] theorem clearLine_snapFrom (s : State) (a : Nat) : (s.clearLine a).snapFrom = s.snapFrom := rfl
@[simp] theorem clearLine_snapDraw (s : State) (a : Nat) : (s.clearLine a).snapDraw = s.snapDraw := rfl
@[simp] theorem clearLine_hsCount (s : State) (a : Nat) : (s.clearLine a).hsCount = s.hsCount := rfl
@[simp] theorem clearLine_hsRing (s : State) (a : Nat) : (s.clearLine a).hsRing = s.hsRing := rfl
@[simp] theorem clearLine_launched (s : State) (a : Nat) : (s.clearLine a).launched = s.launched := rfl
@[simp] theorem clearLine_alarm (s : State) (a : Nat) : (s.clearLine a).alarm = s.alarm := rfl
@[simp] theorem clearLine_flash (s : State) (a : Nat) : (s.clearLine a).flash = s.flash := rfl
@[simp] theorem clearLine_retired (s : State) (a : Nat) : (s.clearLine a).retired = s.retired := rfl
@[simp] theorem clearLine_agenda (s : State) (a : Nat) : (s.clearLine a).agenda = s.agenda := rfl
@[simp] theorem clearLine_fresh (s : State) (a : Nat) : (s.clearLine a).fresh = s.fresh := rfl
@[simp] theorem clearLine_moves (s : State) (a : Nat) : (s.clearLine a).moves = s.moves := rfl
@[simp] theorem clearLine_cur (s : State) (a : Nat) : (s.clearLine a).cur = s.cur := rfl
@[simp] theorem clearLine_turn (s : State) (a : Nat) : (s.clearLine a).turn = s.turn := rfl
@[simp] theorem clearLine_held (s : State) (a : Nat) : (s.clearLine a).held = s.held := rfl

/-! ### setFlow -/

@[simp] theorem setFlow_mem (s : State) (x : Flow) : (s.setFlow x).mem = s.mem := by
  unfold State.setFlow; split <;> rfl
@[simp] theorem setFlow_badLines (s : State) (x : Flow) : (s.setFlow x).badLines = s.badLines := by
  unfold State.setFlow; split <;> rfl
@[simp] theorem setFlow_inflight (s : State) (x : Flow) : (s.setFlow x).inflight = s.inflight := by
  unfold State.setFlow; split <;> rfl
@[simp] theorem setFlow_nextId (s : State) (x : Flow) : (s.setFlow x).nextId = s.nextId := by
  unfold State.setFlow; split <;> rfl
@[simp] theorem setFlow_waves (s : State) (x : Flow) : (s.setFlow x).waves = s.waves := by
  unfold State.setFlow; split <;> rfl
@[simp] theorem setFlow_crews (s : State) (x : Flow) : (s.setFlow x).crews = s.crews := by
  unfold State.setFlow; split <;> rfl
@[simp] theorem setFlow_cores (s : State) (x : Flow) : (s.setFlow x).cores = s.cores := by
  unfold State.setFlow; split <;> rfl
@[simp] theorem setFlow_clusters (s : State) (x : Flow) : (s.setFlow x).clusters = s.clusters := by
  unfold State.setFlow; split <;> rfl
@[simp] theorem setFlow_siteA (s : State) (x : Flow) : (s.setFlow x).siteA = s.siteA := by
  unfold State.setFlow; split <;> rfl
@[simp] theorem setFlow_siteB (s : State) (x : Flow) : (s.setFlow x).siteB = s.siteB := by
  unfold State.setFlow; split <;> rfl
@[simp] theorem setFlow_launches (s : State) (x : Flow) : (s.setFlow x).launches = s.launches := by
  unfold State.setFlow; split <;> rfl
@[simp] theorem setFlow_gangs (s : State) (x : Flow) : (s.setFlow x).gangs = s.gangs := by
  unfold State.setFlow; split <;> rfl
@[simp] theorem setFlow_gangDone (s : State) (x : Flow) : (s.setFlow x).gangDone = s.gangDone := by
  unfold State.setFlow; split <;> rfl
@[simp] theorem setFlow_offers (s : State) (x : Flow) : (s.setFlow x).offers = s.offers := by
  unfold State.setFlow; split <;> rfl
@[simp] theorem setFlow_joins (s : State) (x : Flow) : (s.setFlow x).joins = s.joins := by
  unfold State.setFlow; split <;> rfl
@[simp] theorem setFlow_fires (s : State) (x : Flow) : (s.setFlow x).fires = s.fires := by
  unfold State.setFlow; split <;> rfl
@[simp] theorem setFlow_waiters (s : State) (x : Flow) : (s.setFlow x).waiters = s.waiters := by
  unfold State.setFlow; split <;> rfl
@[simp] theorem setFlow_dsWrites (s : State) (x : Flow) : (s.setFlow x).dsWrites = s.dsWrites := by
  unfold State.setFlow; split <;> rfl
@[simp] theorem setFlow_pause (s : State) (x : Flow) : (s.setFlow x).pause = s.pause := by
  unfold State.setFlow; split <;> rfl
@[simp] theorem setFlow_paused (s : State) (x : Flow) : (s.setFlow x).paused = s.paused := by
  unfold State.setFlow; split <;> rfl
@[simp] theorem setFlow_linkState (s : State) (x : Flow) : (s.setFlow x).linkState = s.linkState := by
  unfold State.setFlow; split <;> rfl
@[simp] theorem setFlow_training (s : State) (x : Flow) : (s.setFlow x).training = s.training := by
  unfold State.setFlow; split <;> rfl
@[simp] theorem setFlow_sideband (s : State) (x : Flow) : (s.setFlow x).sideband = s.sideband := by
  unfold State.setFlow; split <;> rfl
@[simp] theorem setFlow_sessions (s : State) (x : Flow) : (s.setFlow x).sessions = s.sessions := by
  unfold State.setFlow; split <;> rfl
@[simp] theorem setFlow_lastSession (s : State) (x : Flow) : (s.setFlow x).lastSession = s.lastSession := by
  unfold State.setFlow; split <;> rfl
@[simp] theorem setFlow_messages (s : State) (x : Flow) : (s.setFlow x).messages = s.messages := by
  unfold State.setFlow; split <;> rfl
@[simp] theorem setFlow_outbox (s : State) (x : Flow) : (s.setFlow x).outbox = s.outbox := by
  unfold State.setFlow; split <;> rfl
@[simp] theorem setFlow_timer (s : State) (x : Flow) : (s.setFlow x).timer = s.timer := by
  unfold State.setFlow; split <;> rfl
@[simp] theorem setFlow_elapsed (s : State) (x : Flow) : (s.setFlow x).elapsed = s.elapsed := by
  unfold State.setFlow; split <;> rfl
@[simp] theorem setFlow_timerFrac (s : State) (x : Flow) : (s.setFlow x).timerFrac = s.timerFrac := by
  unfold State.setFlow; split <;> rfl
@[simp] theorem setFlow_issues (s : State) (x : Flow) : (s.setFlow x).issues = s.issues := by
  unfold State.setFlow; split <;> rfl
@[simp] theorem setFlow_opp (s : State) (x : Flow) : (s.setFlow x).opp = s.opp := by
  unfold State.setFlow; split <;> rfl
@[simp] theorem setFlow_snapCtl (s : State) (x : Flow) : (s.setFlow x).snapCtl = s.snapCtl := by
  unfold State.setFlow; split <;> rfl
@[simp] theorem setFlow_snapTime (s : State) (x : Flow) : (s.setFlow x).snapTime = s.snapTime := by
  unfold State.setFlow; split <;> rfl
@[simp] theorem setFlow_snapAt (s : State) (x : Flow) : (s.setFlow x).snapAt = s.snapAt := by
  unfold State.setFlow; split <;> rfl
@[simp] theorem setFlow_snapSel (s : State) (x : Flow) : (s.setFlow x).snapSel = s.snapSel := by
  unfold State.setFlow; split <;> rfl
@[simp] theorem setFlow_snapFrom (s : State) (x : Flow) : (s.setFlow x).snapFrom = s.snapFrom := by
  unfold State.setFlow; split <;> rfl
@[simp] theorem setFlow_snapDraw (s : State) (x : Flow) : (s.setFlow x).snapDraw = s.snapDraw := by
  unfold State.setFlow; split <;> rfl
@[simp] theorem setFlow_hsCount (s : State) (x : Flow) : (s.setFlow x).hsCount = s.hsCount := by
  unfold State.setFlow; split <;> rfl
@[simp] theorem setFlow_hsRing (s : State) (x : Flow) : (s.setFlow x).hsRing = s.hsRing := by
  unfold State.setFlow; split <;> rfl
@[simp] theorem setFlow_launched (s : State) (x : Flow) : (s.setFlow x).launched = s.launched := by
  unfold State.setFlow; split <;> rfl
@[simp] theorem setFlow_alarm (s : State) (x : Flow) : (s.setFlow x).alarm = s.alarm := by
  unfold State.setFlow; split <;> rfl
@[simp] theorem setFlow_flash (s : State) (x : Flow) : (s.setFlow x).flash = s.flash := by
  unfold State.setFlow; split <;> rfl
@[simp] theorem setFlow_retired (s : State) (x : Flow) : (s.setFlow x).retired = s.retired := by
  unfold State.setFlow; split <;> rfl
@[simp] theorem setFlow_agenda (s : State) (x : Flow) : (s.setFlow x).agenda = s.agenda := by
  unfold State.setFlow; split <;> rfl
@[simp] theorem setFlow_fresh (s : State) (x : Flow) : (s.setFlow x).fresh = s.fresh := by
  unfold State.setFlow; split <;> rfl
@[simp] theorem setFlow_moves (s : State) (x : Flow) : (s.setFlow x).moves = s.moves := by
  unfold State.setFlow; split <;> rfl
@[simp] theorem setFlow_cur (s : State) (x : Flow) : (s.setFlow x).cur = s.cur := by
  unfold State.setFlow; split <;> rfl
@[simp] theorem setFlow_turn (s : State) (x : Flow) : (s.setFlow x).turn = s.turn := by
  unfold State.setFlow; split <;> rfl
@[simp] theorem setFlow_held (s : State) (x : Flow) : (s.setFlow x).held = s.held := by
  unfold State.setFlow; split <;> rfl

/-! ### What they change -/

@[simp] theorem setWave_waves (s : State) (w : Wave) :
    (s.setWave w).waves = s.waves.map fun x => if x.key = w.key then w else x := rfl
@[simp] theorem setCrew_crews (s : State) (c : Crew) :
    (s.setCrew c).crews = s.crews.map fun x => if x.key = c.key then c else x := rfl
@[simp] theorem setCore_cores (s : State) (k : Nat) (c : Core) : (s.setCore k c).cores = s.cores.set k c := rfl
@[simp] theorem setCluster_clusters (s : State) (k : Nat) (c : Cluster) : (s.setCluster k c).clusters = s.clusters.set k c := rfl
@[simp] theorem updLaunch_launches (s : State) (n : Nat) (f : Launch → Launch) :
    (s.updLaunch n f).launches = s.launches.map fun l => if l.num = n then f l else l := rfl
@[simp] theorem setSession_sessions (s : State) (x : Session) :
    (s.setSession x).sessions = s.sessions.map fun y => if y.num = x.num then x else y := rfl
@[simp] theorem pokeHome_mem (s : State) (a : Nat) (bs : List Byte) : (s.pokeHome a bs).mem = SMap.setRun (w := 8) s.mem a bs := rfl
@[simp] theorem pokeAll_mem (s : State) (ws : List (Nat × Byte)) : (s.pokeAll ws).mem = SMap.setAll (w := 8) s.mem ws := rfl
@[simp] theorem updCore_eq (s : State) (k : Nat) (f : Core → Core) : s.updCore k f = s.setCore k (f (s.core k)) := rfl
@[simp] theorem updCluster_eq (s : State) (k : Nat) (f : Cluster → Cluster) : s.updCluster k f = s.setCluster k (f (s.cluster k)) := rfl
@[simp] theorem updSite_eq (s : State) (x : Nat) (f : Site → Site) : s.updSite x f = s.setSite x (f (s.site x)) := rfl

/-! ### Reading back -/

theorem wave?_setWave (s : State) (w : Wave) (k : Nat) :
    (s.setWave w).wave? k = if k = w.key ∧ (s.wave? k).isSome then some w else s.wave? k := by
  unfold State.wave?
  show (s.waves.map fun x => if x.key = w.key then w else x).find? _ = _
  induction s.waves with
  | nil => simp
  | cons x xs ih =>
    by_cases hx : x.key = w.key
    · by_cases hk : w.key = k
      · subst hk; simp [hx]
      · have hk' : ¬ k = w.key := fun h => hk h.symm
        have hxk : ¬ x.key = k := hx ▸ hk
        simp only [List.map_cons, hx, if_true, List.find?_cons, hk, decide_false, hk', false_and, if_false] at ih ⊢
        exact ih
    · by_cases hk : x.key = k
      · have hne : ¬ k = w.key := hk ▸ hx
        simp [hk, hne]
      · simp only [List.map_cons, hx, if_false, List.find?_cons, hk, decide_false]
        exact ih

theorem crew?_setCrew (s : State) (c : Crew) (k : Nat) :
    (s.setCrew c).crew? k = if k = c.key ∧ (s.crew? k).isSome then some c else s.crew? k := by
  unfold State.crew?
  show (s.crews.map fun x => if x.key = c.key then c else x).find? _ = _
  induction s.crews with
  | nil => simp
  | cons x xs ih =>
    by_cases hx : x.key = c.key
    · by_cases hk : c.key = k
      · subst hk; simp [hx]
      · have hk' : ¬ k = c.key := fun h => hk h.symm
        have hxk : ¬ x.key = k := hx ▸ hk
        simp only [List.map_cons, hx, if_true, List.find?_cons, hk, decide_false, hk', false_and, if_false] at ih ⊢
        exact ih
    · by_cases hk : x.key = k
      · have hne : ¬ k = c.key := hk ▸ hx
        simp [hk, hne]
      · simp only [List.map_cons, hx, if_false, List.find?_cons, hk, decide_false]
        exact ih

theorem core_setCore (s : State) (k j : Nat) (c : Core) :
    (s.setCore k c).core j = if j = k ∧ k < s.cores.length then c else s.core j := by
  unfold State.core State.setCore
  simp only [List.getD_eq_getElem?_getD, List.getElem?_set]
  by_cases h : j = k
  · subst h
    by_cases h2 : j < s.cores.length
    · simp [h2]
    · simp [h2]
  · simp [h, Ne.symm h]

theorem cluster_setCluster (s : State) (k j : Nat) (c : Cluster) :
    (s.setCluster k c).cluster j = if j = k ∧ k < s.clusters.length then c else s.cluster j := by
  unfold State.cluster State.setCluster
  simp only [List.getD_eq_getElem?_getD, List.getElem?_set]
  by_cases h : j = k
  · subst h
    by_cases h2 : j < s.clusters.length
    · simp [h2]
    · simp [h2]
  · simp [h, Ne.symm h]

theorem site_setSite (s : State) (x y : Nat) (t : Site) :
    (s.setSite x t).site y = if (x = 0 ↔ y = 0) then t else s.site y := by
  unfold State.site State.setSite
  by_cases hx : x = 0 <;> by_cases hy : y = 0 <;> simp [hx, hy]

end Sys2Proof.Laws
end

