-- ==== Sys2Proof/Laws/Memory.lean ====
section
/-!
SUPPORT. The maps of the machine: a read after a write, the canonical form, and that every operation that writes memory keeps
it.
-/
namespace Sys2Proof.Laws
open Sys2Proof.Machine

/-! ### Maps -/

/-- Every key of a map is above a bound. -/
def Above {w : Nat} (b : Nat) (m : SMap w) : Prop := ∀ p ∈ m, b < p.1

theorem wf_tail {w : Nat} {p : Nat × BitVec w} {m : SMap w} (h : SMap.wf (p :: m) = true) : SMap.wf m = true := by
  cases m with
  | nil => rfl
  | cons q m => simp only [SMap.wf, Bool.and_eq_true] at h; exact h.2

theorem wf_head {w : Nat} {a : Nat} {x : BitVec w} {m : SMap w} (h : SMap.wf ((a, x) :: m) = true) : x ≠ 0 := by
  cases m with
  | nil => simpa [SMap.wf] using h
  | cons q m => simp only [SMap.wf, Bool.and_eq_true, bne_iff_ne] at h; exact h.1.1

theorem wf_above {w : Nat} : ∀ {m : SMap w} {a : Nat} {x : BitVec w}, SMap.wf ((a, x) :: m) = true → Above a m
  | [], _, _, _ => fun _ h => nomatch h
  | (b, y) :: m, a, x, h => by
    have hab : a < b := by simp only [SMap.wf, Bool.and_eq_true, decide_eq_true_eq] at h; exact h.1.2
    intro p hp
    rcases List.mem_cons.mp hp with rfl | hp
    · exact hab
    · exact Nat.lt_trans hab (wf_above (wf_tail h) p hp)

theorem wf_cons {w : Nat} {a : Nat} {x : BitVec w} {m : SMap w} (hx : x ≠ 0) (ha : Above a m) (h : SMap.wf m = true) :
    SMap.wf ((a, x) :: m) = true := by
  cases m with
  | nil => simpa [SMap.wf] using hx
  | cons q m =>
    have := ha q (List.mem_cons_self ..)
    simp only [SMap.wf, Bool.and_eq_true, bne_iff_ne, decide_eq_true_eq]
    exact ⟨⟨hx, this⟩, h⟩

theorem get_above {w : Nat} : ∀ {m : SMap w} {k : Nat}, Above k m → SMap.get m k = 0
  | [], _, _ => rfl
  | (a, x) :: m, k, h => by
    have ha : k < a := h (a, x) (List.mem_cons_self ..)
    rw [SMap.get, if_neg (Nat.ne_of_gt ha)]
    exact get_above fun p hp => h p (List.mem_cons_of_mem _ hp)

theorem set_above {w : Nat} : ∀ {m : SMap w} {b k : Nat} {v : BitVec w}, b < k → Above b m → Above b (SMap.set m k v)
  | [], b, k, v, hk, _ => by
    unfold SMap.set; split
    · exact fun _ h => nomatch h
    · intro p hp; rcases List.mem_singleton.mp hp with rfl; exact hk
  | (a, x) :: m, b, k, v, hk, h => by
    have ha : b < a := h (a, x) (List.mem_cons_self ..)
    have ht : Above b m := fun p hp => h p (List.mem_cons_of_mem _ hp)
    have hc : ∀ {n : Nat} {y : BitVec w} {t : SMap w}, b < n → Above b t → Above b ((n, y) :: t) := fun hn ht p hp => by
      rcases List.mem_cons.mp hp with rfl | hp
      · exact hn
      · exact ht p hp
    unfold SMap.set
    repeat' split
    · exact h
    · exact hc hk h
    · exact ht
    · exact hc hk ht
    · exact hc ha (set_above hk ht)

/-- Writing a key keeps the canonical form. -/
theorem set_wf {w : Nat} : ∀ {m : SMap w} {k : Nat} {v : BitVec w}, SMap.wf m = true → SMap.wf (SMap.set m k v) = true
  | [], k, v, _ => by
    unfold SMap.set; split
    · rfl
    · rename_i h; simpa [SMap.wf] using h
  | (a, x) :: m, k, v, h => by
    unfold SMap.set
    split
    · rename_i hk
      split
      · exact h
      · rename_i hv
        refine wf_cons hv (fun p hp => ?_) h
        rcases List.mem_cons.mp hp with rfl | hp
        · exact hk
        · exact Nat.lt_trans hk (wf_above h p hp)
    · split
      · rename_i hka
        subst hka
        split
        · exact wf_tail h
        · rename_i hv; exact wf_cons hv (wf_above h) (wf_tail h)
      · rename_i h1 h2
        exact wf_cons (wf_head h) (set_above (by omega) (wf_above h)) (set_wf (wf_tail h))

/-- A read after a write. -/
theorem get_set {w : Nat} : ∀ {m : SMap w} {k : Nat} {v : BitVec w} (j : Nat), SMap.wf m = true →
    SMap.get (SMap.set m k v) j = if j = k then v else SMap.get m j
  | [], k, v, j, _ => by
    unfold SMap.set
    by_cases hv : v = 0
    · rw [if_pos hv, hv]; simp [SMap.get]
    · rw [if_neg hv]; simp only [SMap.get]; simp only [eq_comm]
  | (a, x) :: m, k, v, j, h => by
    unfold SMap.set
    by_cases h1 : k < a
    · rw [if_pos h1]
      have hk : SMap.get ((a, x) :: m) k = 0 := get_above fun p hp => by
        rcases List.mem_cons.mp hp with rfl | hp
        · exact h1
        · exact Nat.lt_trans h1 (wf_above h p hp)
      by_cases hv : v = 0
      · rw [if_pos hv]
        by_cases hj : j = k
        · rw [if_pos hj, hj, hk, hv]
        · rw [if_neg hj]
      · rw [if_neg hv, SMap.get]
        simp only [eq_comm (a := k)]
    · rw [if_neg h1]
      by_cases h2 : k = a
      · rw [if_pos h2]
        subst h2
        have hk : SMap.get m k = 0 := get_above (wf_above h)
        by_cases hv : v = 0
        · rw [if_pos hv]
          by_cases hj : j = k
          · rw [if_pos hj, hj, hk, hv]
          · rw [if_neg hj, SMap.get, if_neg fun h => hj h.symm]
        · rw [if_neg hv, SMap.get, SMap.get]
          by_cases hj : j = k
          · rw [if_pos hj.symm, if_pos hj]
          · rw [if_neg fun h => hj h.symm, if_neg hj, if_neg fun h => hj h.symm]
      · rw [if_neg h2, SMap.get, SMap.get, get_set j (wf_tail h)]
        by_cases ha : a = j
        · subst ha; rw [if_pos rfl, if_neg fun h => h2 h.symm, if_pos rfl]
        · rw [if_neg ha, if_neg ha]

theorem setAll_wf {w : Nat} : ∀ (kvs : List (Nat × BitVec w)) {m : SMap w}, SMap.wf m = true → SMap.wf (SMap.setAll m kvs) = true
  | [], _, h => h
  | p :: kvs, m, h => setAll_wf kvs (m := SMap.set m p.1 p.2) (set_wf h)

theorem setRun_wf {w : Nat} : ∀ (vs : List (BitVec w)) {m : SMap w} {k : Nat}, SMap.wf m = true → SMap.wf (SMap.setRun m k vs) = true
  | [], _, _, h => h
  | v :: vs, m, k, h => setRun_wf vs (m := SMap.set m k v) (set_wf h)

/-- A read after a run of writes. -/
theorem get_setRun {w : Nat} : ∀ (vs : List (BitVec w)) {m : SMap w} {k : Nat} (j : Nat), SMap.wf m = true →
    SMap.get (SMap.setRun m k vs) j = if k ≤ j ∧ j < k + vs.length then vs.getD (j - k) 0 else SMap.get m j
  | [], m, k, j, _ => by
    rw [if_neg (by simp only [List.length_nil]; omega)]; rfl
  | v :: vs, m, k, j, h => by
    rw [SMap.setRun, get_setRun vs j (set_wf h), get_set j h]
    simp only [List.length_cons]
    by_cases h1 : k + 1 ≤ j ∧ j < k + 1 + vs.length
    · obtain ⟨d, rfl⟩ : ∃ d, j = k + 1 + d := ⟨j - (k + 1), by omega⟩
      rw [if_pos h1, if_pos (by omega)]
      have e1 : k + 1 + d - (k + 1) = d := by omega
      have e2 : k + 1 + d - k = d + 1 := by omega
      rw [e1, e2]; simp
    · rw [if_neg h1]
      by_cases h2 : j = k
      · subst h2
        rw [if_pos rfl, if_pos (by omega)]; simp
      · rw [if_neg h2, if_neg (by omega)]

/-- A read after a list of writes: the last to the key, else what stood there. -/
theorem get_setAll {w : Nat} : ∀ (kvs : List (Nat × BitVec w)) {m : SMap w} (j : Nat), SMap.wf m = true →
    SMap.get (SMap.setAll m kvs) j = match kvs.reverse.find? fun p => p.1 = j with
      | some p => p.2
      | none => SMap.get m j
  | [], _, _, _ => rfl
  | p :: kvs, m, j, h => by
    show SMap.get (SMap.setAll (SMap.set m p.1 p.2) kvs) j = _
    rw [get_setAll kvs j (set_wf h), List.reverse_cons, List.find?_append]
    cases hf : kvs.reverse.find? fun p => p.1 = j with
    | some q => simp
    | none =>
      simp only [Option.none_or, List.find?_cons, List.find?_nil]
      rw [get_set j h]
      by_cases hp : p.1 = j
      · simp [hp]
      · simp [hp, Ne.symm hp]

/-- Canonical maps that read alike are equal. -/
theorem wf_ext {w : Nat} : ∀ {m n : SMap w}, SMap.wf m = true → SMap.wf n = true → (∀ k, SMap.get m k = SMap.get n k) → m = n
  | [], [], _, _, _ => rfl
  | [], (b, y) :: n, _, hn, h => absurd (h b) (by rw [SMap.get, SMap.get, if_pos rfl]; exact (wf_head hn).symm)
  | (a, x) :: m, [], hm, _, h => absurd (h a) (by rw [SMap.get, SMap.get, if_pos rfl]; exact wf_head hm)
  | (a, x) :: m, (b, y) :: n, hm, hn, h => by
    have hab : a = b := by
      rcases Nat.lt_trichotomy a b with hlt | heq | hgt
      · have := h a
        rw [SMap.get, if_pos rfl, get_above (m := (b, y) :: n) fun p hp => by
          rcases List.mem_cons.mp hp with rfl | hp
          · exact hlt
          · exact Nat.lt_trans hlt (wf_above hn p hp)] at this
        exact absurd this (wf_head hm)
      · exact heq
      · have := h b
        rw [show SMap.get ((b, y) :: n) b = y from if_pos rfl, get_above (m := (a, x) :: m) fun p hp => by
          rcases List.mem_cons.mp hp with rfl | hp
          · exact hgt
          · exact Nat.lt_trans hgt (wf_above hm p hp)] at this
        exact absurd this.symm (wf_head hn)
    subst hab
    have hxy : x = y := by have := h a; rwa [SMap.get, SMap.get, if_pos rfl, if_pos rfl] at this
    subst hxy
    rw [wf_ext (wf_tail hm) (wf_tail hn) fun k => ?_]
    by_cases hk : a = k
    · subst hk; rw [get_above (wf_above hm), get_above (wf_above hn)]
    · have := h k; rwa [SMap.get, SMap.get, if_neg hk, if_neg hk] at this

/-! ### Memory keeps its canonical form -/

theorem canonical_of_mem {s t : State} (h : t.mem = s.mem) (hs : s.Canonical) : t.Canonical := by
  unfold State.Canonical; rw [h]; exact hs

theorem foldl_mem {α : Type} {f : State → α → State} (hf : ∀ s a, (f s a).mem = s.mem) :
    ∀ (l : List α) (s : State), (l.foldl f s).mem = s.mem
  | [], _ => rfl
  | a :: l, s => (foldl_mem hf l (f s a)).trans (hf s a)

theorem sendTo_mem (s : State) (x : Session) (m : Message) : (s.sendTo x m).mem = s.mem := by
  unfold State.sendTo; split <;> rfl

theorem pokeHome_canonical {s : State} (a : Nat) (bs : List Byte) (h : s.Canonical) : (s.pokeHome a bs).Canonical := setRun_wf bs h
theorem pokeAll_canonical {s : State} (ws : List (Nat × Byte)) (h : s.Canonical) : (s.pokeAll ws).Canonical := setAll_wf ws h

/-- What a byte reads as after a run of bytes is written. -/
theorem homeByte_pokeHome {s : State} (a : Nat) (bs : List Byte) (h : s.Canonical) (k : Nat) :
    (s.pokeHome a bs).homeByte k = if a ≤ k ∧ k < a + bs.length then bs.getD (k - a) 0 else s.homeByte k :=
  get_setRun bs k h

theorem homeByte_pokeAll {s : State} (ws : List (Nat × Byte)) (h : s.Canonical) (k : Nat) :
    (s.pokeAll ws).homeByte k = match ws.reverse.find? fun p => p.1 = k with
      | some p => p.2
      | none => s.homeByte k :=
  (get_setAll ws k h).trans (by cases ws.reverse.find? fun p => p.1 = k <;> rfl)

theorem updSite_mem (s : State) (x : Nat) (f : Site → Site) : (s.updSite x f).mem = s.mem := by simp
theorem orCompanion_canonical {s : State} (a : Nat) (b : BitVec 8) (h : s.Canonical) : (s.orCompanion a b).Canonical :=
  pokeHome_canonical _ _ h

theorem applyPacket_mem (s : State) (f : FlowId) (n : BitVec 16) : (s.applyPacket f n).mem = s.mem := by
  unfold State.applyPacket; simp
theorem passPacket_mem (s : State) (f : FlowId) : (s.passPacket f).mem = s.mem := by
  unfold State.passPacket; simp

theorem report_mem (s : State) (n : Nat) (r : BitVec 512) : (s.report n r).mem = s.mem := by
  unfold State.report
  repeat' split
  all_goals first | rfl | exact foldl_mem (fun s x => sendTo_mem s x _) _ _ | exact sendTo_mem _ _ _

theorem failLaunch_mem (s : State) (n : Nat) (ti va : DWord) (l : Nat) (pc : Word) (d : BitVec 16) (c : BitVec 8) :
    (s.failLaunch n ti va l pc d c).mem = s.mem := by
  unfold State.failLaunch
  split
  · rfl
  · split
    · rfl
    · exact (report_mem _ _ _).trans rfl

theorem updCopies_mem (s : State) (core lvl : Nat) (f : Copies → Copies) : (s.updCopies core lvl f).mem = s.mem := by
  unfold State.updCopies; split <;> simp [State.updCore, State.updCluster]

theorem dropCopiesTo_mem (s : State) (core lvl pa n : Nat) : (s.dropCopiesTo core lvl pa n).mem = s.mem := by
  refine foldl_mem (fun s k => ?_) _ _
  split
  · exact updCopies_mem _ _ _ _
  · rfl

/-- A write that takes its effect at its home keeps the canonical form. -/
theorem applyAtHome_canonical {s : State} (y : Inflight) (h : s.Canonical) : (s.applyAtHome y).Canonical := by
  unfold State.applyAtHome
  dsimp only
  split
  · split
    · exact setRun_wf y.data h
    · exact canonical_of_mem (failLaunch_mem _ _ _ _ _ _ _ _) h
  · exact setRun_wf y.data h

theorem raise_mem (s : State) (y : Inflight) (sc : Scope) : (s.raise y sc).mem = s.mem := by
  unfold State.raise
  split
  · exact dropCopiesTo_mem _ _ _ _ _
  · rfl

/-- Performing a write keeps the canonical form. -/
theorem performOne_canonical {s : State} (x : Inflight) (sc : Scope) (h : s.Canonical) : (s.performOne x sc).Canonical := by
  unfold State.performOne
  split
  · exact h
  · rename_i y _
    have ht : ((s.dropCopiesTo y.core 2 y.pa y.data.length).dropWrite y).Canonical :=
      canonical_of_mem (dropCopiesTo_mem s y.core 2 y.pa y.data.length) h
    have ha := applyAtHome_canonical y ht
    have hr := fun sc => canonical_of_mem (raise_mem s y sc) h
    dsimp only
    split
    · split
      · exact ha
      · split
        · split
          · exact canonical_of_mem (applyPacket_mem _ _ _) ha
          · exact h
        · split
          · exact canonical_of_mem (passPacket_mem _ _) ha
          · exact hr _
    · exact hr _

theorem foldl_canonical {α : Type} {f : State → α → State} (hf : ∀ s a, s.Canonical → (f s a).Canonical) :
    ∀ (l : List α) {s : State}, s.Canonical → (l.foldl f s).Canonical
  | [], _, h => h
  | a :: l, _, h => foldl_canonical hf l (hf _ a h)

theorem performAll_canonical {s : State} (xs : List Inflight) (sc : Scope) (h : s.Canonical) : (s.performAll xs sc).Canonical :=
  foldl_canonical (fun _ x hs => performOne_canonical x sc hs) _ h
theorem flushTo_canonical {s : State} (core pa n : Nat) (sc : Scope) (h : s.Canonical) : (s.flushTo core pa n sc).Canonical :=
  performAll_canonical _ _ h
theorem flushRange_canonical {s : State} (core pa n : Nat) (h : s.Canonical) : (s.flushRange core pa n).Canonical :=
  performAll_canonical _ _ h

theorem insertRecord_mem (s : State) (x : Nat) (w : Option Nat) (r : BitVec 256) : (s.insertRecord x w r).mem = s.mem := by
  unfold State.insertRecord; simp
theorem ackFlow_mem (s : State) (f : FlowId) : (s.ackFlow f).mem = s.mem := by
  unfold State.ackFlow; dsimp only; split <;> simp

theorem landRecords_canonical {s : State} (core : Nat) (h : s.Canonical) : (s.landRecords core).Canonical := by
  refine foldl_canonical (fun s p hs => ?_) _ h
  split
  · split
    · exact hs
    · exact canonical_of_mem ((applyPacket_mem _ _ _).trans (insertRecord_mem _ _ _ _)) hs
  · exact hs

/-- A release keeps the canonical form. -/
theorem releaseAt_canonical {s : State} (core : Nat) (sc : Scope) (h : s.Canonical) : (s.releaseAt core sc).Canonical := by
  unfold State.releaseAt
  split
  · exact h
  · dsimp only
    split
    · exact performAll_canonical _ _ h
    · exact foldl_canonical (fun s f hs => canonical_of_mem (ackFlow_mem s f) hs) _
        (landRecords_canonical core (performAll_canonical _ _ (performAll_canonical _ _ h)))

theorem failPoison_canonical {s : State} (c : Culprit) (h : s.Canonical) : (s.failPoison c).Canonical :=
  canonical_of_mem (failLaunch_mem _ _ _ _ _ _ _ _) h

theorem commitWrite_canonical {s : State} (lines : List DsLine) (w : DsWrite) (h : s.Canonical) :
    (s.commitWrite lines w).Canonical := by
  unfold State.commitWrite
  dsimp only
  split
  · exact failPoison_canonical _ h
  · refine pokeAll_canonical _ ?_
    split
    · exact h
    · exact h

/-- The commit of a DS phase keeps the canonical form. -/
theorem commitPhase_canonical {s : State} (phase : Nat) (h : s.Canonical) : (s.commitPhase phase).Canonical := by
  unfold State.commitPhase
  refine canonical_of_mem (s := _) rfl (foldl_canonical (fun s t hs => ?_) _
    (foldl_canonical (fun s d hs => ?_) _ (performAll_canonical _ _ h)))
  · exact foldl_canonical (fun s w hs => commitWrite_canonical _ w hs) _ hs
  · exact pokeHome_canonical _ _ hs

theorem dsDiscard_canonical {s : State} (c : Crew) (h : s.Canonical) : (s.dsDiscard c).Canonical := by
  unfold State.dsDiscard
  split
  · exact h
  · exact canonical_of_mem (s := _) rfl (foldl_canonical (fun s d hs => pokeAll_canonical _ hs) _ h)

end Sys2Proof.Laws
end

