-- ==== Sys2Proof/Laws/OpTable.lean ====
section
/-!
SUPPORT. What the decoder's table of operations (02 R53) reads for each OP.
-/
namespace Sys2Proof.Laws

variable (w : LongWord)

theorem parse_00 (h : longOp w = 0x00) : parseLong w =
    (parseMov w) := by
  unfold parseLong; rw [h]; rfl
theorem parse_01 (h : longOp w = 0x01) : parseLong w =
    (pIntS w Instr.iadd Instr.iaddLi) := by
  unfold parseLong; rw [h]; rfl
theorem parse_02 (h : longOp w = 0x02) : parseLong w =
    (pIntS w Instr.isub Instr.isubLi) := by
  unfold parseLong; rw [h]; rfl
theorem parse_03 (h : longOp w = 0x03) : parseLong w =
    (pIntL w Instr.imul Instr.imulLi) := by
  unfold parseLong; rw [h]; rfl
theorem parse_04 (h : longOp w = 0x04) : parseLong w =
    (pInt w Instr.imulh) := by
  unfold parseLong; rw [h]; rfl
theorem parse_05 (h : longOp w = 0x05) : parseLong w =
    (pInt w Instr.imad) := by
  unfold parseLong; rw [h]; rfl
theorem parse_06 (h : longOp w = 0x06) : parseLong w =
    (do
    guard ((longFn w).extractLsb' 1 2 = 0)
    pInt w Instr.imadWide) := by
  unfold parseLong; rw [h]; rfl
theorem parse_07 (h : longOp w = 0x07) : parseLong w =
    (pInt w Instr.idiv) := by
  unfold parseLong; rw [h]; rfl
theorem parse_08 (h : longOp w = 0x08) : parseLong w =
    (pInt w Instr.irem) := by
  unfold parseLong; rw [h]; rfl
theorem parse_09 (h : longOp w = 0x09) : parseLong w =
    (do
    guard ((longFn w).getLsbD 0 = false)
    pIntM w Instr.iabs) := by
  unfold parseLong; rw [h]; rfl
theorem parse_0A (h : longOp w = 0x0A) : parseLong w =
    (do
    guard ((longFn w).getLsbD 0 = false)
    pIntM w Instr.ineg) := by
  unfold parseLong; rw [h]; rfl
theorem parse_0B (h : longOp w = 0x0B) : parseLong w =
    (pIntL w Instr.imin Instr.iminLi) := by
  unfold parseLong; rw [h]; rfl
theorem parse_0C (h : longOp w = 0x0C) : parseLong w =
    (pIntL w Instr.imax Instr.imaxLi) := by
  unfold parseLong; rw [h]; rfl
theorem parse_0D (h : longOp w = 0x0D) : parseLong w =
    (pIntM w Instr.addc) := by
  unfold parseLong; rw [h]; rfl
theorem parse_0E (h : longOp w = 0x0E) : parseLong w =
    (pIntM w Instr.subc) := by
  unfold parseLong; rw [h]; rfl
theorem parse_0F (h : longOp w = 0x0F) : parseLong w =
    (parseLea w) := by
  unfold parseLong; rw [h]; rfl
theorem parse_10 (h : longOp w = 0x10) : parseLong w =
    (pIntL w Instr.and Instr.andLi) := by
  unfold parseLong; rw [h]; rfl
theorem parse_11 (h : longOp w = 0x11) : parseLong w =
    (pIntL w Instr.or Instr.orLi) := by
  unfold parseLong; rw [h]; rfl
theorem parse_12 (h : longOp w = 0x12) : parseLong w =
    (pIntL w Instr.xor Instr.xorLi) := by
  unfold parseLong; rw [h]; rfl
theorem parse_13 (h : longOp w = 0x13) : parseLong w =
    (pInt w Instr.not) := by
  unfold parseLong; rw [h]; rfl
theorem parse_14 (h : longOp w = 0x14) : parseLong w =
    (pIntL w Instr.andn Instr.andnLi) := by
  unfold parseLong; rw [h]; rfl
theorem parse_15 (h : longOp w = 0x15) : parseLong w =
    (pIntL w Instr.shl Instr.shlLi) := by
  unfold parseLong; rw [h]; rfl
theorem parse_16 (h : longOp w = 0x16) : parseLong w =
    (pIntL w Instr.shr Instr.shrLi) := by
  unfold parseLong; rw [h]; rfl
theorem parse_17 (h : longOp w = 0x17) : parseLong w =
    (pIntL w Instr.sra Instr.sraLi) := by
  unfold parseLong; rw [h]; rfl
theorem parse_18 (h : longOp w = 0x18) : parseLong w =
    (pIntM w Instr.shf) := by
  unfold parseLong; rw [h]; rfl
theorem parse_19 (h : longOp w = 0x19) : parseLong w =
    (pInt w Instr.bfe) := by
  unfold parseLong; rw [h]; rfl
theorem parse_1A (h : longOp w = 0x1A) : parseLong w =
    (pInt w Instr.bfi) := by
  unfold parseLong; rw [h]; rfl
theorem parse_1B (h : longOp w = 0x1B) : parseLong w =
    (pInt w Instr.popc) := by
  unfold parseLong; rw [h]; rfl
theorem parse_1C (h : longOp w = 0x1C) : parseLong w =
    (pInt w Instr.clz) := by
  unfold parseLong; rw [h]; rfl
theorem parse_1D (h : longOp w = 0x1D) : parseLong w =
    (pInt w Instr.ctz) := by
  unfold parseLong; rw [h]; rfl
theorem parse_1E (h : longOp w = 0x1E) : parseLong w =
    (pInt w Instr.brev) := by
  unfold parseLong; rw [h]; rfl
theorem parse_1F (h : longOp w = 0x1F) : parseLong w =
    (some (Instr.lut3 (lrOf w) (longMod w ++ longFn w))) := by
  unfold parseLong; rw [h]; rfl
theorem parse_20 (h : longOp w = 0x20) : parseLong w =
    (pFpR w (fun _ => true) Instr.fadd) := by
  unfold parseLong; rw [h]; rfl
theorem parse_21 (h : longOp w = 0x21) : parseLong w =
    (pFpR w (fun _ => true) Instr.fsub) := by
  unfold parseLong; rw [h]; rfl
theorem parse_22 (h : longOp w = 0x22) : parseLong w =
    (pFpR w (fun _ => true) Instr.fmul) := by
  unfold parseLong; rw [h]; rfl
theorem parse_23 (h : longOp w = 0x23) : parseLong w =
    (pFpR w (fun _ => true) Instr.ffma) := by
  unfold parseLong; rw [h]; rfl
theorem parse_24 (h : longOp w = 0x24) : parseLong w =
    (pFpR w (fun _ => true) Instr.fdiv) := by
  unfold parseLong; rw [h]; rfl
theorem parse_25 (h : longOp w = 0x25) : parseLong w =
    (pFpR w (fun _ => true) Instr.fsqrt) := by
  unfold parseLong; rw [h]; rfl
theorem parse_26 (h : longOp w = 0x26) : parseLong w =
    (pFp w (· ≠ .f64) Instr.frcpApprox) := by
  unfold parseLong; rw [h]; rfl
theorem parse_27 (h : longOp w = 0x27) : parseLong w =
    (pFp w (· ≠ .f64) Instr.frsqApprox) := by
  unfold parseLong; rw [h]; rfl
theorem parse_28 (h : longOp w = 0x28) : parseLong w =
    (pFp w (· ≠ .f64) Instr.fexp2Approx) := by
  unfold parseLong; rw [h]; rfl
theorem parse_29 (h : longOp w = 0x29) : parseLong w =
    (pFp w (· ≠ .f64) Instr.flog2Approx) := by
  unfold parseLong; rw [h]; rfl
theorem parse_2A (h : longOp w = 0x2A) : parseLong w =
    (pFp w (· ≠ .f64) Instr.fsinApprox) := by
  unfold parseLong; rw [h]; rfl
theorem parse_2B (h : longOp w = 0x2B) : parseLong w =
    (pFp w (· ≠ .f64) Instr.fcosApprox) := by
  unfold parseLong; rw [h]; rfl
theorem parse_2C (h : longOp w = 0x2C) : parseLong w =
    (pFp w (fun _ => true) Instr.fmin) := by
  unfold parseLong; rw [h]; rfl
theorem parse_2D (h : longOp w = 0x2D) : parseLong w =
    (pFp w (fun _ => true) Instr.fmax) := by
  unfold parseLong; rw [h]; rfl
theorem parse_2E (h : longOp w = 0x2E) : parseLong w =
    (pFp w (fun _ => true) Instr.fminx) := by
  unfold parseLong; rw [h]; rfl
theorem parse_2F (h : longOp w = 0x2F) : parseLong w =
    (pFp w (fun _ => true) Instr.fmaxx) := by
  unfold parseLong; rw [h]; rfl
theorem parse_30 (h : longOp w = 0x30) : parseLong w =
    (pFp w (fun _ => true) Instr.fabs) := by
  unfold parseLong; rw [h]; rfl
theorem parse_31 (h : longOp w = 0x31) : parseLong w =
    (pFp w (fun _ => true) Instr.fneg) := by
  unfold parseLong; rw [h]; rfl
theorem parse_32 (h : longOp w = 0x32) : parseLong w =
    (pFp w (fun _ => true) Instr.fcopysign) := by
  unfold parseLong; rw [h]; rfl
theorem parse_33 (h : longOp w = 0x33) : parseLong w =
    (do
    let rm ← decodeRm ((longFn w).extractLsb' 3 3)
    let t ← decodeFTy ((longFn w).extractLsb' 0 3)
    guard ((longMod w).getLsbD 1 = false)
    some (Instr.frint (lrOf w) t rm ((longMod w).getLsbD 0))) := by
  unfold parseLong; rw [h]; rfl
theorem parse_34 (h : longOp w = 0x34) : parseLong w =
    (pFp w (fun _ => true) Instr.fgetexp) := by
  unfold parseLong; rw [h]; rfl
theorem parse_35 (h : longOp w = 0x35) : parseLong w =
    (pFp w (fun _ => true) Instr.fgetman) := by
  unfold parseLong; rw [h]; rfl
theorem parse_36 (h : longOp w = 0x36) : parseLong w =
    (pFpR w (fun _ => true) Instr.fscale) := by
  unfold parseLong; rw [h]; rfl
theorem parse_37 (h : longOp w = 0x37) : parseLong w =
    (pFp w (fun _ => true) Instr.fclass) := by
  unfold parseLong; rw [h]; rfl
theorem parse_38 (h : longOp w = 0x38) : parseLong w =
    (pFpR w (fun t => t = .f32 ∨ t = .f16 ∨ t = .bf16) Instr.ffmaMix) := by
  unfold parseLong; rw [h]; rfl
theorem parse_39 (h : longOp w = 0x39) : parseLong w =
    (pFpR w (fun t => t = .f16x2 ∨ t = .bf16x2) Instr.fdot2) := by
  unfold parseLong; rw [h]; rfl
theorem parse_40 (h : longOp w = 0x40) : parseLong w =
    (do
    let cc ← decodeCc ((longFn w).extractLsb' 3 3)
    let t ← decodeITy ((longFn w).extractLsb' 0 3)
    guard (longMod w = 0)
    some (Instr.icmp (lrOf w) t cc)) := by
  unfold parseLong; rw [h]; rfl
theorem parse_41 (h : longOp w = 0x41) : parseLong w =
    (parseFcmp w) := by
  unfold parseLong; rw [h]; rfl
theorem parse_42 (h : longOp w = 0x42) : parseLong w =
    (do
    guard ((longFn w).extractLsb' 3 3 = 0 ∧ longMod w = 0)
    let wd ← parseW ((longFn w).extractLsb' 0 3)
    some (Instr.sel (lrOf w) wd)) := by
  unfold parseLong; rw [h]; rfl
theorem parse_43 (h : longOp w = 0x43) : parseLong w =
    (pLr0 w Instr.pand) := by
  unfold parseLong; rw [h]; rfl
theorem parse_44 (h : longOp w = 0x44) : parseLong w =
    (pLr0 w Instr.por) := by
  unfold parseLong; rw [h]; rfl
theorem parse_45 (h : longOp w = 0x45) : parseLong w =
    (pLr0 w Instr.pxor) := by
  unfold parseLong; rw [h]; rfl
theorem parse_46 (h : longOp w = 0x46) : parseLong w =
    (pLr0 w Instr.pnot) := by
  unfold parseLong; rw [h]; rfl
theorem parse_47 (h : longOp w = 0x47) : parseLong w =
    (pLr0 w Instr.pmov) := by
  unfold parseLong; rw [h]; rfl
theorem parse_50 (h : longOp w = 0x50) : parseLong w =
    (parseCvt w) := by
  unfold parseLong; rw [h]; rfl
theorem parse_51 (h : longOp w = 0x51) : parseLong w =
    (do
    let rm ← decodeRm ((longFn w).extractLsb' 3 3)
    guard ((longFn w).extractLsb' 0 3 = 1 ∧ longMod w = 0)
    some (Instr.mxq (lrOf w) rm)) := by
  unfold parseLong; rw [h]; rfl
theorem parse_52 (h : longOp w = 0x52) : parseLong w =
    (do
    let m ← decodeShMode ((longFn w).extractLsb' 3 3)
    let wd ← parseW ((longFn w).extractLsb' 0 3)
    some (Instr.shfl (lrOf w) m wd (longMod w))) := by
  unfold parseLong; rw [h]; rfl
theorem parse_53 (h : longOp w = 0x53) : parseLong w =
    (do
    guard ((longMod w).getLsbD 1 = false)
    parseRed w Instr.wred) := by
  unfold parseLong; rw [h]; rfl
theorem parse_54 (h : longOp w = 0x54) : parseLong w =
    (parseRed w (fun x op t => Instr.wscan x op t ((longMod w).getLsbD 1))) := by
  unfold parseLong; rw [h]; rfl
theorem parse_55 (h : longOp w = 0x55) : parseLong w =
    (pLr0 w Instr.voteAny) := by
  unfold parseLong; rw [h]; rfl
theorem parse_56 (h : longOp w = 0x56) : parseLong w =
    (pLr0 w Instr.voteAll) := by
  unfold parseLong; rw [h]; rfl
theorem parse_57 (h : longOp w = 0x57) : parseLong w =
    (do
    guard (longFn w = 0 ∧ (longMod w).getLsbD 1 = false)
    some (Instr.ballot (lrOf w) ((longMod w).getLsbD 0))) := by
  unfold parseLong; rw [h]; rfl
theorem parse_58 (h : longOp w = 0x58) : parseLong w =
    (pLr0 w Instr.laneFirst) := by
  unfold parseLong; rw [h]; rfl
theorem parse_60 (h : longOp w = 0x60) : parseLong w =
    (pLb0 w Instr.bra) := by
  unfold parseLong; rw [h]; rfl
theorem parse_61 (h : longOp w = 0x61) : parseLong w =
    (pLr0 w Instr.brx) := by
  unfold parseLong; rw [h]; rfl
theorem parse_62 (h : longOp w = 0x62) : parseLong w =
    (pLb0 w Instr.call) := by
  unfold parseLong; rw [h]; rfl
theorem parse_63 (h : longOp w = 0x63) : parseLong w =
    (pLr0 w Instr.callx) := by
  unfold parseLong; rw [h]; rfl
theorem parse_64 (h : longOp w = 0x64) : parseLong w =
    (pLr0 w Instr.ret) := by
  unfold parseLong; rw [h]; rfl
theorem parse_65 (h : longOp w = 0x65) : parseLong w =
    (pLr0 w Instr.exit) := by
  unfold parseLong; rw [h]; rfl
theorem parse_66 (h : longOp w = 0x66) : parseLong w =
    (pLr0 w Instr.yield) := by
  unfold parseLong; rw [h]; rfl
theorem parse_67 (h : longOp w = 0x67) : parseLong w =
    (pLr0 w Instr.nop) := by
  unfold parseLong; rw [h]; rfl
theorem parse_70 (h : longOp w = 0x70) : parseLong w =
    (pLoad w false true (fun x sz sx => Instr.ldG x sz sx ((longFn w).getLsbD 4))) := by
  unfold parseLong; rw [h]; rfl
theorem parse_71 (h : longOp w = 0x71) : parseLong w =
    (pStore w false true (fun x sz => Instr.stG x sz ((longFn w).getLsbD 4))) := by
  unfold parseLong; rw [h]; rfl
theorem parse_72 (h : longOp w = 0x72) : parseLong w =
    (pLoad w true false (fun x sz sx => Instr.ldS x sz sx ((longFn w).getLsbD 5))) := by
  unfold parseLong; rw [h]; rfl
theorem parse_73 (h : longOp w = 0x73) : parseLong w =
    (pStore w true false (fun x sz => Instr.stS x sz ((longFn w).getLsbD 5))) := by
  unfold parseLong; rw [h]; rfl
theorem parse_74 (h : longOp w = 0x74) : parseLong w =
    (pLoad w false false Instr.ldC) := by
  unfold parseLong; rw [h]; rfl
theorem parse_75 (h : longOp w = 0x75) : parseLong w =
    (pLoad w false false Instr.ldF) := by
  unfold parseLong; rw [h]; rfl
theorem parse_76 (h : longOp w = 0x76) : parseLong w =
    (pLm w 0 Instr.pfG) := by
  unfold parseLong; rw [h]; rfl
theorem parse_90 (h : longOp w = 0x90) : parseLong w =
    (pAtom w false false Instr.atomAdd) := by
  unfold parseLong; rw [h]; rfl
theorem parse_91 (h : longOp w = 0x91) : parseLong w =
    (pAtom w false false Instr.atomSub) := by
  unfold parseLong; rw [h]; rfl
theorem parse_92 (h : longOp w = 0x92) : parseLong w =
    (pAtom w false true Instr.atomMin) := by
  unfold parseLong; rw [h]; rfl
theorem parse_93 (h : longOp w = 0x93) : parseLong w =
    (pAtom w false true Instr.atomMax) := by
  unfold parseLong; rw [h]; rfl
theorem parse_94 (h : longOp w = 0x94) : parseLong w =
    (pAtom w false false Instr.atomAnd) := by
  unfold parseLong; rw [h]; rfl
theorem parse_95 (h : longOp w = 0x95) : parseLong w =
    (pAtom w false false Instr.atomOr) := by
  unfold parseLong; rw [h]; rfl
theorem parse_96 (h : longOp w = 0x96) : parseLong w =
    (pAtom w false false Instr.atomXor) := by
  unfold parseLong; rw [h]; rfl
theorem parse_97 (h : longOp w = 0x97) : parseLong w =
    (pAtom w true false Instr.atomExch) := by
  unfold parseLong; rw [h]; rfl
theorem parse_98 (h : longOp w = 0x98) : parseLong w =
    (pAtom w false false Instr.atomInc) := by
  unfold parseLong; rw [h]; rfl
theorem parse_99 (h : longOp w = 0x99) : parseLong w =
    (pAtom w false false Instr.atomDec) := by
  unfold parseLong; rw [h]; rfl
theorem parse_9A (h : longOp w = 0x9A) : parseLong w =
    (pAtom w true false Instr.atomCas) := by
  unfold parseLong; rw [h]; rfl
theorem parse_9B (h : longOp w = 0x9B) : parseLong w =
    (pLoft w false Instr.loftAdd) := by
  unfold parseLong; rw [h]; rfl
theorem parse_9C (h : longOp w = 0x9C) : parseLong w =
    (pLoft w true Instr.loftMin) := by
  unfold parseLong; rw [h]; rfl
theorem parse_9D (h : longOp w = 0x9D) : parseLong w =
    (pLoft w true Instr.loftMax) := by
  unfold parseLong; rw [h]; rfl
theorem parse_9E (h : longOp w = 0x9E) : parseLong w =
    (do
    guard ((longFn w).extractLsb' 1 2 = 1 ∧ (longFn w).extractLsb' 3 2 = 0)
    some (Instr.loftCas (lmOf w) ((longFn w).getLsbD 0) ((longFn w).getLsbD 5))) := by
  unfold parseLong; rw [h]; rfl
theorem parse_9F (h : longOp w = 0x9F) : parseLong w =
    (do
    guard ((longFn w).extractLsb' 1 5 = 0b00101)
    some (Instr.loftSax (lmOf w) ((longFn w).getLsbD 0))) := by
  unfold parseLong; rw [h]; rfl
theorem parse_A0 (h : longOp w = 0xA0) : parseLong w =
    (do
    guard (longFn w &&& 0b110111 = 0)
    some (if (longFn w).getLsbD 3 then Instr.fenceCb (lmOf w) else Instr.fence (lmOf w))) := by
  unfold parseLong; rw [h]; rfl
theorem parse_A1 (h : longOp w = 0xA1) : parseLong w =
    (pLm w 4 Instr.barInit) := by
  unfold parseLong; rw [h]; rfl
theorem parse_A2 (h : longOp w = 0xA2) : parseLong w =
    (pLm w 4 Instr.barArrive) := by
  unfold parseLong; rw [h]; rfl
theorem parse_A3 (h : longOp w = 0xA3) : parseLong w =
    (pLm w 4 Instr.barWait) := by
  unfold parseLong; rw [h]; rfl
theorem parse_A4 (h : longOp w = 0xA4) : parseLong w =
    (pLm w 4 Instr.barSync) := by
  unfold parseLong; rw [h]; rfl
theorem parse_A5 (h : longOp w = 0xA5) : parseLong w =
    (pLm w 4 Instr.barExpect) := by
  unfold parseLong; rw [h]; rfl
theorem parse_A6 (h : longOp w = 0xA6) : parseLong w =
    (pLm w 4 Instr.barFree) := by
  unfold parseLong; rw [h]; rfl
theorem parse_A7 (h : longOp w = 0xA7) : parseLong w =
    (pLr0 w Instr.gbar) := by
  unfold parseLong; rw [h]; rfl
theorem parse_A8 (h : longOp w = 0xA8) : parseLong w =
    (pLm w 3 Instr.semaTake) := by
  unfold parseLong; rw [h]; rfl
theorem parse_A9 (h : longOp w = 0xA9) : parseLong w =
    (pLm w 3 Instr.semaWait) := by
  unfold parseLong; rw [h]; rfl
theorem parse_AA (h : longOp w = 0xAA) : parseLong w =
    (pLm w 3 Instr.semaGive) := by
  unfold parseLong; rw [h]; rfl
theorem parse_C0 (h : longOp w = 0xC0) : parseLong w =
    (do
    guard (longFn w = 0 ∧ scopeOk (leOf w).f10)
    some (Instr.copy (leOf w))) := by
  unfold parseLong; rw [h]; rfl
theorem parse_C1 (h : longOp w = 0xC1) : parseLong w =
    (pLe0 w Instr.cbufInit) := by
  unfold parseLong; rw [h]; rfl
theorem parse_C2 (h : longOp w = 0xC2) : parseLong w =
    (pLe0 w Instr.cbufTake) := by
  unfold parseLong; rw [h]; rfl
theorem parse_C3 (h : longOp w = 0xC3) : parseLong w =
    (pLe0 w Instr.cbufGive) := by
  unfold parseLong; rw [h]; rfl
theorem parse_C8 (h : longOp w = 0xC8) : parseLong w =
    (parseQbind w) := by
  unfold parseLong; rw [h]; rfl
theorem parse_C9 (h : longOp w = 0xC9) : parseLong w =
    (pLe0 w Instr.qstat) := by
  unfold parseLong; rw [h]; rfl
theorem parse_CA (h : longOp w = 0xCA) : parseLong w =
    (pLe0 w Instr.meterPost) := by
  unfold parseLong; rw [h]; rfl
theorem parse_CB (h : longOp w = 0xCB) : parseLong w =
    (pLe0 w Instr.expose) := by
  unfold parseLong; rw [h]; rfl
theorem parse_D0 (h : longOp w = 0xD0) : parseLong w =
    (pLe0 w Instr.spawn) := by
  unfold parseLong; rw [h]; rfl
theorem parse_D1 (h : longOp w = 0xD1) : parseLong w =
    (do
    guard (longFn w = 0 ∧ scopeOk (leOf w).f10)
    some (Instr.post (leOf w))) := by
  unfold parseLong; rw [h]; rfl
theorem parse_D2 (h : longOp w = 0xD2) : parseLong w =
    (do
    guard (longFn w = 0 ∧ scopeOk (leOf w).f10)
    some (Instr.join (leOf w))) := by
  unfold parseLong; rw [h]; rfl
theorem parse_D3 (h : longOp w = 0xD3) : parseLong w =
    (pLe0 w Instr.taskEnd) := by
  unfold parseLong; rw [h]; rfl
theorem parse_D4 (h : longOp w = 0xD4) : parseLong w =
    (do
    guard (longFn w = 0 ∧ fragTargetOk (leOf w).f10)
    some (Instr.fragRead (leOf w))) := by
  unfold parseLong; rw [h]; rfl
theorem parse_D5 (h : longOp w = 0xD5) : parseLong w =
    (do
    guard (longFn w = 0 ∧ fragTargetOk (leOf w).f10)
    some (Instr.fragWrite (leOf w))) := by
  unfold parseLong; rw [h]; rfl
theorem parse_D6 (h : longOp w = 0xD6) : parseLong w =
    (pLe0 w Instr.fragResume) := by
  unfold parseLong; rw [h]; rfl
theorem parse_D7 (h : longOp w = 0xD7) : parseLong w =
    (pLe0 w Instr.fragKill) := by
  unfold parseLong; rw [h]; rfl
theorem parse_D8 (h : longOp w = 0xD8) : parseLong w =
    (pLe0 w Instr.fragList) := by
  unfold parseLong; rw [h]; rfl
theorem parse_B0 (h : longOp w = 0xB0) : parseLong w = parseMma w := by
  unfold parseLong; rw [h]; rfl
theorem parse_B1 (h : longOp w = 0xB1) : parseLong w = parseMma w := by
  unfold parseLong; rw [h]; rfl
theorem parse_B2 (h : longOp w = 0xB2) : parseLong w = parseMma w := by
  unfold parseLong; rw [h]; rfl
theorem parse_B3 (h : longOp w = 0xB3) : parseLong w = parseMma w := by
  unfold parseLong; rw [h]; rfl
theorem parse_B4 (h : longOp w = 0xB4) : parseLong w = parseMma w := by
  unfold parseLong; rw [h]; rfl
theorem parse_B5 (h : longOp w = 0xB5) : parseLong w = parseMma w := by
  unfold parseLong; rw [h]; rfl
theorem parse_B6 (h : longOp w = 0xB6) : parseLong w = parseMma w := by
  unfold parseLong; rw [h]; rfl
theorem parse_E0 (h : longOp w = 0xE0) : parseLong w = parseSys w := by
  unfold parseLong; rw [h]; rfl
theorem parse_E1 (h : longOp w = 0xE1) : parseLong w = parseSys w := by
  unfold parseLong; rw [h]; rfl
theorem parse_E2 (h : longOp w = 0xE2) : parseLong w = parseSys w := by
  unfold parseLong; rw [h]; rfl
theorem parse_E3 (h : longOp w = 0xE3) : parseLong w = parseSys w := by
  unfold parseLong; rw [h]; rfl
theorem parse_E4 (h : longOp w = 0xE4) : parseLong w = parseSys w := by
  unfold parseLong; rw [h]; rfl
theorem parse_E5 (h : longOp w = 0xE5) : parseLong w = parseSys w := by
  unfold parseLong; rw [h]; rfl
theorem parse_E6 (h : longOp w = 0xE6) : parseLong w = parseSys w := by
  unfold parseLong; rw [h]; rfl

end Sys2Proof.Laws
end

