-- ==== Sys2Proof/Laws/Operations.lean ====
section
/-!
SUPPORT. What the shared operations can do, said once for each: reports, translation, the accesses of units, writes, and the
queues.
-/
namespace Sys2Proof.Laws
open Sys2Proof.Machine

/-! ### Reports -/

/-- Only what the module has to tell the host differs. -/
def Told (s t : State) : Prop := t = { s with sessions := t.sessions, messages := t.messages, outbox := t.outbox }

theorem Told.refl (s : State) : Told s s := rfl
theorem Told.trans {s t u : State} (h : Told s t) (k : Told t u) : Told s u := by
  unfold Told at *; rw [k, h]
theorem Told.mem {s t : State} (h : Told s t) : t.mem = s.mem := by rw [h]

theorem sendTo_told (s : State) (x : Session) (m : Message) : Told s (s.sendTo x m) := by
  unfold State.sendTo; split <;> rfl

theorem foldl_told {α : Type} {f : State → α → State} (hf : ∀ s a, Told s (f s a)) : ∀ (l : List α) (s : State), Told s (l.foldl f s)
  | [], s => Told.refl s
  | a :: l, s => (hf s a).trans (foldl_told hf l (f s a))

/-- A report changes nothing but what the host hears. -/
theorem report_told (s : State) (n : Nat) (r : BitVec 512) : Told s (s.report n r) := by
  unfold State.report
  dsimp only
  split
  · exact sendTo_told _ _ _
  · split
    · rfl
    · exact foldl_told (fun s x => sendTo_told s x _) _ _

/-- A launch fails once: it is marked, and reported. -/
theorem failLaunch_cases (s : State) (n : Nat) (ti a : DWord) (l : Nat) (pc : Word) (d : BitVec 16) (c : BitVec 8) :
    s.failLaunch n ti a l pc d c = s ∨ Told (s.updLaunch n fun l => { l with failed := true }) (s.failLaunch n ti a l pc d c) := by
  unfold State.failLaunch
  split
  · exact .inl rfl
  · split
    · exact .inl rfl
    · exact .inr (report_told _ _ _)

/-! ### Translation and the accesses of units -/

/-- A translation that hits the TLB changes nothing. -/
theorem translate_hit {s : State} {site launch va : Nat} {t : TlbEntry} (h : s.tlb? site launch va = some t) :
    s.translate site launch va = (s, s.xlatOf t va) := by
  unfold State.translate; rw [h]

/-- A page whose D bit was seen set needs no mark. -/
theorem markDirty_seen {s : State} {site launch va : Nat} {t : TlbEntry} (h : s.tlb? site launch va = some t)
    (hd : t.dirty = true) : s.markDirty site launch va = s := by
  unfold State.markDirty; rw [h]; simp [hd]

/-- A translation for a write through a leaf whose D bit was seen set changes nothing. -/
theorem translateWrite_seen {s : State} {site launch va : Nat} {priv : Bool} {need : Need} {t : TlbEntry}
    (h : s.tlb? site launch va = some t) (hd : t.dirty = true) :
    s.translateWrite site launch va priv need = (s, s.xlatOf t va) := by
  unfold State.translateWrite
  rw [translate_hit h]
  simp only [State.xlatOf, h, hd, Bool.true_or, if_true]

/-- The translation that an access makes, for a write or not, changes nothing where the TLB maps its page and, for a write,
has seen the leaf's D bit. -/
theorem translateFor_hit {s : State} {site launch va : Nat} {priv : Bool} {need : Need} {t : TlbEntry}
    (h : s.tlb? site launch va = some t) (hw : need.w = true → t.dirty = true) :
    (if need.w then s.translateWrite site launch va priv need else s.translate site launch va) = (s, s.xlatOf t va) := by
  split
  · rename_i hn; exact translateWrite_seen h (hw hn)
  · exact translate_hit h

theorem passPacket_canonical {s : State} (f : FlowId) (h : s.Canonical) : (s.passPacket f).Canonical :=
  canonical_of_mem (passPacket_mem _ _) h
theorem siteTrip_canonical {s : State} (site : Nat) (u : FlowUnit) (h : s.Canonical) : (s.siteTrip site u).Canonical := by
  unfold State.siteTrip
  split
  · exact passPacket_canonical _ (passPacket_canonical _ h)
  · exact h
theorem unitTrip_canonical {s : State} (u : FlowUnit) (site pa : Nat) (h : s.Canonical) : (s.unitTrip u site pa).Canonical := by
  unfold State.unitTrip
  split
  · exact siteTrip_canonical _ _ h
  · exact h
theorem markLeaf_canonical {s : State} (site comp : Nat) (b : BitVec 8) (h : s.Canonical) : (s.markLeaf site comp b).Canonical := by
  unfold State.markLeaf
  exact orCompanion_canonical _ _ (unitTrip_canonical _ _ _ h)

/-- A translation keeps memory canonical: it sets A bits alone. -/
theorem translate_canonical {s : State} (site launch va : Nat) (h : s.Canonical) : (s.translate site launch va).1.Canonical := by
  unfold State.translate
  split
  · exact h
  · split
    · exact h
    · have ht := foldl_canonical (f := fun s (_ : Nat) => s.siteTrip site .walker) (fun s _ hs => siteTrip_canonical _ _ hs)
        (s.farWalk site launch va) h
      dsimp only
      split
      · exact ht
      · exact canonical_of_mem (updSite_mem _ _ _) (markLeaf_canonical _ _ _ ht)

theorem markDirty_canonical {s : State} (site launch va : Nat) (h : s.Canonical) : (s.markDirty site launch va).Canonical := by
  unfold State.markDirty
  split
  · exact h
  · split
    · exact h
    · exact canonical_of_mem (updSite_mem _ _ _) (markLeaf_canonical _ _ _ h)

theorem notWindow {pa : Nat} (h : isMemory pa = true) : isWindow pa = false := by
  unfold isMemory at h; unfold isWindow
  cases hr : Config.region pa <;> simp_all

/-- A translation that the TLBs hold, with its D bit seen set for a write, needs nothing of the link. -/
theorem walkHeld_hit {s : State} {site launch va : Nat} {priv : Bool} {need : Need} {t : TlbEntry}
    (ht : ((s.site site).tlb.find? fun t => t.maps launch va) = some t) (hw : need.w = true → t.dirty = true) :
    s.walkHeld site launch va priv need = false := by
  unfold State.walkHeld State.tlb?
  rw [ht]
  cases h : need.w
  · simp
  · simp [hw h]

/-- A unit reaches a mapped range, and nothing changes. -/
theorem unitAt_mapped {s : State} {site launch va n pa : Nat} {priv : Bool} {need : Need}
    (h : UnitMapped s site launch va n priv need pa) : s.unitAt site launch va n priv need = .ok s pa := by
  obtain ⟨t, k, ht, hx, hd, hw⟩ := h.page
  have hb : s.rangeBad pa n = false := by unfold State.rangeBad; rw [h.lines]; rfl
  unfold State.unitAt
  rw [if_neg (Nat.not_le.mpr h.below), if_neg (by simp [h.aligned]), walkHeld_hit ht hw, if_neg Bool.false_ne_true, translateFor_hit ht hw, hx]
  simp only [hd, notWindow h.memory, hb, Bool.and_false, Bool.false_eq_true, if_false]
  cases hn : need.w
  · rfl
  · simp only [if_true]; rw [markDirty_seen ht (hw hn)]

/-! ### Writes keep memory canonical -/

theorem dropCopies_mem (s : State) (core pa n : Nat) : (s.dropCopies core pa n).mem = s.mem := dropCopiesTo_mem _ _ _ _ _

theorem passIn_canonical {s : State} (f : FlowId) (h : s.Canonical) : (s.passIn f).Canonical :=
  passPacket_canonical _ (performAll_canonical _ _ h)
theorem roundTrip_canonical {s : State} (g : Agent) (k : PKind) (h : s.Canonical) : (s.roundTrip g k).Canonical :=
  passPacket_canonical _ (passIn_canonical _ h)

theorem toHome_canonical {s : State} (g : Agent) (k : PKind) (pa : Nat) (ret : Bool) (h : s.Canonical) :
    (s.toHome g k pa ret).Canonical := by
  unfold State.toHome
  split
  · exact h
  · split
    · exact roundTrip_canonical _ _ h
    · exact passIn_canonical _ h

/-- An access that acts at the home. -/
theorem actAtHome_canonical {s : State} (g : Agent) (kind : PKind) (op : WriteOp) (pa n : Nat) (data : List Byte) (ret : Bool)
    (h : s.Canonical) : (s.actAtHome g kind op pa n data ret).1.Canonical := by
  unfold State.actAtHome
  dsimp only
  refine pokeAll_canonical _ (toHome_canonical _ _ _ _ (canonical_of_mem (dropCopies_mem _ _ _ _) ?_))
  split <;> exact flushRange_canonical _ _ _ h

/-- A store in flight. -/
theorem storeAt_canonical {s : State} (g : Agent) (kind : PKind) (pa : Nat) (data : List Byte) (sc : Scope) (c : Culprit)
    (h : s.Canonical) : (s.storeAt g kind pa data sc c).Canonical := by
  have hd : (s.dropCopiesTo g.core 0 pa data.length).Canonical := canonical_of_mem (dropCopiesTo_mem _ _ _ _ _) h
  unfold State.storeAt
  dsimp only
  split
  · exact hd
  · exact performAll_canonical _ _ hd

theorem setDsLine_mem (s : State) (x : Nat) (d : DsLine) : (s.setDsLine x d).mem = s.mem := by unfold State.setDsLine; simp

/-- A write to a DS line. -/
theorem dsWrite_canonical {s : State} (c : Crew) (ph : Nat) (op : WriteOp) (pa n : Nat) (data : List Byte) (by_ : Culprit)
    (h : s.Canonical) : (s.dsWrite c ph op pa n data by_).1.Canonical := by
  have hset : ∀ {t : State} (x : Nat) (d : DsLine), t.Canonical → (t.setDsLine x d).Canonical :=
    fun x d ht => canonical_of_mem (setDsLine_mem _ _ _) ht
  unfold State.dsWrite
  dsimp only
  split
  · split
    · exact pokeAll_canonical _ (hset _ _ h)
    · split
      · split
        · exact pokeAll_canonical _ (hset _ _ h)
        · exact hset _ _ (pokeHome_canonical _ _ h)
      · exact h
  · refine foldl_canonical (fun s k hs => ?_) _ h
    split
    · exact hset _ _ hs
    · exact hs

/-- A failed launch leaves memory. -/
theorem failLaunch_canonical {s : State} (n : Nat) (ti a : DWord) (l : Nat) (p : Word) (d : BitVec 16) (c : BitVec 8)
    (h : s.Canonical) : (s.failLaunch n ti a l p d c).Canonical := canonical_of_mem (failLaunch_mem _ _ _ _ _ _ _ _) h

/-- A write that acts when it issues. -/
theorem writeNow_canonical {s : State} (g : Agent) (kind : PKind) (op : WriteOp) (pa n : Nat) (data : List Byte) (ret : Bool)
    (c : Culprit) (h : s.Canonical) : (s.writeNow g kind op pa n data ret c).1.Canonical := by
  have hf : (if (decide (kind = .ds) && g.phase.isSome) = true then
      s.flushRange g.core (pa / 64 * 64) ((pa + opSpan op n data + 63) / 64 * 64 - pa / 64 * 64)
    else s.flushRange g.core pa (opSpan op n data)).Canonical := by split <;> exact flushRange_canonical _ _ _ h
  unfold State.writeNow
  dsimp only
  generalize (if (decide (kind = .ds) && g.phase.isSome) = true then
      s.flushRange g.core (pa / 64 * 64) ((pa + opSpan op n data + 63) / 64 * 64 - pa / 64 * 64)
    else s.flushRange g.core pa (opSpan op n data)) = t at hf ⊢
  split
  · exact failLaunch_canonical _ _ _ _ _ _ _ hf
  · have hc : (if (decide (op = .store) && decide (n = 64)) = true then t.clearLine pa else t).Canonical := by split <;> exact hf
    generalize (if (decide (op = .store) && decide (n = 64)) = true then t.clearLine pa else t) = u at hc ⊢
    split
    · split
      · exact failLaunch_canonical _ _ _ _ _ _ _ hc
      · split
        · exact dsWrite_canonical _ _ _ _ _ _ _ (toHome_canonical _ _ _ _ hc)
        · exact hc
    · exact actAtHome_canonical _ _ _ _ _ _ _ hc

/-- A write to global memory. -/
theorem writeGlobal_canonical {s : State} (g : Agent) (kind : PKind) (op : WriteOp) (pa n : Nat) (data : List Byte)
    (rel : Option Scope) (va : DWord) (lane : Nat) (pc : Word) (ret : Bool) (h : s.Canonical) :
    (s.writeGlobal g kind op pa n data rel va lane pc ret).1.Canonical := by
  unfold State.writeGlobal
  dsimp only
  split
  · exact writeNow_canonical _ _ _ _ _ _ _ _ h
  · exact storeAt_canonical _ _ _ _ _ _ h

theorem engineWrite_canonical {s : State} (g : Agent) (ps : Pages) (va : Nat) (bs : List Byte) (h : s.Canonical) :
    (s.engineWrite g ps va bs).Canonical := by
  refine foldl_canonical (fun s seg hs => ?_) _ h
  split
  · split
    · exact hs
    · exact writeGlobal_canonical _ _ _ _ _ _ _ _ _ _ _ hs
  · exact hs

theorem filter_wf {w : Nat} (p : Nat × BitVec w → Bool) : ∀ {m : SMap w}, SMap.wf m = true → SMap.wf (m.filter p) = true
  | [], _ => rfl
  | (a, x) :: m, h => by
    rw [List.filter_cons]
    split
    · exact wf_cons (wf_head h) (fun q hq => wf_above h q (List.mem_filter.mp hq).1) (filter_wf p (wf_tail h))
    · exact filter_wf p (wf_tail h)

/-- A frame moves to its spare. -/
theorem moveFrame_canonical {s : State} (base spare n : Nat) (h : s.Canonical) : (s.moveFrame base spare n).Canonical := by
  unfold State.moveFrame State.Canonical Memory.wf
  exact setAll_wf _ (filter_wf _ h)

theorem hostLine_canonical {s : State} (pa : Nat) (bs : List Byte) (h : s.Canonical) : (s.hostLine pa bs).Canonical := by
  unfold State.hostLine
  split
  · exact pokeHome_canonical _ _ h
  · split
    · exact pokeHome_canonical _ _ h
    · exact h

theorem hostWrite_canonical : ∀ (ps : List (Nat × Nat)) (bs : List Byte) {s : State}, s.Canonical → (s.hostWrite ps bs).Canonical
  | [], _, _, h => h
  | (pa, n) :: ps, bs, s, h => by
    rw [State.hostWrite]
    exact hostWrite_canonical ps _ (foldl_canonical (fun _ _ hs => hostLine_canonical _ _ hs) _ h)

theorem hsAppend_canonical {s : State} (r : BitVec 256) (h : s.Canonical) : (s.hsAppend r).Canonical := by
  have hp : ∀ (t : State) (pa : Nat) (bs : List Byte), t.Canonical → (if t.lineBad pa then t else t.pokeHome pa bs).Canonical :=
    fun t pa bs ht => by
      split
      · exact ht
      · exact pokeHome_canonical _ _ ht
  unfold State.hsAppend
  generalize toBytes r 32 = bs
  dsimp only
  split
  · exact h
  · exact hp { s with siteA := _, siteB := _ } _ bs h

/-! ### Queues -/

theorem storeDesc_canonical {s : State} (site : Nat) (q : Queue) (st : BitVec 2) (h : s.Canonical) :
    (s.storeDesc site q st).Canonical := by
  unfold State.storeDesc
  dsimp only
  split
  · exact canonical_of_mem (failLaunch_mem _ _ _ _ _ _ _ _) h
  · split
    · exact storeAt_canonical _ _ _ _ _ _ (storeAt_canonical _ _ _ _ _ _ h)
    · refine pokeHome_canonical _ _ (pokeHome_canonical _ _ (unitTrip_canonical _ _ _ ?_))
      split
      · exact h
      · exact performAll_canonical _ _ h

theorem putQueue_canonical {s : State} (x : Nat) (q : Queue) (h : s.Canonical) : (s.putQueue x q).Canonical :=
  storeDesc_canonical _ _ _ (canonical_of_mem (updSite_mem _ _ _) h)

/-- A push to a queue with room stores the record in its slot and the tail in its descriptor. -/
theorem pushQueue_takes {s : State} {site p pa : Nat} {q : Queue} {r : BitVec 512} {sc : Scope} {cont : Option (Nat × DWord × DWord)}
    (hq : s.queue? pa = some (site, q)) (h : TakesRecord s site q p) :
    s.pushQueue pa r sc cont = .done { ((s.clearLine p).pokeHome p (toBytes r 64)).putQueue site
      { q with tail := q.tail + 1, entries := q.entries ++ [{ record := r, scope := sc, cont := cont }] } with held := [] } 0 := by
  unfold State.pushQueue
  rw [hq]
  have hr : s.reaches site p = true := by unfold State.reaches; simp [h.slot.home]
  have ht : s.unitTrip .scheduler site p = s := by
    unfold State.unitTrip
    rw [h.slot.home, if_neg]
    intro e
    have := Option.some.inj e
    omega
  simp only [h.opened, h.room, Bool.false_eq_true, if_false, unitAt_mapped h.slot, hr, ht, Bool.not_true]

/-- A push that finds no room changes nothing, and its status says why. -/
theorem pushQueue_turned {s : State} {site pa : Nat} {q : Queue} {r : BitVec 512} {sc : Scope} {cont : Option (Nat × DWord × DWord)}
    (hq : s.queue? pa = some (site, q)) :
    (q.state = .closed → s.pushQueue pa r sc cont = .done s 2) ∧ (q.state = .faulted → s.pushQueue pa r sc cont = .done s 3) ∧
    (q.state = .opened → q.full = true → s.pushQueue pa r sc cont = .done s 1) := by
  unfold State.pushQueue
  rw [hq]
  refine ⟨fun h => ?_, fun h => ?_, fun h hf => ?_⟩ <;> simp only [h]
  simp [hf]

/-! ### Acquires, and lanes that leave -/

/-- Dropping copies changes nothing but the copies: of cores, clusters and sites. -/
theorem updCopies_frame (s : State) (core lvl : Nat) (f : Copies → Copies) : s.updCopies core lvl f =
    { s with cores := (s.updCopies core lvl f).cores, clusters := (s.updCopies core lvl f).clusters
             siteA := (s.updCopies core lvl f).siteA, siteB := (s.updCopies core lvl f).siteB } := by
  unfold State.updCopies State.updSite State.setSite State.updCore State.updCluster
  repeat' split
  all_goals rfl

/-- An acquire drops copies, and ends the freedom of the wave's UO stores, and does nothing else. -/
theorem acquireAt_caches (s : State) (core wave : Nat) (sc : Scope) : s.acquireAt core wave sc =
    { s with cores := (s.acquireAt core wave sc).cores, clusters := (s.acquireAt core wave sc).clusters
             siteA := (s.acquireAt core wave sc).siteA, siteB := (s.acquireAt core wave sc).siteB
             inflight := (s.fenceWave wave).inflight } := by
  have hk : ∀ (u : State) (k : Nat), (if k < pointOf sc then u.updCopies core k fun _ => [] else u) =
      { u with cores := (if k < pointOf sc then u.updCopies core k fun _ => [] else u).cores
               clusters := (if k < pointOf sc then u.updCopies core k fun _ => [] else u).clusters
               siteA := (if k < pointOf sc then u.updCopies core k fun _ => [] else u).siteA
               siteB := (if k < pointOf sc then u.updCopies core k fun _ => [] else u).siteB } := fun u k => by
    split
    · exact updCopies_frame _ _ _ _
    · rfl
  unfold State.acquireAt State.dropNarrower
  simp only [List.foldl_cons, List.foldl_nil]
  rw [hk _ 2, hk _ 1, hk _ 0]
  rfl

/-- Parking a group changes the waves, the cores and the count of orders alone. -/
theorem park_frame (s : State) (key : Nat) (g : TrapGroup) :
    s.park key g = { s with waves := (s.park key g).waves, cores := (s.park key g).cores, nextId := (s.park key g).nextId } := by
  unfold State.park
  split
  · rfl
  · dsimp only
    split
    · rfl
    · unfold State.updWave
      split <;> rfl

end Sys2Proof.Laws
end

