-- ==== Sys2Proof/Laws/PerInstr.lean ====
section
/-!
SUPPORT. The family RoundTrip, instruction by instruction: the decoder reads from the word that the encoder writes the
instruction itself, with every operand.
-/
set_option linter.unusedSimpArgs false

namespace Sys2Proof.Laws

/-- The two parts of lut3's table. -/
theorem lut3_table : ∀ t : BitVec 8, t.extractLsb' 6 2 ++ t.extractLsb' 0 6 = t := by decide

/-- A well-formed instruction that has a word is what the decoder reads from that word. -/
def RoundTrip.Statement (i : Instr) : Prop :=
  i.WellFormed = true → encode i ≠ .none → decodeEncoded (encode i) = some i

/-- A long word decodes to the instruction that its fields name, when no check fails. -/
theorem decode_of {w : LongWord} {i : Instr} (h : i.WellFormed = true) (ho : opAssigned (longOp w) = true)
    (hp : parseLong w = some i) (hr : longReservedOk w i = true) : decodeEncoded (.long w) = some i := by
  have : decodeLong w = .ok i := by
    unfold decodeLong
    simp only [ho, hp, hr]
    simp only [Instr.WellFormed, Option.isNone_iff_eq_none] at h
    simp [h]
  simp [decodeEncoded, this, Except.toOption]

/-- Well-formed types, modifiers and immediate codes. -/
theorem fnOk_of {i : Instr} (h : i.WellFormed = true) : i.fnOk = true := by
  simp only [Instr.WellFormed, Option.isNone_iff_eq_none, Instr.firstFailure] at h
  split at h
  · cases h
  · rename_i g
    simpa using g

/-- Well-formed operand kinds. -/
theorem kinds_of {i : Instr} {o : Operands} (h : i.WellFormed = true) (ho : i.parts.operands = some o) :
    (o.ops.all fun p => p.1.kindOk o.e p.2) = true := by
  simp only [Instr.WellFormed, Option.isNone_iff_eq_none, Instr.firstFailure, ho] at h
  split at h
  · cases h
  · split at h
    · cases h
    · split at h
      · cases h
      · split at h
        · cases h
        · rename_i g
          simpa using g

/-- Unused operand fields of a well-formed instruction. -/
theorem used_of {i : Instr} {o : Operands} (h : i.WellFormed = true) (ho : i.parts.operands = some o) :
    (o.ops.all fun p => p.1.usedOk p.2) = true := by
  simp only [Instr.WellFormed, Option.isNone_iff_eq_none, Instr.firstFailure, ho] at h
  repeat' split at h
  all_goals first
    | contradiction
    | (rename_i g; simp only [Bool.or_eq_true, Bool.not_eq_true', not_or, Bool.not_eq_false] at g; exact g.1.1.1)

theorem lr_round {i : Instr} {x : LR} {op : BitVec 8} {fn : BitVec 6} {m : BitVec 2} {k : Desc}
    (hk : i.parts = .lr x op fn m k) (ho : opAssigned op = true) (h : i.WellFormed = true)
    (hp : ∀ w, longOp w = op → longFn w = fn → longMod w = m → lrOf w = x → parseLong w = some i) :
    decodeEncoded (encode i) = some i := by
  unfold encode
  rw [hk]
  exact decode_of h ((longOp_append ..).symm ▸ ho) (hp _ (longOp_append ..) (longFn_append ..) (longMod_encode ..) (lrOf_encode ..))
    (by simp [longReservedOk, hk])

theorem li_round {i : Instr} {x : LI} {op : BitVec 8} {fn : BitVec 6} {k : Desc}
    (hk : i.parts = .li x op fn k) (ho : opAssigned op = true) (h : i.WellFormed = true)
    (hp : ∀ w, longOp w = op → longFn w = fn → liOf w = x → parseLong w = some i) :
    decodeEncoded (encode i) = some i := by
  unfold encode
  rw [hk]
  exact decode_of h ((longOp_append ..).symm ▸ ho) (hp _ (longOp_append ..) (longFn_append ..) (liOf_encode ..))
    (by simp [longReservedOk, hk])

theorem lk_round {i : Instr} {x : LK} {op : BitVec 8} {fn : BitVec 6} {k : Desc}
    (hk : i.parts = .lk x op fn k) (ho : opAssigned op = true) (h : i.WellFormed = true)
    (hp : ∀ w, longOp w = op → longFn w = fn → lkOf w = x → parseLong w = some i) :
    decodeEncoded (encode i) = some i := by
  unfold encode
  rw [hk]
  exact decode_of h ((longOp_append ..).symm ▸ ho) (hp _ (longOp_append ..) (longFn_append ..) (lkOf_encode ..))
    (by simp [longReservedOk, hk])

theorem lm_round {i : Instr} {x : LM} {op : BitVec 8} {fn : BitVec 6} {k : Desc}
    (hk : i.parts = .lm x op fn k) (ho : opAssigned op = true) (h : i.WellFormed = true)
    (hp : ∀ w, longOp w = op → longFn w = fn → lmOf w = x → parseLong w = some i) :
    decodeEncoded (encode i) = some i := by
  unfold encode
  rw [hk]
  exact decode_of h ((longOp_append ..).symm ▸ ho) (hp _ (longOp_append ..) (longFn_append ..) (lmOf_encode ..))
    (by simpa [longReservedOk, hk] using lmTop_encode x op fn)

theorem lb_round {i : Instr} {x : LB} {op : BitVec 8} {fn : BitVec 6} {k : Desc}
    (hk : i.parts = .lb x op fn k) (ho : opAssigned op = true) (h : i.WellFormed = true)
    (hp : ∀ w, longOp w = op → longFn w = fn → lbOf w = x → parseLong w = some i) :
    decodeEncoded (encode i) = some i := by
  unfold encode
  rw [hk]
  exact decode_of h ((longOp_append ..).symm ▸ ho) (hp _ (longOp_append ..) (longFn_append ..) (lbOf_encode ..))
    (by simp [longReservedOk, hk])

theorem le_round {i : Instr} {x : LE} {op : BitVec 8} {fn : BitVec 6} {k : Desc}
    (hk : i.parts = .le x op fn k) (ho : opAssigned op = true) (h : i.WellFormed = true)
    (hp : ∀ w, longOp w = op → longFn w = fn → leOf w = x → parseLong w = some i) :
    decodeEncoded (encode i) = some i := by
  unfold encode
  rw [hk]
  exact decode_of h ((longOp_append ..).symm ▸ ho) (hp _ (longOp_append ..) (longFn_append ..) (leOf_encode ..))
    (by simp [longReservedOk, hk])

theorem sh_round {i : Instr} {x : SH} {ops : BitVec 4} {k : Desc} (hk : i.parts = .sh x ops k)
    (h : i.WellFormed = true) (hp : ∀ p : Parcel, p.extractLsb' 1 4 = ops → shOf p = x → parseShort p = i) :
    decodeEncoded (encode i) = some i := by
  unfold encode
  rw [hk]
  have e := hp _ (sh_ops x ops) (shOf_encode x ops)
  simp only [Instr.WellFormed, Option.isNone_iff_eq_none] at h
  simp only [decodeEncoded, decodeShort, e, sh_top, h]
  rfl

theorem RoundTrip.mov (x : LR) (t : ITy) : RoundTrip.Statement (.mov x t) := fun h _ =>
  lr_round rfl rfl h fun w ho hf hm hx => by
    have hk := kinds_of h rfl
    rw [parse_00 w ho]
    simp only [parseMov, hf, hm, hx]
    rcases x with ⟨hd, rs, exc, exr, c, b, a, d⟩
    cases t <;> cases d <;> first | (cases a <;> first | rfl | cases hk) | cases hk

theorem RoundTrip.movLi (x : LI) (t : ITy) : RoundTrip.Statement (.movLi x t) := fun h _ =>
  li_round rfl rfl h fun w ho hf hx => by
    rw [parse_00 w ho]
    simp only [parseMov, hf, hx]
    cases t <;> rfl

theorem RoundTrip.movLk (x : LK) (t : ITy) : RoundTrip.Statement (.movLk x t) := fun h _ =>
  lk_round rfl rfl h fun w ho hf hx => by
    rw [parse_00 w ho]
    simp only [parseMov, hf, hx]
    cases t <;> rfl

theorem RoundTrip.movShort (x : SH) : RoundTrip.Statement (.movShort x) := fun h _ =>
  sh_round rfl h fun p ho hx => by
    have hk := kinds_of h rfl
    unfold parseShort
    rw [ho, hx]
    rcases x with ⟨ch, ws, twv, twt, gn, gp, exc, exr, b, da⟩
    cases b <;> first | rfl | (simp [Role.kindOk] at hk)

theorem RoundTrip.movQPush (x : LR) (t : ITy) : RoundTrip.Statement (.movQPush x t) := fun h _ =>
  lr_round rfl rfl h fun w ho hf hm hx => by
    have hk := kinds_of h rfl
    rw [parse_00 w ho]
    simp only [parseMov, hf, hm, hx]
    rcases x with ⟨hd, rs, exc, exr, c, b, a, d⟩
    cases t <;> cases d <;> first | rfl | (simp [Role.kindOk] at hk)

theorem RoundTrip.movQPop (x : PopForm) : RoundTrip.Statement (.movQPop x) := fun h _ =>
  by
    cases x with
    | long x t =>
      exact lr_round rfl rfl h fun w ho hf hm hx => by
        have hk := kinds_of h rfl
        rw [parse_00 w ho]
        simp only [parseMov, hf, hm, hx]
        rcases x with ⟨hd, rs, exc, exr, c, b, a, d⟩
        cases a with
        | q k =>
          cases d with
          | q k => simp [Role.kindOk] at hk
          | v r | s r | b r | p r | m r | bad r | inl r => cases t <;> rfl
        | v r | s r | b r | p r | m r | bad r | inl r => simp [Role.kindOk] at hk
    | short x =>
      exact sh_round rfl h fun p ho hx => by
        have hk := kinds_of h rfl
        unfold parseShort
        rw [ho, hx]
        rcases x with ⟨ch, ws, twv, twt, gn, gp, exc, exr, b, da⟩
        cases b <;> first | rfl | (simp [Role.kindOk] at hk)

theorem RoundTrip.iadd (x : LR) (t : ITy) (sat : Bool) : RoundTrip.Statement (.iadd x t sat) := fun h _ =>
  lr_round rfl rfl h fun w ho hf hm hx => by
    rw [parse_01 w ho]
    simp only [pIntS, hf, hm, hx]
    cases t <;> cases sat <;> rfl

theorem RoundTrip.iaddLi (x : LI) (t : ITy) (sat : Bool) : RoundTrip.Statement (.iaddLi x t sat) := fun h _ =>
  li_round rfl rfl h fun w ho hf hx => by
    rw [parse_01 w ho]
    simp only [pIntS, hf, hx]
    cases t <;> cases sat <;> rfl

theorem RoundTrip.iaddShort (x : SH) : RoundTrip.Statement (.iaddShort x) := fun h _ =>
  sh_round rfl h fun p ho hx => by
    unfold parseShort
    rw [ho, hx]
    rfl

theorem RoundTrip.isub (x : LR) (t : ITy) (sat : Bool) : RoundTrip.Statement (.isub x t sat) := fun h _ =>
  lr_round rfl rfl h fun w ho hf hm hx => by
    rw [parse_02 w ho]
    simp only [pIntS, hf, hm, hx]
    cases t <;> cases sat <;> rfl

theorem RoundTrip.isubLi (x : LI) (t : ITy) (sat : Bool) : RoundTrip.Statement (.isubLi x t sat) := fun h _ =>
  li_round rfl rfl h fun w ho hf hx => by
    rw [parse_02 w ho]
    simp only [pIntS, hf, hx]
    cases t <;> cases sat <;> rfl

theorem RoundTrip.isubShort (x : SH) : RoundTrip.Statement (.isubShort x) := fun h _ =>
  sh_round rfl h fun p ho hx => by
    unfold parseShort
    rw [ho, hx]
    rfl

theorem RoundTrip.imul (x : LR) (t : ITy) : RoundTrip.Statement (.imul x t) := fun h _ =>
  lr_round rfl rfl h fun w ho hf hm hx => by
    rw [parse_03 w ho]
    simp only [pIntL, hf, hm, hx]
    cases t <;> rfl

theorem RoundTrip.imulLi (x : LI) (t : ITy) : RoundTrip.Statement (.imulLi x t) := fun h _ =>
  li_round rfl rfl h fun w ho hf hx => by
    rw [parse_03 w ho]
    simp only [pIntL, hf, hx]
    cases t <;> rfl

theorem RoundTrip.imulh (x : LR) (t : ITy) : RoundTrip.Statement (.imulh x t) := fun h _ =>
  lr_round rfl rfl h fun w ho hf hm hx => by
    rw [parse_04 w ho]
    simp only [pInt, hf, hm, hx]
    cases t <;> rfl

theorem RoundTrip.imad (x : LR) (t : ITy) : RoundTrip.Statement (.imad x t) := fun h _ =>
  lr_round rfl rfl h fun w ho hf hm hx => by
    rw [parse_05 w ho]
    simp only [pInt, hf, hm, hx]
    cases t <;> rfl

theorem RoundTrip.imadWide (x : LR) (t : ITy) : RoundTrip.Statement (.imadWide x t) := fun h _ =>
  lr_round rfl rfl h fun w ho hf hm hx => by
    have hq := fnOk_of h
    rw [parse_06 w ho]
    simp only [pInt, hf, hm, hx]
    cases t <;> first | rfl | (exact absurd hq (by decide)) | (simp_all [Instr.fnOk, ITy.regs, ITy.signed, Size.bytes, RedTy.isFp] <;> rfl)

theorem RoundTrip.idiv (x : LR) (t : ITy) : RoundTrip.Statement (.idiv x t) := fun h _ =>
  lr_round rfl rfl h fun w ho hf hm hx => by
    rw [parse_07 w ho]
    simp only [pInt, hf, hm, hx]
    cases t <;> rfl

theorem RoundTrip.irem (x : LR) (t : ITy) : RoundTrip.Statement (.irem x t) := fun h _ =>
  lr_round rfl rfl h fun w ho hf hm hx => by
    rw [parse_08 w ho]
    simp only [pInt, hf, hm, hx]
    cases t <;> rfl

theorem RoundTrip.iabs (x : LR) (t : ITy) (sat : Bool) : RoundTrip.Statement (.iabs x t sat) := fun h _ =>
  lr_round rfl rfl h fun w ho hf hm hx => by
    have hq := fnOk_of h
    rw [parse_09 w ho]
    simp only [pIntM, hf, hm, hx]
    cases t <;> cases sat <;> first | rfl | (exact absurd hq (by decide)) | (simp_all [Instr.fnOk, ITy.regs, ITy.signed, Size.bytes, RedTy.isFp] <;> rfl)

theorem RoundTrip.ineg (x : LR) (t : ITy) (sat : Bool) : RoundTrip.Statement (.ineg x t sat) := fun h _ =>
  lr_round rfl rfl h fun w ho hf hm hx => by
    have hq := fnOk_of h
    rw [parse_0A w ho]
    simp only [pIntM, hf, hm, hx]
    cases t <;> cases sat <;> first | rfl | (exact absurd hq (by decide)) | (simp_all [Instr.fnOk, ITy.regs, ITy.signed, Size.bytes, RedTy.isFp] <;> rfl)

theorem RoundTrip.imin (x : LR) (t : ITy) : RoundTrip.Statement (.imin x t) := fun h _ =>
  lr_round rfl rfl h fun w ho hf hm hx => by
    rw [parse_0B w ho]
    simp only [pIntL, hf, hm, hx]
    cases t <;> rfl

theorem RoundTrip.iminLi (x : LI) (t : ITy) : RoundTrip.Statement (.iminLi x t) := fun h _ =>
  li_round rfl rfl h fun w ho hf hx => by
    rw [parse_0B w ho]
    simp only [pIntL, hf, hx]
    cases t <;> rfl

theorem RoundTrip.iminShort (x : SH) : RoundTrip.Statement (.iminShort x) := fun h _ =>
  sh_round rfl h fun p ho hx => by
    unfold parseShort
    rw [ho, hx]
    rfl

theorem RoundTrip.imax (x : LR) (t : ITy) : RoundTrip.Statement (.imax x t) := fun h _ =>
  lr_round rfl rfl h fun w ho hf hm hx => by
    rw [parse_0C w ho]
    simp only [pIntL, hf, hm, hx]
    cases t <;> rfl

theorem RoundTrip.imaxLi (x : LI) (t : ITy) : RoundTrip.Statement (.imaxLi x t) := fun h _ =>
  li_round rfl rfl h fun w ho hf hx => by
    rw [parse_0C w ho]
    simp only [pIntL, hf, hx]
    cases t <;> rfl

theorem RoundTrip.imaxShort (x : SH) : RoundTrip.Statement (.imaxShort x) := fun h _ =>
  sh_round rfl h fun p ho hx => by
    unfold parseShort
    rw [ho, hx]
    rfl

theorem RoundTrip.addc (x : LR) (t : ITy) (co : Bool) : RoundTrip.Statement (.addc x t co) := fun h _ =>
  lr_round rfl rfl h fun w ho hf hm hx => by
    rw [parse_0D w ho]
    simp only [pIntM, hf, hm, hx]
    cases t <;> cases co <;> rfl

theorem RoundTrip.subc (x : LR) (t : ITy) (co : Bool) : RoundTrip.Statement (.subc x t co) := fun h _ =>
  lr_round rfl rfl h fun w ho hf hm hx => by
    rw [parse_0E w ho]
    simp only [pIntM, hf, hm, hx]
    cases t <;> cases co <;> rfl

/-- The values of a two-bit field. -/
theorem two_cases : ∀ s : BitVec 2, s = 0 ∨ s = 1 ∨ s = 2 ∨ s = 3 := by decide

theorem RoundTrip.lea (x : LR) (t : ITy) (sc : BitVec 2) : RoundTrip.Statement (.lea x t sc) := fun h _ =>
  lr_round rfl rfl h fun w ho hf hm hx => by
    rw [parse_0F w ho]
    simp only [parseLea, hf, hm, hx]
    rcases two_cases sc with g | g | g | g <;> subst g <;> cases t <;> rfl

theorem RoundTrip.leaLi (x : LI) (t : ITy) (sc : BitVec 2) : RoundTrip.Statement (.leaLi x t sc) := fun h _ =>
  li_round rfl rfl h fun w ho hf hx => by
    rw [parse_0F w ho]
    simp only [parseLea, hf, hx]
    rcases two_cases sc with g | g | g | g <;> subst g <;> cases t <;> rfl

theorem RoundTrip.and (x : LR) (t : ITy) : RoundTrip.Statement (.and x t) := fun h _ =>
  lr_round rfl rfl h fun w ho hf hm hx => by
    rw [parse_10 w ho]
    simp only [pIntL, hf, hm, hx]
    cases t <;> rfl

theorem RoundTrip.andLi (x : LI) (t : ITy) : RoundTrip.Statement (.andLi x t) := fun h _ =>
  li_round rfl rfl h fun w ho hf hx => by
    rw [parse_10 w ho]
    simp only [pIntL, hf, hx]
    cases t <;> rfl

theorem RoundTrip.andShort (x : SH) : RoundTrip.Statement (.andShort x) := fun h _ =>
  sh_round rfl h fun p ho hx => by
    unfold parseShort
    rw [ho, hx]
    rfl

theorem RoundTrip.or (x : LR) (t : ITy) : RoundTrip.Statement (.or x t) := fun h _ =>
  lr_round rfl rfl h fun w ho hf hm hx => by
    rw [parse_11 w ho]
    simp only [pIntL, hf, hm, hx]
    cases t <;> rfl

theorem RoundTrip.orLi (x : LI) (t : ITy) : RoundTrip.Statement (.orLi x t) := fun h _ =>
  li_round rfl rfl h fun w ho hf hx => by
    rw [parse_11 w ho]
    simp only [pIntL, hf, hx]
    cases t <;> rfl

theorem RoundTrip.orShort (x : SH) : RoundTrip.Statement (.orShort x) := fun h _ =>
  sh_round rfl h fun p ho hx => by
    unfold parseShort
    rw [ho, hx]
    rfl

theorem RoundTrip.xor (x : LR) (t : ITy) : RoundTrip.Statement (.xor x t) := fun h _ =>
  lr_round rfl rfl h fun w ho hf hm hx => by
    rw [parse_12 w ho]
    simp only [pIntL, hf, hm, hx]
    cases t <;> rfl

theorem RoundTrip.xorLi (x : LI) (t : ITy) : RoundTrip.Statement (.xorLi x t) := fun h _ =>
  li_round rfl rfl h fun w ho hf hx => by
    rw [parse_12 w ho]
    simp only [pIntL, hf, hx]
    cases t <;> rfl

theorem RoundTrip.xorShort (x : SH) : RoundTrip.Statement (.xorShort x) := fun h _ =>
  sh_round rfl h fun p ho hx => by
    unfold parseShort
    rw [ho, hx]
    rfl

theorem RoundTrip.not (x : LR) (t : ITy) : RoundTrip.Statement (.not x t) := fun h _ =>
  lr_round rfl rfl h fun w ho hf hm hx => by
    rw [parse_13 w ho]
    simp only [pInt, hf, hm, hx]
    cases t <;> rfl

theorem RoundTrip.andn (x : LR) (t : ITy) : RoundTrip.Statement (.andn x t) := fun h _ =>
  lr_round rfl rfl h fun w ho hf hm hx => by
    rw [parse_14 w ho]
    simp only [pIntL, hf, hm, hx]
    cases t <;> rfl

theorem RoundTrip.andnLi (x : LI) (t : ITy) : RoundTrip.Statement (.andnLi x t) := fun h _ =>
  li_round rfl rfl h fun w ho hf hx => by
    rw [parse_14 w ho]
    simp only [pIntL, hf, hx]
    cases t <;> rfl

theorem RoundTrip.shl (x : LR) (t : ITy) : RoundTrip.Statement (.shl x t) := fun h _ =>
  lr_round rfl rfl h fun w ho hf hm hx => by
    rw [parse_15 w ho]
    simp only [pIntL, hf, hm, hx]
    cases t <;> rfl

theorem RoundTrip.shlLi (x : LI) (t : ITy) : RoundTrip.Statement (.shlLi x t) := fun h _ =>
  li_round rfl rfl h fun w ho hf hx => by
    rw [parse_15 w ho]
    simp only [pIntL, hf, hx]
    cases t <;> rfl

theorem RoundTrip.shlShort (x : SH) : RoundTrip.Statement (.shlShort x) := fun h _ =>
  sh_round rfl h fun p ho hx => by
    unfold parseShort
    rw [ho, hx]
    rfl

theorem RoundTrip.shr (x : LR) (t : ITy) : RoundTrip.Statement (.shr x t) := fun h _ =>
  lr_round rfl rfl h fun w ho hf hm hx => by
    rw [parse_16 w ho]
    simp only [pIntL, hf, hm, hx]
    cases t <;> rfl

theorem RoundTrip.shrLi (x : LI) (t : ITy) : RoundTrip.Statement (.shrLi x t) := fun h _ =>
  li_round rfl rfl h fun w ho hf hx => by
    rw [parse_16 w ho]
    simp only [pIntL, hf, hx]
    cases t <;> rfl

theorem RoundTrip.shrShort (x : SH) : RoundTrip.Statement (.shrShort x) := fun h _ =>
  sh_round rfl h fun p ho hx => by
    unfold parseShort
    rw [ho, hx]
    rfl

theorem RoundTrip.sra (x : LR) (t : ITy) : RoundTrip.Statement (.sra x t) := fun h _ =>
  lr_round rfl rfl h fun w ho hf hm hx => by
    rw [parse_17 w ho]
    simp only [pIntL, hf, hm, hx]
    cases t <;> rfl

theorem RoundTrip.sraLi (x : LI) (t : ITy) : RoundTrip.Statement (.sraLi x t) := fun h _ =>
  li_round rfl rfl h fun w ho hf hx => by
    rw [parse_17 w ho]
    simp only [pIntL, hf, hx]
    cases t <;> rfl

theorem RoundTrip.sraShort (x : SH) : RoundTrip.Statement (.sraShort x) := fun h _ =>
  sh_round rfl h fun p ho hx => by
    unfold parseShort
    rw [ho, hx]
    rfl

theorem RoundTrip.shf (x : LR) (t : ITy) (right : Bool) : RoundTrip.Statement (.shf x t right) := fun h _ =>
  lr_round rfl rfl h fun w ho hf hm hx => by
    rw [parse_18 w ho]
    simp only [pIntM, hf, hm, hx]
    cases t <;> cases right <;> rfl

theorem RoundTrip.bfe (x : LR) (t : ITy) : RoundTrip.Statement (.bfe x t) := fun h _ =>
  lr_round rfl rfl h fun w ho hf hm hx => by
    rw [parse_19 w ho]
    simp only [pInt, hf, hm, hx]
    cases t <;> rfl

theorem RoundTrip.bfi (x : LR) (t : ITy) : RoundTrip.Statement (.bfi x t) := fun h _ =>
  lr_round rfl rfl h fun w ho hf hm hx => by
    rw [parse_1A w ho]
    simp only [pInt, hf, hm, hx]
    cases t <;> rfl

theorem RoundTrip.popc (x : LR) (t : ITy) : RoundTrip.Statement (.popc x t) := fun h _ =>
  lr_round rfl rfl h fun w ho hf hm hx => by
    rw [parse_1B w ho]
    simp only [pInt, hf, hm, hx]
    cases t <;> rfl

theorem RoundTrip.clz (x : LR) (t : ITy) : RoundTrip.Statement (.clz x t) := fun h _ =>
  lr_round rfl rfl h fun w ho hf hm hx => by
    rw [parse_1C w ho]
    simp only [pInt, hf, hm, hx]
    cases t <;> rfl

theorem RoundTrip.ctz (x : LR) (t : ITy) : RoundTrip.Statement (.ctz x t) := fun h _ =>
  lr_round rfl rfl h fun w ho hf hm hx => by
    rw [parse_1D w ho]
    simp only [pInt, hf, hm, hx]
    cases t <;> rfl

theorem RoundTrip.brev (x : LR) (t : ITy) : RoundTrip.Statement (.brev x t) := fun h _ =>
  lr_round rfl rfl h fun w ho hf hm hx => by
    rw [parse_1E w ho]
    simp only [pInt, hf, hm, hx]
    cases t <;> rfl

theorem RoundTrip.lut3 (x : LR) (table : BitVec 8) : RoundTrip.Statement (.lut3 x table) := fun h _ =>
  lr_round rfl rfl h fun w ho hf hm hx => by
    rw [parse_1F w ho]
    simp only [hf, hm, hx]
    show some (Instr.lut3 x (table.extractLsb' 6 2 ++ table.extractLsb' 0 6)) = _
    rw [lut3_table]

theorem RoundTrip.fadd (x : LR) (t : FTy) (rm : Rm) : RoundTrip.Statement (.fadd x t rm) := fun h _ =>
  lr_round rfl rfl h fun w ho hf hm hx => by
    rw [parse_20 w ho]
    simp only [pFpR, hf, hm, hx]
    cases t <;> cases rm <;> rfl

theorem RoundTrip.faddShort (x : SH) : RoundTrip.Statement (.faddShort x) := fun h _ =>
  sh_round rfl h fun p ho hx => by
    unfold parseShort
    rw [ho, hx]
    rfl

theorem RoundTrip.fsub (x : LR) (t : FTy) (rm : Rm) : RoundTrip.Statement (.fsub x t rm) := fun h _ =>
  lr_round rfl rfl h fun w ho hf hm hx => by
    rw [parse_21 w ho]
    simp only [pFpR, hf, hm, hx]
    cases t <;> cases rm <;> rfl

theorem RoundTrip.fsubShort (x : SH) : RoundTrip.Statement (.fsubShort x) := fun h _ =>
  sh_round rfl h fun p ho hx => by
    unfold parseShort
    rw [ho, hx]
    rfl

theorem RoundTrip.fmul (x : LR) (t : FTy) (rm : Rm) : RoundTrip.Statement (.fmul x t rm) := fun h _ =>
  lr_round rfl rfl h fun w ho hf hm hx => by
    rw [parse_22 w ho]
    simp only [pFpR, hf, hm, hx]
    cases t <;> cases rm <;> rfl

theorem RoundTrip.fmulShort (x : SH) : RoundTrip.Statement (.fmulShort x) := fun h _ =>
  sh_round rfl h fun p ho hx => by
    unfold parseShort
    rw [ho, hx]
    rfl

theorem RoundTrip.ffma (x : LR) (t : FTy) (rm : Rm) : RoundTrip.Statement (.ffma x t rm) := fun h _ =>
  lr_round rfl rfl h fun w ho hf hm hx => by
    rw [parse_23 w ho]
    simp only [pFpR, hf, hm, hx]
    cases t <;> cases rm <;> rfl

theorem RoundTrip.fdiv (x : LR) (t : FTy) (rm : Rm) : RoundTrip.Statement (.fdiv x t rm) := fun h _ =>
  lr_round rfl rfl h fun w ho hf hm hx => by
    rw [parse_24 w ho]
    simp only [pFpR, hf, hm, hx]
    cases t <;> cases rm <;> rfl

theorem RoundTrip.fsqrt (x : LR) (t : FTy) (rm : Rm) : RoundTrip.Statement (.fsqrt x t rm) := fun h _ =>
  lr_round rfl rfl h fun w ho hf hm hx => by
    rw [parse_25 w ho]
    simp only [pFpR, hf, hm, hx]
    cases t <;> cases rm <;> rfl

theorem RoundTrip.frcpApprox (x : LR) (t : FTy) : RoundTrip.Statement (.frcpApprox x t) := fun h _ =>
  lr_round rfl rfl h fun w ho hf hm hx => by
    have hq := fnOk_of h
    rw [parse_26 w ho]
    simp only [pFp, hf, hm, hx]
    cases t <;> first | rfl | (exact absurd hq (by decide)) | (simp_all [Instr.fnOk, ITy.regs, ITy.signed, Size.bytes, RedTy.isFp] <;> rfl)

theorem RoundTrip.frsqApprox (x : LR) (t : FTy) : RoundTrip.Statement (.frsqApprox x t) := fun h _ =>
  lr_round rfl rfl h fun w ho hf hm hx => by
    have hq := fnOk_of h
    rw [parse_27 w ho]
    simp only [pFp, hf, hm, hx]
    cases t <;> first | rfl | (exact absurd hq (by decide)) | (simp_all [Instr.fnOk, ITy.regs, ITy.signed, Size.bytes, RedTy.isFp] <;> rfl)

theorem RoundTrip.fexp2Approx (x : LR) (t : FTy) : RoundTrip.Statement (.fexp2Approx x t) := fun h _ =>
  lr_round rfl rfl h fun w ho hf hm hx => by
    have hq := fnOk_of h
    rw [parse_28 w ho]
    simp only [pFp, hf, hm, hx]
    cases t <;> first | rfl | (exact absurd hq (by decide)) | (simp_all [Instr.fnOk, ITy.regs, ITy.signed, Size.bytes, RedTy.isFp] <;> rfl)

theorem RoundTrip.flog2Approx (x : LR) (t : FTy) : RoundTrip.Statement (.flog2Approx x t) := fun h _ =>
  lr_round rfl rfl h fun w ho hf hm hx => by
    have hq := fnOk_of h
    rw [parse_29 w ho]
    simp only [pFp, hf, hm, hx]
    cases t <;> first | rfl | (exact absurd hq (by decide)) | (simp_all [Instr.fnOk, ITy.regs, ITy.signed, Size.bytes, RedTy.isFp] <;> rfl)

theorem RoundTrip.fsinApprox (x : LR) (t : FTy) : RoundTrip.Statement (.fsinApprox x t) := fun h _ =>
  lr_round rfl rfl h fun w ho hf hm hx => by
    have hq := fnOk_of h
    rw [parse_2A w ho]
    simp only [pFp, hf, hm, hx]
    cases t <;> first | rfl | (exact absurd hq (by decide)) | (simp_all [Instr.fnOk, ITy.regs, ITy.signed, Size.bytes, RedTy.isFp] <;> rfl)

theorem RoundTrip.fcosApprox (x : LR) (t : FTy) : RoundTrip.Statement (.fcosApprox x t) := fun h _ =>
  lr_round rfl rfl h fun w ho hf hm hx => by
    have hq := fnOk_of h
    rw [parse_2B w ho]
    simp only [pFp, hf, hm, hx]
    cases t <;> first | rfl | (exact absurd hq (by decide)) | (simp_all [Instr.fnOk, ITy.regs, ITy.signed, Size.bytes, RedTy.isFp] <;> rfl)

theorem RoundTrip.fmin (x : LR) (t : FTy) : RoundTrip.Statement (.fmin x t) := fun h _ =>
  lr_round rfl rfl h fun w ho hf hm hx => by
    rw [parse_2C w ho]
    simp only [pFp, hf, hm, hx]
    cases t <;> rfl

theorem RoundTrip.fminShort (x : SH) : RoundTrip.Statement (.fminShort x) := fun h _ =>
  sh_round rfl h fun p ho hx => by
    unfold parseShort
    rw [ho, hx]
    rfl

theorem RoundTrip.fmax (x : LR) (t : FTy) : RoundTrip.Statement (.fmax x t) := fun h _ =>
  lr_round rfl rfl h fun w ho hf hm hx => by
    rw [parse_2D w ho]
    simp only [pFp, hf, hm, hx]
    cases t <;> rfl

theorem RoundTrip.fmaxShort (x : SH) : RoundTrip.Statement (.fmaxShort x) := fun h _ =>
  sh_round rfl h fun p ho hx => by
    unfold parseShort
    rw [ho, hx]
    rfl

theorem RoundTrip.fminx (x : LR) (t : FTy) : RoundTrip.Statement (.fminx x t) := fun h _ =>
  lr_round rfl rfl h fun w ho hf hm hx => by
    rw [parse_2E w ho]
    simp only [pFp, hf, hm, hx]
    cases t <;> rfl

theorem RoundTrip.fmaxx (x : LR) (t : FTy) : RoundTrip.Statement (.fmaxx x t) := fun h _ =>
  lr_round rfl rfl h fun w ho hf hm hx => by
    rw [parse_2F w ho]
    simp only [pFp, hf, hm, hx]
    cases t <;> rfl

theorem RoundTrip.fabs (x : LR) (t : FTy) : RoundTrip.Statement (.fabs x t) := fun h _ =>
  lr_round rfl rfl h fun w ho hf hm hx => by
    rw [parse_30 w ho]
    simp only [pFp, hf, hm, hx]
    cases t <;> rfl

theorem RoundTrip.fneg (x : LR) (t : FTy) : RoundTrip.Statement (.fneg x t) := fun h _ =>
  lr_round rfl rfl h fun w ho hf hm hx => by
    rw [parse_31 w ho]
    simp only [pFp, hf, hm, hx]
    cases t <;> rfl

theorem RoundTrip.fcopysign (x : LR) (t : FTy) : RoundTrip.Statement (.fcopysign x t) := fun h _ =>
  lr_round rfl rfl h fun w ho hf hm hx => by
    rw [parse_32 w ho]
    simp only [pFp, hf, hm, hx]
    cases t <;> rfl

theorem RoundTrip.frint (x : LR) (t : FTy) (rm : Rm) (ix : Bool) : RoundTrip.Statement (.frint x t rm ix) := fun h _ =>
  lr_round rfl rfl h fun w ho hf hm hx => by
    rw [parse_33 w ho]
    simp only [hf, hm, hx]
    cases t <;> cases rm <;> cases ix <;> rfl

theorem RoundTrip.fgetexp (x : LR) (t : FTy) : RoundTrip.Statement (.fgetexp x t) := fun h _ =>
  lr_round rfl rfl h fun w ho hf hm hx => by
    rw [parse_34 w ho]
    simp only [pFp, hf, hm, hx]
    cases t <;> rfl

theorem RoundTrip.fgetman (x : LR) (t : FTy) : RoundTrip.Statement (.fgetman x t) := fun h _ =>
  lr_round rfl rfl h fun w ho hf hm hx => by
    rw [parse_35 w ho]
    simp only [pFp, hf, hm, hx]
    cases t <;> rfl

theorem RoundTrip.fscale (x : LR) (t : FTy) (rm : Rm) : RoundTrip.Statement (.fscale x t rm) := fun h _ =>
  lr_round rfl rfl h fun w ho hf hm hx => by
    rw [parse_36 w ho]
    simp only [pFpR, hf, hm, hx]
    cases t <;> cases rm <;> rfl

theorem RoundTrip.fclass (x : LR) (t : FTy) : RoundTrip.Statement (.fclass x t) := fun h _ =>
  lr_round rfl rfl h fun w ho hf hm hx => by
    rw [parse_37 w ho]
    simp only [pFp, hf, hm, hx]
    cases t <;> rfl

theorem RoundTrip.ffmaMix (x : LR) (t : FTy) (rm : Rm) : RoundTrip.Statement (.ffmaMix x t rm) := fun h _ =>
  lr_round rfl rfl h fun w ho hf hm hx => by
    have hq := fnOk_of h
    rw [parse_38 w ho]
    simp only [pFpR, hf, hm, hx]
    cases t <;> cases rm <;> first | rfl | (exact absurd hq (by decide)) | (simp_all [Instr.fnOk, ITy.regs, ITy.signed, Size.bytes, RedTy.isFp] <;> rfl)

theorem RoundTrip.fdot2 (x : LR) (t : FTy) (rm : Rm) : RoundTrip.Statement (.fdot2 x t rm) := fun h _ =>
  lr_round rfl rfl h fun w ho hf hm hx => by
    have hq := fnOk_of h
    rw [parse_39 w ho]
    simp only [pFpR, hf, hm, hx]
    cases t <;> cases rm <;> first | rfl | (exact absurd hq (by decide)) | (simp_all [Instr.fnOk, ITy.regs, ITy.signed, Size.bytes, RedTy.isFp] <;> rfl)

theorem RoundTrip.icmp (x : LR) (t : ITy) (cc : Cc) : RoundTrip.Statement (.icmp x t cc) := fun h _ =>
  lr_round rfl rfl h fun w ho hf hm hx => by
    rw [parse_40 w ho]
    simp only [hf, hm, hx]
    cases t <;> cases cc <;> rfl

theorem RoundTrip.fcmp (x : LR) (t : FTy) (cc : FCc) (u : Bool) (sig : Bool) : RoundTrip.Statement (.fcmp x t cc u sig) := fun h _ =>
  lr_round rfl rfl h fun w ho hf hm hx => by
    have hq := fnOk_of h
    rw [parse_41 w ho]
    simp only [parseFcmp, hf, hm, hx]
    cases t <;> cases cc <;> cases u <;> cases sig <;> first | rfl | (exact absurd hq (by decide)) | (simp_all [Instr.fnOk, ITy.regs, ITy.signed, Size.bytes, RedTy.isFp] <;> rfl)

theorem RoundTrip.sel (x : LR) (w64 : Bool) : RoundTrip.Statement (.sel x w64) := fun h _ =>
  lr_round rfl rfl h fun w ho hf hm hx => by
    rw [parse_42 w ho]
    simp only [hf, hm, hx]
    cases w64 <;> rfl

theorem RoundTrip.pand (x : LR) : RoundTrip.Statement (.pand x) := fun h _ =>
  lr_round rfl rfl h fun w ho hf hm hx => by
    rw [parse_43 w ho]
    simp only [pLr0, hf, hm, hx]
    rfl

theorem RoundTrip.por (x : LR) : RoundTrip.Statement (.por x) := fun h _ =>
  lr_round rfl rfl h fun w ho hf hm hx => by
    rw [parse_44 w ho]
    simp only [pLr0, hf, hm, hx]
    rfl

theorem RoundTrip.pxor (x : LR) : RoundTrip.Statement (.pxor x) := fun h _ =>
  lr_round rfl rfl h fun w ho hf hm hx => by
    rw [parse_45 w ho]
    simp only [pLr0, hf, hm, hx]
    rfl

theorem RoundTrip.pnot (x : LR) : RoundTrip.Statement (.pnot x) := fun h _ =>
  lr_round rfl rfl h fun w ho hf hm hx => by
    rw [parse_46 w ho]
    simp only [pLr0, hf, hm, hx]
    rfl

theorem RoundTrip.pmov (x : LR) : RoundTrip.Statement (.pmov x) := fun h _ =>
  lr_round rfl rfl h fun w ho hf hm hx => by
    rw [parse_47 w ho]
    simp only [pLr0, hf, hm, hx]
    rfl

theorem RoundTrip.cvt (x : LR) (rm : Rm) (sat : Bool) (dt st : CvtTy) : RoundTrip.Statement (.cvt x rm sat dt st) := by
  intro h _
  have hq := fnOk_of h
  have hu := used_of h rfl
  simp only [List.all_cons, Role.usedOk, decide_eq_true_eq, Bool.and_eq_true] at hu
  show decodeEncoded (.long (0#2 ++ x.rs ++ x.exc ++ x.exr ++ (0#4 ++ st.code) ++ (0#4 ++ dt.code) ++ encodeSel x.a ++ encodeSel x.d ++ encodeHdr x.h (rm.code ++ 0#2 ++ bit1 sat) 0x50)) = _
  have e0 := hdrOf_append x.h (rm.code ++ 0#2 ++ bit1 sat) 0x50 (0#2 ++ x.rs ++ x.exc ++ x.exr ++ (0#4 ++ st.code) ++ (0#4 ++ dt.code) ++ encodeSel x.a ++ encodeSel x.d)
  have e1 := longOp_append x.h (rm.code ++ 0#2 ++ bit1 sat) 0x50 (0#2 ++ x.rs ++ x.exc ++ x.exr ++ (0#4 ++ st.code) ++ (0#4 ++ dt.code) ++ encodeSel x.a ++ encodeSel x.d)
  have e2 := longFn_append x.h (rm.code ++ 0#2 ++ bit1 sat) 0x50 (0#2 ++ x.rs ++ x.exc ++ x.exr ++ (0#4 ++ st.code) ++ (0#4 ++ dt.code) ++ encodeSel x.a ++ encodeSel x.d)
  generalize encodeHdr x.h (rm.code ++ 0#2 ++ bit1 sat) 0x50 = H at *
  generalize hw : (0#2 ++ x.rs ++ x.exc ++ x.exr ++ (0#4 ++ st.code) ++ (0#4 ++ dt.code) ++ encodeSel x.a ++ encodeSel x.d ++ H : LongWord) = w
  have e3 : longMod w = 0 := by rw [← hw]; exact ((ex_skip _ _ 44 2).trans ((ex_skip _ _ 35 2).trans ((ex_skip _ _ 26 2).trans ((ex_skip _ _ 17 2).trans ((ex_skip _ _ 8 2).trans ((ex_skip _ _ 5 2).trans ((ex_skip _ _ 2 2).trans ((ex_skip _ _ 0 2).trans (ex_all _)))))))))
  have e4 : w.extractLsb' 52 5 = dt.code := by
    rw [← hw]; exact ((ex_skip _ _ 18 5).trans ((ex_skip _ _ 9 5).trans ((ex_skip _ _ 0 5).trans ((ex_low _ _ 0 5 (by decide)).trans ((ex_low _ _ 0 5 (by decide)).trans (ex_all _))))))
  have e5 : w.extractLsb' 61 5 = st.code := by
    rw [← hw]; exact ((ex_skip _ _ 27 5).trans ((ex_skip _ _ 18 5).trans ((ex_skip _ _ 9 5).trans ((ex_skip _ _ 0 5).trans ((ex_low _ _ 0 5 (by decide)).trans ((ex_low _ _ 0 5 (by decide)).trans (ex_all _)))))))
  have e6 : w.extractLsb' 57 4 = 0 := by
    rw [← hw]; exact ((ex_skip _ _ 23 4).trans ((ex_skip _ _ 14 4).trans ((ex_skip _ _ 5 4).trans ((ex_low _ _ 5 4 (by decide)).trans ((ex_skip _ _ 0 4).trans (ex_all _))))))
  have e7 : w.extractLsb' 66 4 = 0 := by
    rw [← hw]; exact ((ex_skip _ _ 32 4).trans ((ex_skip _ _ 23 4).trans ((ex_skip _ _ 14 4).trans ((ex_skip _ _ 5 4).trans ((ex_low _ _ 5 4 (by decide)).trans ((ex_skip _ _ 0 4).trans (ex_all _)))))))
  have e8 : w.extractLsb' 76 2 = x.rs := by rw [← hw]; exact ((ex_skip _ _ 42 2).trans ((ex_skip _ _ 33 2).trans ((ex_skip _ _ 24 2).trans ((ex_skip _ _ 15 2).trans ((ex_skip _ _ 6 2).trans ((ex_skip _ _ 3 2).trans ((ex_skip _ _ 0 2).trans (ex_here _ _))))))))
  have e9 : w.extractLsb' 73 3 = x.exc := by rw [← hw]; exact ((ex_skip _ _ 39 3).trans ((ex_skip _ _ 30 3).trans ((ex_skip _ _ 21 3).trans ((ex_skip _ _ 12 3).trans ((ex_skip _ _ 3 3).trans ((ex_skip _ _ 0 3).trans (ex_here _ _)))))))
  have e10 : w.extractLsb' 70 3 = x.exr := by rw [← hw]; exact ((ex_skip _ _ 36 3).trans ((ex_skip _ _ 27 3).trans ((ex_skip _ _ 18 3).trans ((ex_skip _ _ 9 3).trans ((ex_skip _ _ 0 3).trans (ex_here _ _))))))
  have e11 : w.extractLsb' 43 9 = encodeSel x.a := by rw [← hw]; exact ((ex_skip _ _ 9 9).trans ((ex_skip _ _ 0 9).trans (ex_here _ _)))
  have e12 : w.extractLsb' 34 9 = encodeSel x.d := by rw [← hw]; exact ((ex_skip _ _ 0 9).trans (ex_here _ _))
  rw [hw] at e0 e1 e2
  have ex : { lrOf w with b := .v 0, c := .v 0 } = x := by
    have hb : x.b = .v 0 := by simpa using hu.2.1
    have hc : x.c = .v 0 := by simpa using hu.2.2.1
    rcases x with ⟨hd, rs, exc, exr, c, b, a, d⟩
    subst hb hc
    simp only [lrOf, e0, e8, e9, e10, e11, e12, decodeSel_encodeSel]
  refine decode_of h (by rw [e1]; rfl) ?_ (by simp [longReservedOk, Instr.parts, e6, e7])
  rw [parse_50 w e1]
  have r1 : decodeRm ((rm.code ++ 0#2 ++ bit1 sat).extractLsb' 3 3) = some rm := by cases rm <;> cases sat <;> rfl
  have r2 : decodeCvtTy dt.code = some dt := by cases dt <;> rfl
  have r3 : decodeCvtTy st.code = some st := by cases st <;> rfl
  have r4 : (rm.code ++ 0#2 ++ bit1 sat).getLsbD 0 = sat := by cases rm <;> cases sat <;> rfl
  have r5 : (rm.code ++ 0#2 ++ bit1 sat).extractLsb' 1 2 = 0 := by cases rm <;> cases sat <;> rfl
  simp only [Instr.fnOk, Bool.and_eq_true, Bool.or_eq_true, Bool.not_eq_true'] at hq
  have g : (rm.code ++ 0#2 ++ bit1 sat).extractLsb' 1 2 = 0 ∧ True ∧ cvtPairOk st dt = true ∧
      (sat = true → cvtSatOk st dt = true) := ⟨r5, trivial, hq.1, fun hs => hq.2.resolve_left (by simp [hs])⟩
  simp only [parseCvt, e2, e3, e4, e5, r1, r2, r3, r4, ex]
  simp only [Option.bind_eq_bind, Option.bind_some, guard, if_pos g]
  rfl

theorem RoundTrip.mxq (x : LR) (rm : Rm) : RoundTrip.Statement (.mxq x rm) := fun h _ =>
  lr_round rfl rfl h fun w ho hf hm hx => by
    rw [parse_51 w ho]
    simp only [hf, hm, hx]
    cases rm <;> rfl

theorem RoundTrip.shfl (x : LR) (mode : ShMode) (w64 : Bool) (seg : BitVec 2) : RoundTrip.Statement (.shfl x mode w64 seg) := fun h _ =>
  lr_round rfl rfl h fun w ho hf hm hx => by
    rw [parse_52 w ho]
    simp only [hf, hm, hx]
    cases mode <;> cases w64 <;> rfl

theorem RoundTrip.wred (x : LR) (op : RedOp) (t : RedTy) : RoundTrip.Statement (.wred x op t) := fun h _ =>
  lr_round rfl rfl h fun w ho hf hm hx => by
    have hq := fnOk_of h
    rw [parse_53 w ho]
    simp only [parseRed, hf, hm, hx]
    cases op <;> rcases t with t | t <;> cases t <;> first | rfl | (exact absurd hq (by decide)) | (simp_all [Instr.fnOk, ITy.regs, ITy.signed, Size.bytes, RedTy.isFp] <;> rfl)

theorem RoundTrip.wscan (x : LR) (op : RedOp) (t : RedTy) (excl : Bool) : RoundTrip.Statement (.wscan x op t excl) := fun h _ =>
  lr_round rfl rfl h fun w ho hf hm hx => by
    have hq := fnOk_of h
    rw [parse_54 w ho]
    simp only [parseRed, hf, hm, hx]
    cases op <;> rcases t with t | t <;> cases t <;> cases excl <;> first | rfl | (exact absurd hq (by decide)) | (simp_all [Instr.fnOk, ITy.regs, ITy.signed, Size.bytes, RedTy.isFp] <;> rfl)

theorem RoundTrip.voteAny (x : LR) : RoundTrip.Statement (.voteAny x) := fun h _ =>
  lr_round rfl rfl h fun w ho hf hm hx => by
    rw [parse_55 w ho]
    simp only [pLr0, hf, hm, hx]
    rfl

theorem RoundTrip.voteAll (x : LR) : RoundTrip.Statement (.voteAll x) := fun h _ =>
  lr_round rfl rfl h fun w ho hf hm hx => by
    rw [parse_56 w ho]
    simp only [pLr0, hf, hm, hx]
    rfl

theorem RoundTrip.ballot (x : LR) (cnt : Bool) : RoundTrip.Statement (.ballot x cnt) := fun h _ =>
  lr_round rfl rfl h fun w ho hf hm hx => by
    rw [parse_57 w ho]
    simp only [hf, hm, hx]
    cases cnt <;> rfl

theorem RoundTrip.laneFirst (x : LR) : RoundTrip.Statement (.laneFirst x) := fun h _ =>
  lr_round rfl rfl h fun w ho hf hm hx => by
    rw [parse_58 w ho]
    simp only [pLr0, hf, hm, hx]
    rfl

theorem RoundTrip.bra (x : LB) : RoundTrip.Statement (.bra x) := fun h _ =>
  lb_round rfl rfl h fun w ho hf hx => by
    rw [parse_60 w ho]
    simp only [pLb0, hf, hx]
    rfl

theorem RoundTrip.brx (x : LR) : RoundTrip.Statement (.brx x) := fun h _ =>
  lr_round rfl rfl h fun w ho hf hm hx => by
    rw [parse_61 w ho]
    simp only [pLr0, hf, hm, hx]
    rfl

theorem RoundTrip.call (x : LB) : RoundTrip.Statement (.call x) := fun h _ =>
  lb_round rfl rfl h fun w ho hf hx => by
    rw [parse_62 w ho]
    simp only [pLb0, hf, hx]
    rfl

theorem RoundTrip.callx (x : LR) : RoundTrip.Statement (.callx x) := fun h _ =>
  lr_round rfl rfl h fun w ho hf hm hx => by
    rw [parse_63 w ho]
    simp only [pLr0, hf, hm, hx]
    rfl

theorem RoundTrip.ret (x : LR) : RoundTrip.Statement (.ret x) := fun h _ =>
  lr_round rfl rfl h fun w ho hf hm hx => by
    rw [parse_64 w ho]
    simp only [pLr0, hf, hm, hx]
    rfl

theorem RoundTrip.exit (x : LR) : RoundTrip.Statement (.exit x) := fun h _ =>
  lr_round rfl rfl h fun w ho hf hm hx => by
    rw [parse_65 w ho]
    simp only [pLr0, hf, hm, hx]
    rfl

theorem RoundTrip.yield (x : LR) : RoundTrip.Statement (.yield x) := fun h _ =>
  lr_round rfl rfl h fun w ho hf hm hx => by
    rw [parse_66 w ho]
    simp only [pLr0, hf, hm, hx]
    rfl

theorem RoundTrip.nop (x : LR) : RoundTrip.Statement (.nop x) := fun h _ =>
  lr_round rfl rfl h fun w ho hf hm hx => by
    rw [parse_67 w ho]
    simp only [pLr0, hf, hm, hx]
    rfl

theorem RoundTrip.ldG (x : LM) (sz : Size) (sx : Bool) (nt : Bool) : RoundTrip.Statement (.ldG x sz sx nt) := fun h _ =>
  lm_round rfl rfl h fun w ho hf hx => by
    have hq := fnOk_of h
    rw [parse_70 w ho]
    simp only [pLoad, hf, hx]
    cases sz <;> cases sx <;> cases nt <;> first | rfl | (exact absurd hq (by decide)) | (simp_all [Instr.fnOk, ITy.regs, ITy.signed, Size.bytes, RedTy.isFp] <;> rfl)

theorem RoundTrip.stG (x : LM) (sz : Size) (nt : Bool) : RoundTrip.Statement (.stG x sz nt) := fun h _ =>
  lm_round rfl rfl h fun w ho hf hx => by
    rw [parse_71 w ho]
    simp only [pStore, hf, hx]
    cases sz <;> cases nt <;> rfl

theorem RoundTrip.ldS (x : LM) (sz : Size) (sx : Bool) (gr : Bool) : RoundTrip.Statement (.ldS x sz sx gr) := fun h _ =>
  lm_round rfl rfl h fun w ho hf hx => by
    have hq := fnOk_of h
    rw [parse_72 w ho]
    simp only [pLoad, hf, hx]
    cases sz <;> cases sx <;> cases gr <;> first | rfl | (exact absurd hq (by decide)) | (simp_all [Instr.fnOk, ITy.regs, ITy.signed, Size.bytes, RedTy.isFp] <;> rfl)

theorem RoundTrip.stS (x : LM) (sz : Size) (gr : Bool) : RoundTrip.Statement (.stS x sz gr) := fun h _ =>
  lm_round rfl rfl h fun w ho hf hx => by
    rw [parse_73 w ho]
    simp only [pStore, hf, hx]
    cases sz <;> cases gr <;> rfl

theorem RoundTrip.ldC (x : LM) (sz : Size) (sx : Bool) : RoundTrip.Statement (.ldC x sz sx) := fun h _ =>
  lm_round rfl rfl h fun w ho hf hx => by
    have hq := fnOk_of h
    rw [parse_74 w ho]
    simp only [pLoad, hf, hx]
    cases sz <;> cases sx <;> first | rfl | (exact absurd hq (by decide)) | (simp_all [Instr.fnOk, ITy.regs, ITy.signed, Size.bytes, RedTy.isFp] <;> rfl)

theorem RoundTrip.ldF (x : LM) (sz : Size) (sx : Bool) : RoundTrip.Statement (.ldF x sz sx) := fun h _ =>
  lm_round rfl rfl h fun w ho hf hx => by
    have hq := fnOk_of h
    rw [parse_75 w ho]
    simp only [pLoad, hf, hx]
    cases sz <;> cases sx <;> first | rfl | (exact absurd hq (by decide)) | (simp_all [Instr.fnOk, ITy.regs, ITy.signed, Size.bytes, RedTy.isFp] <;> rfl)

theorem RoundTrip.pfG (x : LM) : RoundTrip.Statement (.pfG x) := fun h _ =>
  lm_round rfl rfl h fun w ho hf hx => by
    rw [parse_76 w ho]
    simp only [pLm, hf, hx]
    rfl

theorem RoundTrip.atomAdd (x : LM) (f : AtomF) : RoundTrip.Statement (.atomAdd x f) := fun h _ =>
  lm_round rfl rfl h fun w ho hf hx => by
    have hq := fnOk_of h
    rw [parse_90 w ho]
    simp only [pAtom, hf, hx]
    rcases f with ⟨sz, sp, sgn, nr⟩; cases sz <;> cases sp <;> cases sgn <;> cases nr <;> first | rfl | (exact absurd hq (by decide)) | (simp_all [Instr.fnOk, ITy.regs, ITy.signed, Size.bytes, RedTy.isFp] <;> rfl)

theorem RoundTrip.atomSub (x : LM) (f : AtomF) : RoundTrip.Statement (.atomSub x f) := fun h _ =>
  lm_round rfl rfl h fun w ho hf hx => by
    have hq := fnOk_of h
    rw [parse_91 w ho]
    simp only [pAtom, hf, hx]
    rcases f with ⟨sz, sp, sgn, nr⟩; cases sz <;> cases sp <;> cases sgn <;> cases nr <;> first | rfl | (exact absurd hq (by decide)) | (simp_all [Instr.fnOk, ITy.regs, ITy.signed, Size.bytes, RedTy.isFp] <;> rfl)

theorem RoundTrip.atomMin (x : LM) (f : AtomF) : RoundTrip.Statement (.atomMin x f) := fun h _ =>
  lm_round rfl rfl h fun w ho hf hx => by
    have hq := fnOk_of h
    rw [parse_92 w ho]
    simp only [pAtom, hf, hx]
    rcases f with ⟨sz, sp, sgn, nr⟩; cases sz <;> cases sp <;> cases sgn <;> cases nr <;> first | rfl | (exact absurd hq (by decide)) | (simp_all [Instr.fnOk, ITy.regs, ITy.signed, Size.bytes, RedTy.isFp] <;> rfl)

theorem RoundTrip.atomMax (x : LM) (f : AtomF) : RoundTrip.Statement (.atomMax x f) := fun h _ =>
  lm_round rfl rfl h fun w ho hf hx => by
    have hq := fnOk_of h
    rw [parse_93 w ho]
    simp only [pAtom, hf, hx]
    rcases f with ⟨sz, sp, sgn, nr⟩; cases sz <;> cases sp <;> cases sgn <;> cases nr <;> first | rfl | (exact absurd hq (by decide)) | (simp_all [Instr.fnOk, ITy.regs, ITy.signed, Size.bytes, RedTy.isFp] <;> rfl)

theorem RoundTrip.atomAnd (x : LM) (f : AtomF) : RoundTrip.Statement (.atomAnd x f) := fun h _ =>
  lm_round rfl rfl h fun w ho hf hx => by
    have hq := fnOk_of h
    rw [parse_94 w ho]
    simp only [pAtom, hf, hx]
    rcases f with ⟨sz, sp, sgn, nr⟩; cases sz <;> cases sp <;> cases sgn <;> cases nr <;> first | rfl | (exact absurd hq (by decide)) | (simp_all [Instr.fnOk, ITy.regs, ITy.signed, Size.bytes, RedTy.isFp] <;> rfl)

theorem RoundTrip.atomOr (x : LM) (f : AtomF) : RoundTrip.Statement (.atomOr x f) := fun h _ =>
  lm_round rfl rfl h fun w ho hf hx => by
    have hq := fnOk_of h
    rw [parse_95 w ho]
    simp only [pAtom, hf, hx]
    rcases f with ⟨sz, sp, sgn, nr⟩; cases sz <;> cases sp <;> cases sgn <;> cases nr <;> first | rfl | (exact absurd hq (by decide)) | (simp_all [Instr.fnOk, ITy.regs, ITy.signed, Size.bytes, RedTy.isFp] <;> rfl)

theorem RoundTrip.atomXor (x : LM) (f : AtomF) : RoundTrip.Statement (.atomXor x f) := fun h _ =>
  lm_round rfl rfl h fun w ho hf hx => by
    have hq := fnOk_of h
    rw [parse_96 w ho]
    simp only [pAtom, hf, hx]
    rcases f with ⟨sz, sp, sgn, nr⟩; cases sz <;> cases sp <;> cases sgn <;> cases nr <;> first | rfl | (exact absurd hq (by decide)) | (simp_all [Instr.fnOk, ITy.regs, ITy.signed, Size.bytes, RedTy.isFp] <;> rfl)

theorem RoundTrip.atomExch (x : LM) (f : AtomF) : RoundTrip.Statement (.atomExch x f) := fun h _ =>
  lm_round rfl rfl h fun w ho hf hx => by
    have hq := fnOk_of h
    rw [parse_97 w ho]
    simp only [pAtom, hf, hx]
    rcases f with ⟨sz, sp, sgn, nr⟩; cases sz <;> cases sp <;> cases sgn <;> cases nr <;> first | rfl | (exact absurd hq (by decide)) | (simp_all [Instr.fnOk, ITy.regs, ITy.signed, Size.bytes, RedTy.isFp] <;> rfl)

theorem RoundTrip.atomInc (x : LM) (f : AtomF) : RoundTrip.Statement (.atomInc x f) := fun h _ =>
  lm_round rfl rfl h fun w ho hf hx => by
    have hq := fnOk_of h
    rw [parse_98 w ho]
    simp only [pAtom, hf, hx]
    rcases f with ⟨sz, sp, sgn, nr⟩; cases sz <;> cases sp <;> cases sgn <;> cases nr <;> first | rfl | (exact absurd hq (by decide)) | (simp_all [Instr.fnOk, ITy.regs, ITy.signed, Size.bytes, RedTy.isFp] <;> rfl)

theorem RoundTrip.atomDec (x : LM) (f : AtomF) : RoundTrip.Statement (.atomDec x f) := fun h _ =>
  lm_round rfl rfl h fun w ho hf hx => by
    have hq := fnOk_of h
    rw [parse_99 w ho]
    simp only [pAtom, hf, hx]
    rcases f with ⟨sz, sp, sgn, nr⟩; cases sz <;> cases sp <;> cases sgn <;> cases nr <;> first | rfl | (exact absurd hq (by decide)) | (simp_all [Instr.fnOk, ITy.regs, ITy.signed, Size.bytes, RedTy.isFp] <;> rfl)

theorem RoundTrip.atomCas (x : LM) (f : AtomF) : RoundTrip.Statement (.atomCas x f) := fun h _ =>
  lm_round rfl rfl h fun w ho hf hx => by
    have hq := fnOk_of h
    rw [parse_9A w ho]
    simp only [pAtom, hf, hx]
    rcases f with ⟨sz, sp, sgn, nr⟩; cases sz <;> cases sp <;> cases sgn <;> cases nr <;> first | rfl | (exact absurd hq (by decide)) | (simp_all [Instr.fnOk, ITy.regs, ITy.signed, Size.bytes, RedTy.isFp] <;> rfl)

theorem RoundTrip.loftAdd (x : LM) (f : LoftF) : RoundTrip.Statement (.loftAdd x f) := fun h _ =>
  lm_round rfl rfl h fun w ho hf hx => by
    have hq := fnOk_of h
    rw [parse_9B w ho]
    simp only [pLoft, hf, hx]
    rcases f with ⟨w64, flt, sgn⟩; cases w64 <;> cases flt <;> cases sgn <;> first | rfl | (exact absurd hq (by decide)) | (simp_all [Instr.fnOk, ITy.regs, ITy.signed, Size.bytes, RedTy.isFp] <;> rfl)

theorem RoundTrip.loftMin (x : LM) (f : LoftF) : RoundTrip.Statement (.loftMin x f) := fun h _ =>
  lm_round rfl rfl h fun w ho hf hx => by
    have hq := fnOk_of h
    rw [parse_9C w ho]
    simp only [pLoft, hf, hx]
    rcases f with ⟨w64, flt, sgn⟩; cases w64 <;> cases flt <;> cases sgn <;> first | rfl | (exact absurd hq (by decide)) | (simp_all [Instr.fnOk, ITy.regs, ITy.signed, Size.bytes, RedTy.isFp] <;> rfl)

theorem RoundTrip.loftMax (x : LM) (f : LoftF) : RoundTrip.Statement (.loftMax x f) := fun h _ =>
  lm_round rfl rfl h fun w ho hf hx => by
    have hq := fnOk_of h
    rw [parse_9D w ho]
    simp only [pLoft, hf, hx]
    rcases f with ⟨w64, flt, sgn⟩; cases w64 <;> cases flt <;> cases sgn <;> first | rfl | (exact absurd hq (by decide)) | (simp_all [Instr.fnOk, ITy.regs, ITy.signed, Size.bytes, RedTy.isFp] <;> rfl)

theorem RoundTrip.loftCas (x : LM) (w64 : Bool) (nr : Bool) : RoundTrip.Statement (.loftCas x w64 nr) := fun h _ =>
  lm_round rfl rfl h fun w ho hf hx => by
    rw [parse_9E w ho]
    simp only [hf, hx]
    cases w64 <;> cases nr <;> rfl

theorem RoundTrip.loftSax (x : LM) (w64 : Bool) : RoundTrip.Statement (.loftSax x w64) := fun h _ =>
  lm_round rfl rfl h fun w ho hf hx => by
    rw [parse_9F w ho]
    simp only [hf, hx]
    cases w64 <;> rfl

theorem RoundTrip.fence (x : LM) : RoundTrip.Statement (.fence x) := fun h _ =>
  lm_round rfl rfl h fun w ho hf hx => by
    rw [parse_A0 w ho]
    simp only [hf, hx]
    rfl

theorem RoundTrip.fenceCb (x : LM) : RoundTrip.Statement (.fenceCb x) := fun h _ =>
  lm_round rfl rfl h fun w ho hf hx => by
    rw [parse_A0 w ho]
    simp only [hf, hx]
    rfl

theorem RoundTrip.barInit (x : LM) : RoundTrip.Statement (.barInit x) := fun h _ =>
  lm_round rfl rfl h fun w ho hf hx => by
    rw [parse_A1 w ho]
    simp only [pLm, hf, hx]
    rfl

theorem RoundTrip.barArrive (x : LM) : RoundTrip.Statement (.barArrive x) := fun h _ =>
  lm_round rfl rfl h fun w ho hf hx => by
    rw [parse_A2 w ho]
    simp only [pLm, hf, hx]
    rfl

theorem RoundTrip.barWait (x : LM) : RoundTrip.Statement (.barWait x) := fun h _ =>
  lm_round rfl rfl h fun w ho hf hx => by
    rw [parse_A3 w ho]
    simp only [pLm, hf, hx]
    rfl

theorem RoundTrip.barSync (x : LM) : RoundTrip.Statement (.barSync x) := fun h _ =>
  lm_round rfl rfl h fun w ho hf hx => by
    rw [parse_A4 w ho]
    simp only [pLm, hf, hx]
    rfl

theorem RoundTrip.barExpect (x : LM) : RoundTrip.Statement (.barExpect x) := fun h _ =>
  lm_round rfl rfl h fun w ho hf hx => by
    rw [parse_A5 w ho]
    simp only [pLm, hf, hx]
    rfl

theorem RoundTrip.barFree (x : LM) : RoundTrip.Statement (.barFree x) := fun h _ =>
  lm_round rfl rfl h fun w ho hf hx => by
    rw [parse_A6 w ho]
    simp only [pLm, hf, hx]
    rfl

theorem RoundTrip.gbar (x : LR) : RoundTrip.Statement (.gbar x) := fun h _ =>
  lr_round rfl rfl h fun w ho hf hm hx => by
    rw [parse_A7 w ho]
    simp only [pLr0, hf, hm, hx]
    rfl

theorem RoundTrip.semaTake (x : LM) : RoundTrip.Statement (.semaTake x) := fun h _ =>
  lm_round rfl rfl h fun w ho hf hx => by
    rw [parse_A8 w ho]
    simp only [pLm, hf, hx]
    rfl

theorem RoundTrip.semaWait (x : LM) : RoundTrip.Statement (.semaWait x) := fun h _ =>
  lm_round rfl rfl h fun w ho hf hx => by
    rw [parse_A9 w ho]
    simp only [pLm, hf, hx]
    rfl

theorem RoundTrip.semaGive (x : LM) : RoundTrip.Statement (.semaGive x) := fun h _ =>
  lm_round rfl rfl h fun w ho hf hx => by
    rw [parse_AA w ho]
    simp only [pLm, hf, hx]
    rfl

theorem RoundTrip.mmaStep (x : LE) (f : MFmt) (asp : Bool) (bsp : Bool) : RoundTrip.Statement (.mmaStep x f asp bsp) := fun h _ =>
  le_round rfl rfl h fun w ho hf hx => by
    have hq := fnOk_of h
    rw [parse_B0 w ho]
    simp only [parseMma, pLe0, pLr0, ho, hf, hx]
    cases f <;> cases asp <;> cases bsp <;> first | rfl | (exact absurd hq (by decide)) | (simp_all [Instr.fnOk, ITy.regs, ITy.signed, Size.bytes, RedTy.isFp] <;> rfl)

theorem RoundTrip.mmaCommit (x : LE) : RoundTrip.Statement (.mmaCommit x) := fun h _ =>
  le_round rfl rfl h fun w ho hf hx => by
    rw [parse_B1 w ho]
    simp only [parseMma, pLe0, pLr0, ho, hf, hx]
    rfl

theorem RoundTrip.mmaWait (x : LE) (st : Bool) : RoundTrip.Statement (.mmaWait x st) := fun h _ =>
  le_round rfl rfl h fun w ho hf hx => by
    rw [parse_B2 w ho]
    simp only [parseMma, pLe0, pLr0, ho, hf, hx]
    cases st <;> rfl

theorem RoundTrip.mmaZero (x : LE) (f64 : Bool) : RoundTrip.Statement (.mmaZero x f64) := fun h _ =>
  le_round rfl rfl h fun w ho hf hx => by
    have hq := fnOk_of h
    rw [parse_B3 w ho]
    simp only [parseMma, pLe0, pLr0, ho, hf, hx]
    cases f64 <;> first | rfl | (exact absurd hq (by decide)) | (simp_all [Instr.fnOk, ITy.regs, ITy.signed, Size.bytes, RedTy.isFp] <;> rfl)

theorem RoundTrip.mmaZeroFree (x : LE) : RoundTrip.Statement (.mmaZeroFree x) := fun h _ =>
  le_round rfl rfl h fun w ho hf hx => by
    have hq := fnOk_of h
    rw [parse_B3 w ho]
    simp only [parseMma, pLe0, pLr0, ho, hf, hx]
    first | rfl | (exact absurd hq (by decide)) | (simp_all [Instr.fnOk, ITy.regs, ITy.signed, Size.bytes, RedTy.isFp] <;> rfl)

theorem RoundTrip.mmaLd (x : LE) (f64 : Bool) (sp : Bool) : RoundTrip.Statement (.mmaLd x f64 sp) := fun h _ =>
  le_round rfl rfl h fun w ho hf hx => by
    have hq := fnOk_of h
    rw [parse_B4 w ho]
    simp only [parseMma, pLe0, pLr0, ho, hf, hx]
    cases f64 <;> cases sp <;> first | rfl | (exact absurd hq (by decide)) | (simp_all [Instr.fnOk, ITy.regs, ITy.signed, Size.bytes, RedTy.isFp] <;> rfl)

theorem RoundTrip.mmaSt (x : LE) (t : StFmt) (sp : Bool) : RoundTrip.Statement (.mmaSt x t sp) := fun h _ =>
  le_round rfl rfl h fun w ho hf hx => by
    rw [parse_B5 w ho]
    simp only [parseMma, pLe0, pLr0, ho, hf, hx]
    cases t <;> cases sp <;> rfl

theorem RoundTrip.mmaProg (x : LE) : RoundTrip.Statement (.mmaProg x) := fun h _ =>
  le_round rfl rfl h fun w ho hf hx => by
    rw [parse_B6 w ho]
    simp only [parseMma, pLe0, pLr0, ho, hf, hx]
    rfl

theorem RoundTrip.copy (x : LE) : RoundTrip.Statement (.copy x) := fun h _ =>
  le_round rfl rfl h fun w ho hf hx => by
    have hq := fnOk_of h
    rw [parse_C0 w ho]
    simp only [hf, hx]
    first | rfl | (exact absurd hq (by decide)) | (simp_all [Instr.fnOk, ITy.regs, ITy.signed, Size.bytes, RedTy.isFp] <;> rfl)

theorem RoundTrip.cbufInit (x : LE) : RoundTrip.Statement (.cbufInit x) := fun h _ =>
  le_round rfl rfl h fun w ho hf hx => by
    rw [parse_C1 w ho]
    simp only [pLe0, hf, hx]
    rfl

theorem RoundTrip.cbufTake (x : LE) : RoundTrip.Statement (.cbufTake x) := fun h _ =>
  le_round rfl rfl h fun w ho hf hx => by
    rw [parse_C2 w ho]
    simp only [pLe0, hf, hx]
    rfl

theorem RoundTrip.cbufGive (x : LE) : RoundTrip.Statement (.cbufGive x) := fun h _ =>
  le_round rfl rfl h fun w ho hf hx => by
    rw [parse_C3 w ho]
    simp only [pLe0, hf, hx]
    rfl

theorem RoundTrip.qbind (x : LE) : RoundTrip.Statement (.qbind x) := fun h _ =>
  le_round rfl rfl h fun w ho hf hx => by
    have hq := fnOk_of h
    rw [parse_C8 w ho]
    simp only [parseQbind, hf, hx]
    rcases x with ⟨hd, f10, c, b, a, d⟩
    cases a with
    | inl i =>
      simp only [Instr.fnOk, Bool.and_eq_true, decide_eq_true_eq] at hq
      simp [guard, hq]
    | v r | s r | b r | p r | q r | m r | bad r => rfl

theorem RoundTrip.qstat (x : LE) : RoundTrip.Statement (.qstat x) := fun h _ =>
  le_round rfl rfl h fun w ho hf hx => by
    rw [parse_C9 w ho]
    simp only [pLe0, hf, hx]
    rfl

theorem RoundTrip.meterPost (x : LE) : RoundTrip.Statement (.meterPost x) := fun h _ =>
  le_round rfl rfl h fun w ho hf hx => by
    rw [parse_CA w ho]
    simp only [pLe0, hf, hx]
    rfl

theorem RoundTrip.expose (x : LE) : RoundTrip.Statement (.expose x) := fun h _ =>
  le_round rfl rfl h fun w ho hf hx => by
    rw [parse_CB w ho]
    simp only [pLe0, hf, hx]
    rfl

theorem RoundTrip.spawn (x : LE) : RoundTrip.Statement (.spawn x) := fun h _ =>
  le_round rfl rfl h fun w ho hf hx => by
    rw [parse_D0 w ho]
    simp only [pLe0, hf, hx]
    rfl

theorem RoundTrip.post (x : LE) : RoundTrip.Statement (.post x) := fun h _ =>
  le_round rfl rfl h fun w ho hf hx => by
    have hq := fnOk_of h
    rw [parse_D1 w ho]
    simp only [hf, hx]
    first | rfl | (exact absurd hq (by decide)) | (simp_all [Instr.fnOk, ITy.regs, ITy.signed, Size.bytes, RedTy.isFp] <;> rfl)

theorem RoundTrip.join (x : LE) : RoundTrip.Statement (.join x) := fun h _ =>
  le_round rfl rfl h fun w ho hf hx => by
    have hq := fnOk_of h
    rw [parse_D2 w ho]
    simp only [hf, hx]
    first | rfl | (exact absurd hq (by decide)) | (simp_all [Instr.fnOk, ITy.regs, ITy.signed, Size.bytes, RedTy.isFp] <;> rfl)

theorem RoundTrip.taskEnd (x : LE) : RoundTrip.Statement (.taskEnd x) := fun h _ =>
  le_round rfl rfl h fun w ho hf hx => by
    rw [parse_D3 w ho]
    simp only [pLe0, hf, hx]
    rfl

theorem RoundTrip.fragRead (x : LE) : RoundTrip.Statement (.fragRead x) := fun h _ =>
  le_round rfl rfl h fun w ho hf hx => by
    have hq := fnOk_of h
    rw [parse_D4 w ho]
    simp only [hf, hx]
    first | rfl | (exact absurd hq (by decide)) | (simp_all [Instr.fnOk, ITy.regs, ITy.signed, Size.bytes, RedTy.isFp] <;> rfl)

theorem RoundTrip.fragWrite (x : LE) : RoundTrip.Statement (.fragWrite x) := fun h _ =>
  le_round rfl rfl h fun w ho hf hx => by
    have hq := fnOk_of h
    rw [parse_D5 w ho]
    simp only [hf, hx]
    first | rfl | (exact absurd hq (by decide)) | (simp_all [Instr.fnOk, ITy.regs, ITy.signed, Size.bytes, RedTy.isFp] <;> rfl)

theorem RoundTrip.fragResume (x : LE) : RoundTrip.Statement (.fragResume x) := fun h _ =>
  le_round rfl rfl h fun w ho hf hx => by
    rw [parse_D6 w ho]
    simp only [pLe0, hf, hx]
    rfl

theorem RoundTrip.fragKill (x : LE) : RoundTrip.Statement (.fragKill x) := fun h _ =>
  le_round rfl rfl h fun w ho hf hx => by
    rw [parse_D7 w ho]
    simp only [pLe0, hf, hx]
    rfl

theorem RoundTrip.fragList (x : LE) : RoundTrip.Statement (.fragList x) := fun h _ =>
  le_round rfl rfl h fun w ho hf hx => by
    rw [parse_D8 w ho]
    simp only [pLe0, hf, hx]
    rfl

theorem RoundTrip.sysr (x : LI) : RoundTrip.Statement (.sysr x) := fun h _ =>
  li_round rfl rfl h fun w ho hf hx => by
    have hq := fnOk_of h
    rw [parse_E0 w ho]
    simp only [parseSys, pLe0, pLr0, ho, hf, hx]
    first | rfl | (exact absurd hq (by decide)) | (simp_all [Instr.fnOk, ITy.regs, ITy.signed, Size.bytes, RedTy.isFp] <;> rfl)

theorem RoundTrip.sysw (x : LI) : RoundTrip.Statement (.sysw x) := fun h _ =>
  li_round rfl rfl h fun w ho hf hx => by
    have hq := fnOk_of h
    rw [parse_E1 w ho]
    simp only [parseSys, pLe0, pLr0, ho, hf, hx]
    first | rfl | (exact absurd hq (by decide)) | (simp_all [Instr.fnOk, ITy.regs, ITy.signed, Size.bytes, RedTy.isFp] <;> rfl)

theorem RoundTrip.trap (x : LI) : RoundTrip.Statement (.trap x) := fun h _ =>
  li_round rfl rfl h fun w ho hf hx => by
    rw [parse_E2 w ho]
    simp only [parseSys, pLe0, pLr0, ho, hf, hx]
    rfl

theorem RoundTrip.time (x : LR) : RoundTrip.Statement (.time x) := fun h _ =>
  lr_round rfl rfl h fun w ho hf hm hx => by
    rw [parse_E3 w ho]
    simp only [parseSys, pLe0, pLr0, ho, hf, hm, hx]
    rfl

theorem RoundTrip.cycles (x : LR) : RoundTrip.Statement (.cycles x) := fun h _ =>
  lr_round rfl rfl h fun w ho hf hm hx => by
    rw [parse_E4 w ho]
    simp only [parseSys, pLe0, pLr0, ho, hf, hm, hx]
    rfl

theorem RoundTrip.rand (x : LE) (t : RandTy) : RoundTrip.Statement (.rand x t) := fun h _ =>
  le_round rfl rfl h fun w ho hf hx => by
    rw [parse_E5 w ho]
    simp only [parseSys, pLe0, pLr0, ho, hf, hx]
    cases t <;> rfl

theorem RoundTrip.snap (x : LR) : RoundTrip.Statement (.snap x) := fun h _ =>
  lr_round rfl rfl h fun w ho hf hm hx => by
    rw [parse_E6 w ho]
    simp only [parseSys, pLe0, pLr0, ho, hf, hm, hx]
    rfl

theorem RoundTrip.fpcrWrite (x : LI) : RoundTrip.Statement (.fpcrWrite x) := fun h _ =>
  li_round rfl rfl h fun w ho hf hx => by
    have hq := fnOk_of h
    rw [parse_E1 w ho]
    simp only [parseSys, pLe0, pLr0, ho, hf, hx]
    first | rfl | (exact absurd hq (by decide)) | (simp_all [Instr.fnOk, ITy.regs, ITy.signed, Size.bytes, RedTy.isFp] <;> rfl)

theorem RoundTrip.fpsrWrite (x : LI) : RoundTrip.Statement (.fpsrWrite x) := fun h _ =>
  li_round rfl rfl h fun w ho hf hx => by
    have hq := fnOk_of h
    rw [parse_E1 w ho]
    simp only [parseSys, pLe0, pLr0, ho, hf, hx]
    first | rfl | (exact absurd hq (by decide)) | (simp_all [Instr.fnOk, ITy.regs, ITy.signed, Size.bytes, RedTy.isFp] <;> rfl)

theorem RoundTrip.hscountRead (x : LI) : RoundTrip.Statement (.hscountRead x) := fun h _ =>
  li_round rfl rfl h fun w ho hf hx => by
    have hq := fnOk_of h
    rw [parse_E0 w ho]
    simp only [parseSys, pLe0, pLr0, ho, hf, hx]
    first | rfl | (exact absurd hq (by decide)) | (simp_all [Instr.fnOk, ITy.regs, ITy.signed, Size.bytes, RedTy.isFp] <;> rfl)

theorem RoundTrip.tlbinvRange (w : RegWrite) : RoundTrip.Statement (.tlbinvRange w) := fun _ g => absurd rfl g

theorem RoundTrip.tlbinvAll (w : RegWrite) : RoundTrip.Statement (.tlbinvAll w) := fun _ g => absurd rfl g

theorem RoundTrip.qcmdOpen (w : RegWrite) : RoundTrip.Statement (.qcmdOpen w) := fun _ g => absurd rfl g

theorem RoundTrip.qcmdClose (w : RegWrite) : RoundTrip.Statement (.qcmdClose w) := fun _ g => absurd rfl g

theorem RoundTrip.qcmdRemove (w : RegWrite) : RoundTrip.Statement (.qcmdRemove w) := fun _ g => absurd rfl g

theorem RoundTrip.poolAssign (w : RegWrite) : RoundTrip.Statement (.poolAssign w) := fun _ g => absurd rfl g

theorem RoundTrip.meterEnable (w : RegWrite) : RoundTrip.Statement (.meterEnable w) := fun _ g => absurd rfl g

theorem RoundTrip.meterDisable (w : RegWrite) : RoundTrip.Statement (.meterDisable w) := fun _ g => absurd rfl g

theorem RoundTrip.meterRejClear (w : RegWrite) : RoundTrip.Statement (.meterRejClear w) := fun _ g => absurd rfl g

theorem RoundTrip.scanEnable (w : RegWrite) : RoundTrip.Statement (.scanEnable w) := fun _ g => absurd rfl g

theorem RoundTrip.scanDisable (w : RegWrite) : RoundTrip.Statement (.scanDisable w) := fun _ g => absurd rfl g

theorem RoundTrip.negstoreClear (w : RegWrite) : RoundTrip.Statement (.negstoreClear w) := fun _ g => absurd rfl g

theorem RoundTrip.linkPause (w : RegWrite) : RoundTrip.Statement (.linkPause w) := fun _ g => absurd rfl g

theorem RoundTrip.linkResume (w : RegWrite) : RoundTrip.Statement (.linkResume w) := fun _ g => absurd rfl g

theorem RoundTrip.linkRetrain (w : RegWrite) : RoundTrip.Statement (.linkRetrain w) := fun _ g => absurd rfl g

theorem RoundTrip.linkClr (w : RegWrite) : RoundTrip.Statement (.linkClr w) := fun _ g => absurd rfl g

theorem RoundTrip.rasClr (w : RegWrite) : RoundTrip.Statement (.rasClr w) := fun _ g => absurd rfl g

theorem RoundTrip.tagResultComplete (wave : Nat) (tag : Nat) : RoundTrip.Statement (.tagResultComplete wave tag) := fun _ g => absurd rfl g

theorem RoundTrip.waveRetire (wave : Nat) : RoundTrip.Statement (.waveRetire wave) := fun _ g => absurd rfl g

theorem RoundTrip.fragmentRejoin (wave : Nat) : RoundTrip.Statement (.fragmentRejoin wave) := fun _ g => absurd rfl g

theorem RoundTrip.faultRecordDelivery (core : Nat) (entry : Nat) : RoundTrip.Statement (.faultRecordDelivery core entry) := fun _ g => absurd rfl g

theorem RoundTrip.pageFaultService (req : PageReq) (ans : PageAns) : RoundTrip.Statement (.pageFaultService req ans) := fun _ g => absurd rfl g

theorem RoundTrip.sideLogReplay (core : Nat) (wave : Nat) : RoundTrip.Statement (.sideLogReplay core wave) := fun _ g => absurd rfl g

theorem RoundTrip.frameRetire (page : Nat) (spare : Nat) (more : List (Nat × Nat)) :
    RoundTrip.Statement (.frameRetire page spare more) := fun _ g => absurd rfl g

theorem RoundTrip.tileGrant (cluster : Nat) : RoundTrip.Statement (.tileGrant cluster) := fun _ g => absurd rfl g

theorem RoundTrip.mmaChunkApply (cluster : Nat) (idx : Nat) : RoundTrip.Statement (.mmaChunkApply cluster idx) := fun _ g => absurd rfl g

theorem RoundTrip.copyComplete (cluster : Nat) (idx : Nat) : RoundTrip.Statement (.copyComplete cluster idx) := fun _ g => absurd rfl g

theorem RoundTrip.cbufSlotClaim (cluster : Nat) (idx : Nat) : RoundTrip.Statement (.cbufSlotClaim cluster idx) := fun _ g => absurd rfl g

theorem RoundTrip.portTakePush (wave : Nat) (pair : Nat) (lane : Nat) : RoundTrip.Statement (.portTakePush wave pair lane) := fun _ g => absurd rfl g

theorem RoundTrip.rangefinderClosestHit (wave : Nat) (pair : Nat) (lane : Nat) : RoundTrip.Statement (.rangefinderClosestHit wave pair lane) := fun _ g => absurd rfl g

theorem RoundTrip.rangefinderAnyHit (wave : Nat) (pair : Nat) (lane : Nat) : RoundTrip.Statement (.rangefinderAnyHit wave pair lane) := fun _ g => absurd rfl g

theorem RoundTrip.rangefinderRasterProbe (wave : Nat) (pair : Nat) (lane : Nat) : RoundTrip.Statement (.rangefinderRasterProbe wave pair lane) := fun _ g => absurd rfl g

theorem RoundTrip.rangefinderTreeQuery (wave : Nat) (pair : Nat) (lane : Nat) : RoundTrip.Statement (.rangefinderTreeQuery wave pair lane) := fun _ g => absurd rfl g

theorem RoundTrip.hazeMarch (wave : Nat) (pair : Nat) (lane : Nat) : RoundTrip.Statement (.hazeMarch wave pair lane) := fun _ g => absurd rfl g

theorem RoundTrip.meterSweep (site : Nat) (tiles : Nat) : RoundTrip.Statement (.meterSweep site tiles) := fun _ g => absurd rfl g

theorem RoundTrip.meterOfferRetry (site : Nat) : RoundTrip.Statement (.meterOfferRetry site) := fun _ g => absurd rfl g

theorem RoundTrip.meterBlockFree (site : Nat) (block : Nat) : RoundTrip.Statement (.meterBlockFree site block) := fun _ g => absurd rfl g

theorem RoundTrip.scanStart (site : Nat) : RoundTrip.Statement (.scanStart site) := fun _ g => absurd rfl g

theorem RoundTrip.scanoutBandStart (site : Nat) : RoundTrip.Statement (.scanoutBandStart site) := fun _ g => absurd rfl g

theorem RoundTrip.schedulerScan (site : Nat) : RoundTrip.Statement (.schedulerScan site) := fun _ g => absurd rfl g

theorem RoundTrip.placementOffer (site : Nat) : RoundTrip.Statement (.placementOffer site) := fun _ g => absurd rfl g

theorem RoundTrip.delayedOffer (idx : Nat) : RoundTrip.Statement (.delayedOffer idx) := fun _ g => absurd rfl g

theorem RoundTrip.dsPhaseCommit (phase : Nat) : RoundTrip.Statement (.dsPhaseCommit phase) := fun _ g => absurd rfl g

theorem RoundTrip.prewait (site : Nat) : RoundTrip.Statement (.prewait site) := fun _ g => absurd rfl g

theorem RoundTrip.gangWait (launch : Nat) (gang : Nat) : RoundTrip.Statement (.gangWait launch gang) := fun _ g => absurd rfl g

theorem RoundTrip.gangLimit (launch : Nat) (gang : Nat) : RoundTrip.Statement (.gangLimit launch gang) := fun _ g => absurd rfl g

theorem RoundTrip.hang (crew : Nat) : RoundTrip.Statement (.hang crew) := fun _ g => absurd rfl g

theorem RoundTrip.exclusionWindowEnd (core : Nat) : RoundTrip.Statement (.exclusionWindowEnd core) := fun _ g => absurd rfl g

theorem RoundTrip.urgentWaveWindow (core : Nat) : RoundTrip.Statement (.urgentWaveWindow core) := fun _ g => absurd rfl g

theorem RoundTrip.barrierReleaseSlice (crew : Nat) : RoundTrip.Statement (.barrierReleaseSlice crew) := fun _ g => absurd rfl g

theorem RoundTrip.packetReceive (flow : FlowId) (seq : BitVec 16) : RoundTrip.Statement (.packetReceive flow seq) := fun _ g => absurd rfl g

theorem RoundTrip.linkAckReceive (flow : FlowId) (seq : BitVec 16) : RoundTrip.Statement (.linkAckReceive flow seq) := fun _ g => absurd rfl g

theorem RoundTrip.flitCrcError (site : Nat) (modn : Nat) (lanes : BitVec 64) : RoundTrip.Statement (.flitCrcError site modn lanes) := fun _ g => absurd rfl g

theorem RoundTrip.linkPaused : RoundTrip.Statement (.linkPaused) := fun _ g => absurd rfl g

theorem RoundTrip.linkTrainComplete : RoundTrip.Statement (.linkTrainComplete) := fun _ g => absurd rfl g

theorem RoundTrip.ptpSync (m : PtpMsg) : RoundTrip.Statement (.ptpSync m) := fun _ g => absurd rfl g

theorem RoundTrip.headsetFrame (port : Nat) (records : List (BitVec 256)) : RoundTrip.Statement (.headsetFrame port records) := fun _ g => absurd rfl g

theorem RoundTrip.hopen (d : Datagram) : RoundTrip.Statement (.hopen d) := fun _ g => absurd rfl g

theorem RoundTrip.elevate (d : Datagram) : RoundTrip.Statement (.elevate d) := fun _ g => absurd rfl g

theorem RoundTrip.hclose (d : Datagram) : RoundTrip.Statement (.hclose d) := fun _ g => absurd rfl g

theorem RoundTrip.ack (d : Datagram) : RoundTrip.Statement (.ack d) := fun _ g => absurd rfl g

theorem RoundTrip.setip (d : Datagram) : RoundTrip.Statement (.setip d) := fun _ g => absurd rfl g

theorem RoundTrip.memrd (d : Datagram) : RoundTrip.Statement (.memrd d) := fun _ g => absurd rfl g

theorem RoundTrip.memwr (d : Datagram) : RoundTrip.Statement (.memwr d) := fun _ g => absurd rfl g

theorem RoundTrip.launch (d : Datagram) : RoundTrip.Statement (.launch d) := fun _ g => absurd rfl g

theorem RoundTrip.lclose (d : Datagram) : RoundTrip.Statement (.lclose d) := fun _ g => absurd rfl g

theorem RoundTrip.push (d : Datagram) : RoundTrip.Statement (.push d) := fun _ g => absurd rfl g

theorem RoundTrip.qcmd (d : Datagram) : RoundTrip.Statement (.qcmd d) := fun _ g => absurd rfl g

theorem RoundTrip.tlbinv (d : Datagram) : RoundTrip.Statement (.tlbinv d) := fun _ g => absurd rfl g

theorem RoundTrip.hsring (d : Datagram) : RoundTrip.Statement (.hsring d) := fun _ g => absurd rfl g

theorem RoundTrip.gate (d : Datagram) : RoundTrip.Statement (.gate d) := fun _ g => absurd rfl g

theorem RoundTrip.attest (d : Datagram) : RoundTrip.Statement (.attest d) := fun _ g => absurd rfl g

theorem RoundTrip.bootreq (d : Datagram) : RoundTrip.Statement (.bootreq d) := fun _ g => absurd rfl g

theorem RoundTrip.recover (d : Datagram) : RoundTrip.Statement (.recover d) := fun _ g => absurd rfl g

theorem RoundTrip.rosoinuUnknownType (d : Datagram) : RoundTrip.Statement (.rosoinuUnknownType d) := fun _ g => absurd rfl g

theorem RoundTrip.rosoinuResend : RoundTrip.Statement (.rosoinuResend) := fun _ g => absurd rfl g

theorem RoundTrip.sessionIdleTimeout (session : Nat) : RoundTrip.Statement (.sessionIdleTimeout session) := fun _ g => absurd rfl g

theorem RoundTrip.bootRequestRepeat (site : Nat) : RoundTrip.Statement (.bootRequestRepeat site) := fun _ g => absurd rfl g

theorem RoundTrip.flashReread : RoundTrip.Statement (.flashReread) := fun _ g => absurd rfl g

theorem RoundTrip.powerOn (site : Nat) : RoundTrip.Statement (.powerOn site) := fun _ g => absurd rfl g

theorem RoundTrip.dpHotplug (site : Nat) (present : Bool) : RoundTrip.Statement (.dpHotplug site present) := fun _ g => absurd rfl g

theorem RoundTrip.securityAlarm (site : Nat) : RoundTrip.Statement (.securityAlarm site) := fun _ g => absurd rfl g

theorem RoundTrip.throttle (cluster : Nat) (watts : Nat) (tj : Nat) : RoundTrip.Statement (.throttle cluster watts tj) := fun _ g => absurd rfl g

theorem RoundTrip.snapTime : RoundTrip.Statement (.snapTime) := fun _ g => absurd rfl g

theorem RoundTrip.correctedError (site : Nat) (addr : Nat) : RoundTrip.Statement (.correctedError site addr) := fun _ g => absurd rfl g

theorem RoundTrip.uncorrectableError (at_ : ErrAt) (second : Bool) : RoundTrip.Statement (.uncorrectableError at_ second) := fun _ g => absurd rfl g

theorem RoundTrip.lastingLaneFault (core : Nat) : RoundTrip.Statement (.lastingLaneFault core) := fun _ g => absurd rfl g

theorem RoundTrip.lastingPoleFault (core : Nat) (pole : PoleRef) : RoundTrip.Statement (.lastingPoleFault core pole) := fun _ g => absurd rfl g

theorem RoundTrip.accessPerformed (idx : Nat) (scope : Scope) : RoundTrip.Statement (.accessPerformed idx scope) := fun _ g => absurd rfl g

theorem RoundTrip.throttleEnd (cluster : Nat) (watts : Nat) (tj : Nat) : RoundTrip.Statement (.throttleEnd cluster watts tj) := fun _ g => absurd rfl g

end Sys2Proof.Laws
end

