-- ==== Sys2Proof/Tests/Slice0.lean ====
section
/-!
SUPPORT. Tests of the model against the spec: the words of every encoded instruction, one ill-formed term for each check of
the decoder, single steps with results from the spec's examples, and for each statement a state and operands that meet its
hypotheses.  The words were assembled by hand from the tables of 02 R33-R39, R53, R54 and of the chapters 04-08.
-/
namespace Sys2Proof.Tests
open Sys2Proof Sys2Proof.Machine

-- One test after the other: each evaluation takes a thread of its own.
set_option Elab.async false

/-! ### Words (02) -/

/-- A header with nothing set and the guard always (R33). -/
def hd : Hdr := ⟨0, false, 0, false, false, false, 15⟩
def lr (rs : BitVec 2) (exc exr : BitVec 3) (c b a d : Sel) : LR := ⟨hd, rs, exc, exr, c, b, a, d⟩
def li (imm : BitVec 22) (exc exr : BitVec 3) (a d : Sel) : LI := ⟨hd, imm, exc, exr, a, d⟩
def lm (scp : BitVec 3) (ord sc : BitVec 2) (imm : BitVec 14) (o : Sel) (sb : BitVec 6) (d : Sel) : LM :=
  ⟨hd, scp, ord, sc, imm, o, sb, d⟩
def le (f10 : BitVec 10) (c b a d : Sel) : LE := ⟨hd, f10, c, b, a, d⟩
def sh (exc exr : BitVec 3) (b : Sel) (da : BitVec 8) : SH := ⟨false, false, false, 0, false, 15, exc, exr, b, da⟩

/-- Each word decodes to the instruction beside it, which is well formed. -/
def decodesAll (l : List (Nat × Nat × Instr)) : Bool :=
  l.all fun (n, w, i) => decodeTableWord n w == some i && i.WellFormed

theorem test_decode_integer_1 : decodesAll [
    (80, 0x14400000102000078001, .mov (lr 1 2 1 (.v 0) (.v 0) (.v 2) (.v 8)) .i32),
    (80, 0xFFFFEC90001C0007C201, .movLi (li 4194299 1 1 (.v 0) (.v 7)) .n32),
    (80, 0x6EF56DF778240007E001, .movLk ⟨hd, 3, 1, 0xDEADBEEF, .v 9⟩ .i32),
    (40, 0x00F22060A0, .movShort (sh 1 0 (.s 3) 5)),
    (80, 0x04800000554000078001, .movQPush (lr 0 2 2 (.v 0) (.v 0) (.v 10) (.q 0)) .i32),
    (80, 0x0E00000A882800078001, .movQPop (.long (lr 0 7 0 (.v 0) (.v 0) (.q 1) (.v 10)) .i32)),
    (40, 0x00FE2A6200, .movQPop (.short (sh 7 0 (.q 3) 16))),
    (80, 0x00000040101800078603, .iadd (lr 0 0 0 (.v 0) (.v 4) (.v 2) (.v 6)) .n64 false),
    (80, 0x00001BF0101800079003, .iadd (lr 0 0 0 (.v 0) (.inl 63) (.v 2) (.v 6)) .i32 true),
    (40, 0x00F0382082, .iaddShort (sh 0 0 (.inl 65) 4)),
    (80, 0x00001470101800078405, .isub (lr 0 0 0 (.v 0) (.p 3) (.v 2) (.v 6)) .i64 false),
    (80, 0x00001C0010040007D205, .isubLi (li 7 0 0 (.v 2) (.v 1)) .n32 true),
    (40, 0x00F0012084, .isubShort (sh 0 0 (.v 9) 4)),
    (80, 0x8000000010040007C003, .iaddLi (li 2097152 0 0 (.v 2) (.v 1)) .i32 false),
    (80, 0x00000030100400078007, .imul (lr 0 0 0 (.v 0) (.v 3) (.v 2) (.v 1)) .i32),
    (80, 0x0001900010040007C207, .imulLi (li 100 0 0 (.v 2) (.v 1)) .n32),
    (80, 0x00000030100400078209, .imulh (lr 0 0 0 (.v 0) (.v 3) (.v 2) (.v 1)) .n32),
    (80, 0x0001006020080007840B, .imad (lr 0 0 0 (.v 8) (.v 6) (.v 4) (.v 2)) .i64),
    (80, 0x0001005020080007820D, .imadWide (lr 0 0 0 (.v 8) (.v 5) (.v 4) (.v 2)) .n32),
    (80, 0x0000003010040007800F, .idiv (lr 0 0 0 (.v 0) (.v 3) (.v 2) (.v 1)) .i32),
    (80, 0x00000060200800078611, .irem (lr 0 0 0 (.v 0) (.v 6) (.v 4) (.v 2)) .n64),
    (80, 0x00000000100400079013, .iabs (lr 0 0 0 (.v 0) (.v 0) (.v 2) (.v 1)) .i32 true),
    (80, 0x00000000200800078415, .ineg (lr 0 0 0 (.v 0) (.v 0) (.v 4) (.v 2)) .i64 false),
    (80, 0x00000030100400078017, .imin (lr 0 0 0 (.v 0) (.v 3) (.v 2) (.v 1)) .i32)] = true := by
  decide +kernel

theorem test_decode_integer_2 : decodesAll [
    (80, 0x0000240010040007C217, .iminLi (li 9 0 0 (.v 2) (.v 1)) .n32),
    (40, 0x00F0004032, .iminShort (sh 0 0 (.v 2) 1)),
    (80, 0x00000030100400078219, .imax (lr 0 0 0 (.v 0) (.v 3) (.v 2) (.v 1)) .n32),
    (80, 0xFFFFDC0010040007C019, .imaxLi (li 4194295 0 0 (.v 2) (.v 1)) .i32),
    (40, 0x00F0004034, .imaxShort (sh 0 0 (.v 2) 1)),
    (80, 0x0000C05020080007921B, .addc (lr 0 0 0 (.v 6) (.v 5) (.v 4) (.v 2)) .n32 true),
    (80, 0x0001006020080007861D, .subc (lr 0 0 0 (.v 8) (.v 6) (.v 4) (.v 2)) .n64 false),
    (80, 0x0000006020080007B01F, .lea (lr 0 0 0 (.v 0) (.v 6) (.v 4) (.v 2)) .i32 3),
    (80, 0x0000A00020080007E21F, .leaLi (li 40 0 0 (.v 4) (.v 2)) .n32 2)] = true := by
  decide +kernel

theorem test_decode_logic_1 : decodesAll [
    (80, 0x00000030100400078221, .and (lr 0 0 0 (.v 0) (.v 3) (.v 2) (.v 1)) .n32),
    (80, 0x0000140010040007C021, .andLi (li 5 0 0 (.v 2) (.v 1)) .i32),
    (80, 0x00000030100400078223, .or (lr 0 0 0 (.v 0) (.v 3) (.v 2) (.v 1)) .n32),
    (80, 0x0000140010040007C023, .orLi (li 5 0 0 (.v 2) (.v 1)) .i32),
    (80, 0x00000030100400078225, .xor (lr 0 0 0 (.v 0) (.v 3) (.v 2) (.v 1)) .n32),
    (80, 0x0000140010040007C025, .xorLi (li 5 0 0 (.v 2) (.v 1)) .i32),
    (80, 0x00000030100400078229, .andn (lr 0 0 0 (.v 0) (.v 3) (.v 2) (.v 1)) .n32),
    (80, 0x0000140010040007C029, .andnLi (li 5 0 0 (.v 2) (.v 1)) .i32),
    (80, 0x0000003010040007822B, .shl (lr 0 0 0 (.v 0) (.v 3) (.v 2) (.v 1)) .n32),
    (80, 0x0000140010040007C02B, .shlLi (li 5 0 0 (.v 2) (.v 1)) .i32),
    (80, 0x0000003010040007822D, .shr (lr 0 0 0 (.v 0) (.v 3) (.v 2) (.v 1)) .n32),
    (80, 0x0000140010040007C02D, .shrLi (li 5 0 0 (.v 2) (.v 1)) .i32),
    (80, 0x0000003010040007822F, .sra (lr 0 0 0 (.v 0) (.v 3) (.v 2) (.v 1)) .n32),
    (80, 0x0000140010040007C02F, .sraLi (li 5 0 0 (.v 2) (.v 1)) .i32),
    (40, 0x00F000E0C6, .andShort (sh 0 0 (.v 7) 6)),
    (40, 0x00F000E0C8, .orShort (sh 0 0 (.v 7) 6)),
    (40, 0x00F000E0CA, .xorShort (sh 0 0 (.v 7) 6)),
    (40, 0x00F000E0CC, .shlShort (sh 0 0 (.v 7) 6)),
    (40, 0x00F000E0CE, .shrShort (sh 0 0 (.v 7) 6)),
    (40, 0x00F000E0D0, .sraShort (sh 0 0 (.v 7) 6)),
    (80, 0x00000000200800078427, .not (lr 0 0 0 (.v 0) (.v 0) (.v 4) (.v 2)) .i64),
    (80, 0x00008030100400079231, .shf (lr 0 0 0 (.v 4) (.v 3) (.v 2) (.v 1)) .n32 true),
    (80, 0x00000030100400078033, .bfe (lr 0 0 0 (.v 0) (.v 3) (.v 2) (.v 1)) .i32),
    (80, 0x00012060200800078635, .bfi (lr 0 0 0 (.v 9) (.v 6) (.v 4) (.v 2)) .n64)] = true := by
  decide +kernel

theorem test_decode_logic_2 : decodesAll [
    (80, 0x00000000100400078237, .popc (lr 0 0 0 (.v 0) (.v 0) (.v 2) (.v 1)) .n32),
    (80, 0x00000000100400078239, .clz (lr 0 0 0 (.v 0) (.v 0) (.v 2) (.v 1)) .n32),
    (80, 0x0000000010040007823B, .ctz (lr 0 0 0 (.v 0) (.v 0) (.v 2) (.v 1)) .n32),
    (80, 0x0000000010040007823D, .brev (lr 0 0 0 (.v 0) (.v 0) (.v 2) (.v 1)) .n32),
    (80, 0xC000803010040007D03F, .lut3 (lr 0 0 0 (.v 4) (.v 3) (.v 2) (.v 1)) 0xE8)] = true := by
  decide +kernel

theorem test_decode_float_1 : decodesAll [
    (80, 0x0000003010040007A441, .fadd (lr 0 0 0 (.v 0) (.v 3) (.v 2) (.v 1)) .f16 .rtz),
    (80, 0x0000003010040007A443, .fsub (lr 0 0 0 (.v 0) (.v 3) (.v 2) (.v 1)) .f16 .rtz),
    (80, 0x0000003010040007A445, .fmul (lr 0 0 0 (.v 0) (.v 3) (.v 2) (.v 1)) .f16 .rtz),
    (40, 0x00F6280076, .faddShort (sh 3 0 (.b 0) 3)),
    (40, 0x00F6280078, .fsubShort (sh 3 0 (.b 0) 3)),
    (40, 0x00F628007A, .fmulShort (sh 3 0 (.b 0) 3)),
    (40, 0x00F628007C, .fminShort (sh 3 0 (.b 0) 3)),
    (40, 0x00F628007E, .fmaxShort (sh 3 0 (.b 0) 3)),
    (80, 0x0001006020080007D047, .ffma (lr 0 0 0 (.v 8) (.v 6) (.v 4) (.v 2)) .f64 .rna),
    (80, 0x0000003010040007B249, .fdiv (lr 0 0 0 (.v 0) (.v 3) (.v 2) (.v 1)) .f32 .rup),
    (80, 0x0000000020080007C04B, .fsqrt (lr 0 0 0 (.v 0) (.v 0) (.v 4) (.v 2)) .f64 .rdn),
    (80, 0x0000000010040007824D, .frcpApprox (lr 0 0 0 (.v 0) (.v 0) (.v 2) (.v 1)) .f32),
    (80, 0x0000000010040007824F, .frsqApprox (lr 0 0 0 (.v 0) (.v 0) (.v 2) (.v 1)) .f32),
    (80, 0x00000000100400078251, .fexp2Approx (lr 0 0 0 (.v 0) (.v 0) (.v 2) (.v 1)) .f32),
    (80, 0x00000000100400078253, .flog2Approx (lr 0 0 0 (.v 0) (.v 0) (.v 2) (.v 1)) .f32),
    (80, 0x00000000100400078255, .fsinApprox (lr 0 0 0 (.v 0) (.v 0) (.v 2) (.v 1)) .f32),
    (80, 0x00000000100400078257, .fcosApprox (lr 0 0 0 (.v 0) (.v 0) (.v 2) (.v 1)) .f32),
    (80, 0x00000030100400078659, .fmin (lr 0 0 0 (.v 0) (.v 3) (.v 2) (.v 1)) .bf16),
    (80, 0x0000003010040007865B, .fmax (lr 0 0 0 (.v 0) (.v 3) (.v 2) (.v 1)) .bf16),
    (80, 0x0000003010040007865D, .fminx (lr 0 0 0 (.v 0) (.v 3) (.v 2) (.v 1)) .bf16),
    (80, 0x0000003010040007865F, .fmaxx (lr 0 0 0 (.v 0) (.v 3) (.v 2) (.v 1)) .bf16),
    (80, 0x00000030100400078665, .fcopysign (lr 0 0 0 (.v 0) (.v 3) (.v 2) (.v 1)) .bf16),
    (80, 0x00000000100400078861, .fabs (lr 0 0 0 (.v 0) (.v 0) (.v 2) (.v 1)) .f16x2),
    (80, 0x00000000100400078863, .fneg (lr 0 0 0 (.v 0) (.v 0) (.v 2) (.v 1)) .f16x2)] = true := by
  decide +kernel

theorem test_decode_float_2 : decodesAll [
    (80, 0x00000000100400078869, .fgetexp (lr 0 0 0 (.v 0) (.v 0) (.v 2) (.v 1)) .f16x2),
    (80, 0x0000000010040007886B, .fgetman (lr 0 0 0 (.v 0) (.v 0) (.v 2) (.v 1)) .f16x2),
    (80, 0x4000000010040007A267, .frint (lr 0 0 0 (.v 0) (.v 0) (.v 2) (.v 1)) .f32 .rtz true),
    (80, 0x0000006020080007806D, .fscale (lr 0 0 0 (.v 0) (.v 6) (.v 4) (.v 2)) .f64 .dyn),
    (80, 0x0000000010040007806F, .fclass (lr 0 0 0 (.v 0) (.v 0) (.v 2) (.v 1)) .f64),
    (80, 0x00008030100400079671, .ffmaMix (lr 0 0 0 (.v 4) (.v 3) (.v 2) (.v 1)) .bf16 .rne),
    (80, 0x00008030100400078A73, .fdot2 (lr 0 0 0 (.v 4) (.v 3) (.v 2) (.v 1)) .bf16x2 .dyn)] = true := by
  decide +kernel

theorem test_decode_compare : decodesAll [
    (80, 0x00001FFA05100007B081, .icmp (lr 0 0 0 (.v 0) (.inl 127) (.b 0) (.p 0)) .i32 .le),
    (80, 0xC000003015140007A283, .fcmp (lr 0 0 0 (.v 0) (.v 3) (.v 2) (.p 1)) .f32 .lt true true),
    (80, 0x00292060200800078485, .sel (lr 0 0 0 (.p 5) (.v 6) (.v 4) (.v 2)) true),
    (80, 0x0000147A351400078087, .pand (lr 0 0 0 (.v 0) (.p 3) (.p 2) (.p 1))),
    (80, 0x0000147A351400078089, .por (lr 0 0 0 (.v 0) (.p 3) (.p 2) (.p 1))),
    (80, 0x0000147A35140007808B, .pxor (lr 0 0 0 (.v 0) (.p 3) (.p 2) (.p 1))),
    (80, 0x0000000A35140007808D, .pnot (lr 0 0 0 (.v 0) (.v 0) (.p 2) (.p 1))),
    (80, 0x0000000A35140007808F, .pmov (lr 0 0 0 (.v 0) (.v 0) (.p 2) (.p 1))),
    (80, 0x06002040A028000792A1, .cvt (lr 0 3 0 (.v 0) (.v 0) (.v 20) (.v 10)) .rne true .e4m3 .f32),
    (80, 0x0EC000810010000792A3, .mxq (lr 0 7 3 (.v 0) (.v 8) (.v 32) (.v 4)) .rne),
    (80, 0x8000803010040007B0A5, .shfl (lr 0 0 0 (.v 4) (.v 3) (.v 2) (.v 1)) .xor false 2),
    (80, 0x4000000010040007A2A7, .wred (lr 0 0 0 (.v 0) (.v 0) (.v 2) (.v 1)) .max (.fp .f32)),
    (80, 0x800000002008000786A9, .wscan (lr 0 0 0 (.v 0) (.v 0) (.v 4) (.v 2)) .add (.int .n64) true),
    (80, 0x000000001510000780AB, .voteAny (lr 0 0 0 (.v 0) (.v 0) (.v 2) (.p 0))),
    (80, 0x0E0000001510000780AD, .voteAll (lr 0 7 0 (.v 0) (.v 0) (.v 2) (.p 0))),
    (80, 0x4000000A3004000780AF, .ballot (lr 0 0 0 (.v 0) (.v 0) (.p 2) (.v 1)) true),
    (80, 0x00000000140C000780B1, .laneFirst (lr 0 0 0 (.v 0) (.v 0) (.v 2) (.s 3)))] = true := by
  decide +kernel

theorem test_decode_control : decodesAll [
    (80, 0x000000000018000000C1, .bra ⟨⟨0, false, 0, false, false, false, 0⟩, 0, .v 0, 6⟩),
    (80, 0x000000003800000780C3, .brx (lr 0 0 0 (.v 0) (.v 0) (.v 7) (.v 0))),
    (80, 0x0323FFFFFF00000780C5, .call ⟨hd, 0, .v 200, 0xFFFFFFC0⟩),
    (80, 0x000000003C10000780C7, .callx (lr 0 0 0 (.v 0) (.v 0) (.v 7) (.s 4))),
    (80, 0x000000064000000780C9, .ret (lr 0 0 0 (.v 0) (.v 0) (.v 200) (.v 0))),
    (80, 0x000000000000000780CB, .exit (lr 0 0 0 (.v 0) (.v 0) (.v 0) (.v 0))),
    (80, 0x000000000000000780CD, .yield (lr 0 0 0 (.v 0) (.v 0) (.v 0) (.v 0))),
    (80, 0x000000000000000780CF, .nop (lr 0 0 0 (.v 0) (.v 0) (.v 0) (.v 0))),
    (80, 0x0000000000000007814F, .gbar (lr 0 0 0 (.v 0) (.v 0) (.v 0) (.v 0)))] = true := by
  decide +kernel

theorem test_decode_memory : decodesAll [
    (80, 0x02FFF8061010000792E1, .ldG (lm 0 0 2 16382 (.v 3) 2 (.v 4)) .b16 true false),
    (80, 0x4400038010200007AAE1, .ldG (lm 4 1 0 0 (.inl 64) 2 (.v 8)) .b256 false true),
    (80, 0x5B7FFE0FF8400007ACE3, .stG (lm 5 2 3 8191 (.s 7) 63 (.v 16)) .b512 true),
    (80, 0x2400038008100007C4E5, .ldS (lm 2 1 0 0 (.inl 64) 1 (.v 4)) .b32 false true),
    (80, 0x0000038008100007C6E7, .stS (lm 0 0 0 0 (.inl 64) 1 (.v 4)) .b64 true),
    (80, 0x008003800C10000790E9, .ldC (lm 0 0 0 8192 (.inl 64) 1 (.s 4)) .b8 true),
    (80, 0x000003800810000788EB, .ldF (lm 0 0 0 0 (.inl 64) 1 (.v 4)) .b128 false),
    (80, 0x010000064800000780ED, .pfG (lm 0 0 1 0 (.v 3) 9 (.v 0)))] = true := by
  decide +kernel

theorem test_decode_atomic : decodesAll [
    (80, 0x00000380101000078521, .atomAdd (lm 0 0 0 0 (.inl 64) 2 (.v 4)) ⟨.b32, false, false, false⟩),
    (80, 0x4800038010100007C723, .atomSub (lm 4 2 0 0 (.inl 64) 2 (.v 4)) ⟨.b64, false, false, true⟩),
    (80, 0x0000038010100007A525, .atomMin (lm 0 0 0 0 (.inl 64) 2 (.v 4)) ⟨.b32, false, true, false⟩),
    (80, 0x14000380101000079527, .atomMax (lm 1 1 0 0 (.inl 64) 2 (.v 4)) ⟨.b32, true, false, false⟩),
    (80, 0x00000380170C0007C529, .atomAnd (lm 0 0 0 0 (.inl 64) 2 (.inl 67)) ⟨.b32, false, false, true⟩),
    (80, 0x0000038010100007872B, .atomOr (lm 0 0 0 0 (.inl 64) 2 (.v 4)) ⟨.b64, false, false, false⟩),
    (80, 0x0000038010100007852D, .atomXor (lm 0 0 0 0 (.inl 64) 2 (.v 4)) ⟨.b32, false, false, false⟩),
    (80, 0x5C00038010100007892F, .atomExch (lm 5 3 0 0 (.inl 64) 2 (.v 4)) ⟨.b128, false, false, false⟩),
    (80, 0x00000380101000078531, .atomInc (lm 0 0 0 0 (.inl 64) 2 (.v 4)) ⟨.b32, false, false, false⟩),
    (80, 0x00000380101000078533, .atomDec (lm 0 0 0 0 (.inl 64) 2 (.v 4)) ⟨.b32, false, false, false⟩),
    (80, 0x00000380102000078935, .atomCas (lm 0 0 0 0 (.inl 64) 2 (.v 8)) ⟨.b128, false, false, false⟩),
    (80, 0x00000380101000079737, .loftAdd (lm 0 0 0 0 (.inl 64) 2 (.v 4)) ⟨true, true, false⟩),
    (80, 0x4800038010100007A539, .loftMin (lm 4 2 0 0 (.inl 64) 2 (.v 4)) ⟨false, false, true⟩),
    (80, 0x0000038014100007853B, .loftMax (lm 0 0 0 0 (.inl 64) 2 (.s 4)) ⟨false, false, false⟩),
    (80, 0x0000038010100007C73D, .loftCas (lm 0 0 0 0 (.inl 64) 2 (.v 4)) true true),
    (80, 0x0000038010100007953F, .loftSax (lm 0 0 0 0 (.inl 64) 2 (.v 4)) false)] = true := by
  decide +kernel

theorem test_decode_sync : decodesAll [
    (80, 0x4C000000000000078141, .fence (lm 4 3 0 0 (.v 0) 0 (.v 0))),
    (80, 0x18000000000000079141, .fenceCb (lm 1 2 0 0 (.v 0) 0 (.v 0))),
    (80, 0x000003800F1000078943, .barInit (lm 0 0 0 0 (.inl 64) 1 (.inl 68))),
    (80, 0x18000380081000078945, .barArrive (lm 1 2 0 0 (.inl 64) 1 (.v 4))),
    (80, 0x140003800C1000078947, .barWait (lm 1 1 0 0 (.inl 64) 1 (.s 4))),
    (80, 0x1C000380080000078949, .barSync (lm 1 3 0 0 (.inl 64) 1 (.v 0))),
    (80, 0x000003800C240007894B, .barExpect (lm 0 0 0 0 (.inl 64) 1 (.s 9))),
    (80, 0x0000038008000007894D, .barFree (lm 0 0 0 0 (.inl 64) 1 (.v 0))),
    (80, 0x4C000380081000078751, .semaTake (lm 4 3 0 0 (.inl 64) 1 (.v 4))),
    (80, 0x44000380081000078753, .semaWait (lm 4 1 0 0 (.inl 64) 1 (.v 4))),
    (80, 0x48000380080000078755, .semaGive (lm 4 2 0 0 (.inl 64) 1 (.v 0)))] = true := by
  decide +kernel

theorem test_decode_engine : decodesAll [
    (80, 0xA0A070C845640007AD61, .mmaStep (le 642 (.s 3) (.s 12) (.s 8) (.m 1)) .e2m1 false true),
    (80, 0x00800000000000078163, .mmaCommit (le 2 (.v 0) (.v 0) (.v 0) (.v 0))),
    (80, 0x00C00000001000079165, .mmaWait (le 3 (.v 0) (.v 0) (.v 0) (.v 4)) true),
    (80, 0xFE000000056800078367, .mmaZero (le 1016 (.v 0) (.v 0) (.v 0) (.m 2)) false),
    (80, 0x00400000056800078167, .mmaZeroFree (le 1 (.v 0) (.v 0) (.v 0) (.m 2))),
    (80, 0x2E013E08256C00079169, .mmaLd (le 184 (.v 9) (.inl 96) (.s 4) (.m 3)) true true),
    (80, 0x0020D058256C0007876B, .mmaSt (le 0 (.s 6) (.s 5) (.s 4) (.m 3)) .bf16 false),
    (80, 0x0000000AD8100007816D, .mmaProg (le 0 (.v 0) (.v 0) (.m 3) (.v 4))),
    (80, 0x80007028081000078181, .copy (le 512 (.v 3) (.s 2) (.s 1) (.v 4))),
    (80, 0x00001040180000078183, .cbufInit (le 0 (.v 0) (.s 4) (.v 3) (.v 0))),
    (80, 0x0000000E801000078185, .cbufTake (le 0 (.v 0) (.v 0) (.inl 80) (.v 4))),
    (80, 0x00000008280000078187, .cbufGive (le 0 (.v 0) (.v 0) (.s 5) (.v 0))),
    (80, 0x0000105E1D4800078191, .qbind (le 0 (.v 0) (.s 5) (.inl 67) (.q 2))),
    (80, 0x0000000A9C1000078193, .qstat (le 0 (.v 0) (.v 0) (.q 3) (.s 4))),
    (80, 0x00000008180000078195, .meterPost (le 0 (.v 0) (.v 0) (.s 3) (.v 0))),
    (80, 0x00000000400000078197, .expose (le 0 (.v 0) (.v 0) (.v 8) (.v 0)))] = true := by
  decide +kernel

theorem test_decode_task : decodesAll [
    (80, 0x0000106E2810000781A1, .spawn (le 0 (.v 0) (.s 6) (.inl 69) (.v 4))),
    (80, 0x800010608010000781A3, .post (le 512 (.v 0) (.s 6) (.v 16) (.v 4))),
    (80, 0xA000DC181800000781A5, .join (le 640 (.v 6) (.inl 65) (.s 3) (.v 0))),
    (80, 0x000000001800000781A7, .taskEnd (le 0 (.v 0) (.v 0) (.v 3) (.v 0))),
    (80, 0x9FC01C581810000781A9, .fragRead (le 639 (.v 0) (.inl 69) (.s 3) (.v 4))),
    (80, 0x442940501810000781AB, .fragWrite (le 272 (.p 6) (.v 5) (.v 3) (.v 4))),
    (80, 0x00001C101810000781AD, .fragResume (le 0 (.v 0) (.inl 65) (.v 3) (.v 4))),
    (80, 0x000010181C10000781AF, .fragKill (le 0 (.v 0) (.s 1) (.s 3) (.s 4))),
    (80, 0x000000081810000781B1, .fragList (le 0 (.v 0) (.v 0) (.s 3) (.v 4)))] = true := by
  decide +kernel

theorem test_decode_system : decodesAll [
    (80, 0x00400C000010000781C1, .sysr (li 4099 0 0 (.v 0) (.v 4))),
    (80, 0x00C084000414000781C1, .sysr (li 12321 0 0 (.v 0) (.s 5))),
    (80, 0x00C1C0000014000781C1, .hscountRead (li 12400 0 0 (.v 0) (.v 5))),
    (80, 0x00C0C0002000000781C3, .sysw (li 12336 0 0 (.v 4) (.v 0))),
    (80, 0x000028002800000781C3, .fpcrWrite (li 10 0 0 (.v 5) (.v 0))),
    (80, 0x00002C0E0000000781C3, .fpsrWrite (li 11 0 0 (.inl 64) (.v 0))),
    (80, 0x000108000000000781C5, .trap (li 66 0 0 (.v 0) (.v 0))),
    (80, 0x000000000010000781C7, .time (lr 0 0 0 (.v 0) (.v 0) (.v 0) (.v 4))),
    (80, 0x000000000410000781C9, .cycles (lr 0 0 0 (.v 0) (.v 0) (.v 0) (.s 4))),
    (80, 0x26209C300030000789CB, .rand (le 152 (.s 4) (.inl 67) (.v 0) (.v 12)) .f32),
    (80, 0x000000000000000781CD, .snap (lr 0 0 0 (.v 0) (.v 0) (.v 0) (.v 0)))] = true := by
  decide +kernel

/-! ### Ill-formed terms (02 R55) -/

/-- Check 0x02: imad.wide of a 64-bit type, a sign-extending 32-bit load, and MOD that ffma leaves undefined. -/
theorem test_wf_function : (Instr.imadWide (lr 0 0 0 (.v 8) (.v 6) (.v 4) (.v 2)) .i64).firstFailure = some 0x02 ∧
    (Instr.ldG (lm 0 0 0 0 (.inl 64) 2 (.v 4)) .b32 true false).firstFailure = some 0x02 ∧
    (decode 0x4020291247 0xD668105000).toOption = none := by decide +kernel
/-- Check 0x03: scope code 110, a branch of KIND 2, a tag number without its valid bit, bit 16 of trap's immediate. -/
theorem test_wf_reserved : (Instr.ldG (lm 6 1 0 0 (.inl 64) 2 (.v 4)) .b32 false false).firstFailure = some 0x03 ∧
    (Instr.bra ⟨hd, 2, .v 0, 6⟩).firstFailure = some 0x03 ∧
    (Instr.nop ⟨{ hd with tat := 1 }, 0, 0, 0, .v 0, .v 0, .v 0, .v 0⟩).firstFailure = some 0x03 ∧
    (Instr.trap (li 0x10000 0 0 (.v 0) (.v 0))).firstFailure = some 0x03 := by decide +kernel
/-- Check 0x04: the guards p12 and "never". -/
theorem test_wf_guard : (Instr.iaddShort ⟨false, false, false, 0, false, 12, 0, 0, .v 1, 1⟩).firstFailure = some 0x04 ∧
    (Instr.iaddShort ⟨false, false, false, 0, true, 15, 0, 0, .v 1, 1⟩).firstFailure = some 0x04 := by decide +kernel
/-- Check 0x05: an inline destination, an s destination of a 1 x 2 block, a queue register as an operand of iadd. -/
theorem test_wf_kind : (Instr.iadd (lr 0 0 0 (.v 0) (.v 2) (.v 1) (.inl 3)) .i32 false).firstFailure = some 0x05 ∧
    (Instr.iadd (lr 0 1 0 (.v 0) (.v 2) (.v 1) (.s 3)) .i32 false).firstFailure = some 0x05 ∧
    (Instr.iadd (lr 0 0 0 (.v 0) (.q 1) (.v 1) (.v 3)) .i32 false).firstFailure = some 0x05 := by decide +kernel
/-- Check 0x06: a block beyond v255, an odd pair, a predicate block beyond p11, qbind of an odd queue register. -/
theorem test_wf_block : (Instr.iadd (lr 0 1 0 (.v 0) (.v 2) (.v 1) (.v 255)) .i32 false).firstFailure = some 0x06 ∧
    (Instr.iadd (lr 0 0 0 (.v 0) (.v 2) (.v 4) (.v 7)) .i64 false).firstFailure = some 0x06 ∧
    (Instr.icmp (lr 0 3 0 (.v 0) (.v 8) (.v 4) (.p 9)) .i32 .eq).firstFailure = some 0x06 ∧
    (Instr.qbind (le 0 (.v 0) (.s 5) (.inl 67) (.q 3))).firstFailure = some 0x06 := by decide +kernel
/-- Check 0x07: an unused operand, TA on an add, CH on yield, WS on a store, acquire on a store. -/
theorem test_wf_fields : (Instr.iadd (lr 0 0 0 (.v 1) (.v 2) (.v 1) (.v 3)) .i32 false).firstFailure = some 0x07 ∧
    (Instr.iadd ⟨{ hd with tav := true }, 0, 0, 0, .v 0, .v 2, .v 1, .v 3⟩ .i32 false).firstFailure = some 0x07 ∧
    (Instr.yield ⟨{ hd with ch := true }, 0, 0, 0, .v 0, .v 0, .v 0, .v 0⟩).firstFailure = some 0x07 ∧
    (Instr.stG ⟨{ hd with ws := true }, 0, 0, 0, 0, .inl 64, 2, .v 4⟩ .b32 false).firstFailure = some 0x07 ∧
    (Instr.stG (lm 4 1 0 0 (.inl 64) 2 (.v 4)) .b32 false).firstFailure = some 0x07 := by decide +kernel
/-- Check 0x01: OP 0xF0 and 0x0AB name no instruction. -/
theorem test_wf_opcode : (decode 0x00000781E1 0).toOption = none ∧ (decode 0x0000078157 0).toOption = none := by decide +kernel

/-! ### A small machine -/

/-- A leaf that maps a page with read, write and execute (12 R294); `bits` are its kind and privilege. -/
def leaf (page : Nat) (bits : Nat) : DWord := BitVec.ofNat 64 (bits * 2 ^ 57 + page * 4096 + 0x73)

/-- Launch 7: a code window of 17 parcels at 0x40000, one gang member, a bank of 1,024 bytes. -/
def launch7 : Launch := { num := 7, record := BitVec.ofNat 512 (7 + 2 ^ 16 * 16 + 16 * 2 ^ 260 + 0x40 * 2 ^ 220 + 16 * 2 ^ 332 + 2 ^ 20) }

/-- A task of launch 7: one wave, 16 registers, 4 KiB of scratchpad, the frame at 0x1000. -/
def task7 : BitVec 512 := BitVec.ofNat 512 (7 * 2 ^ 48 + 4 * 2 ^ 84 + 0x1000 * 2 ^ 128)
def privTask7 : BitVec 512 := task7 ||| BitVec.ofNat 512 (2 ^ 71)

/-- The launch's pages in site A's TLB: 1 and 2 in LPDDR and in the general loft, 0x40 the code. -/
def tlb7 : List TlbEntry :=
  [⟨7, 1, 1, leaf 0x100 0, 0x200000, true⟩, ⟨7, 2, 1, leaf 0x10000000 0, 0x200008, true⟩, ⟨7, 0x40, 1, leaf 0x140 0, 0x200010, true⟩]

def crew7 : Crew := { core := 0, slot := 0, record := task7 }

/-- One wave of the crew with these v words (key 32 r + lane) and s registers. -/
def wave7 (v : SMap 32) (sr : SMap 64) : Wave := { newWave 0 0 0 0 0 0 sr with v := v }

/-- The machine in which that wave issues. -/
def world (v : SMap 32) (sr : SMap 64) : State :=
  { launches := [launch7], crews := [crew7], waves := [wave7 v sr], siteA := { tlb := tlb7 } }

/-- What an instruction leaves; a fault or a refusal leaves nothing here, so that no test can pass by it. -/
def after (i : Instr) (s : State) : Option State :=
  match exec i s with
  | .next t => some t
  | _ => none

/-- The wave after it. -/
def waveAfter (i : Instr) (s : State) : Option Wave := (after i s).bind fun t => t.wave? 0

/-- The v words of one lane, and the flags of its fpsr. -/
def gives (i : Instr) (v : SMap 32) (rs : List Nat) : Option (List Word) :=
  (waveAfter i (world v [])).map fun w => rs.map fun r => w.vreg r 0
def raises (i : Instr) (v : SMap 32) : Option Word := (waveAfter i (world v [])).map fun w => (w.lane 0).fpsr

/-- Lane 0 holds these words in v1, v2, ... . -/
def words (l : List Nat) : SMap 32 := SMap.setAll [] (l.mapIdx fun k x => (32 * (k + 1), BitVec.ofNat 32 x))

/-- An operation D = v8, A = v1, B = v2, C = v3. -/
def op3 : LR := lr 0 0 0 (.v 3) (.v 2) (.v 1) (.v 8)
def op2 : LR := lr 0 0 0 (.v 0) (.v 2) (.v 1) (.v 8)
def op1 : LR := lr 0 0 0 (.v 0) (.v 0) (.v 1) (.v 8)

/-! ### Results that the spec works out -/

/-- 04: iadd, iadd.sat, isub.sat.n32, imulh. -/
theorem test_arithmetic :
    gives (.iadd op2 .i32 false) (words [0x7FFFFFFF, 1]) [8] = some [0x80000000] ∧
    gives (.iadd op2 .i32 true) (words [0x7FFFFFFF, 1]) [8] = some [0x7FFFFFFF] ∧
    gives (.isub op2 .n32 true) (words [3, 5]) [8] = some [0] ∧
    gives (.imulh op2 .i32) (words [0x80000000, 0x80000000]) [8] = some [0x40000000] ∧
    gives (.imulh op2 .n32) (words [0xFFFFFFFF, 0xFFFFFFFF]) [8] = some [0xFFFFFFFE] ∧
    gives (.iaddLi (li 1000 3 0 (.v 1) (.v 1)) .i32 true) (words [0x7FFFFE00, 5, 6, 7]) [1, 2, 3, 4] =
      some [0x7FFFFFFF, 1005, 1006, 1007] := by decide +kernel
/-- 04: division truncates; a zero divisor without the trap; the most negative number by -1; absolute values. -/
theorem test_division :
    gives (.idiv op2 .i32) (words [0xFFFFFFF9, 2]) [8] = some [0xFFFFFFFD] ∧
    gives (.irem op2 .i32) (words [0xFFFFFFF9, 2]) [8] = some [0xFFFFFFFF] ∧
    gives (.idiv op2 .n32) (words [7, 0]) [8] = some [0xFFFFFFFF] ∧ gives (.irem op2 .i32) (words [7, 0]) [8] = some [7] ∧
    gives (.idiv op2 .i32) (words [0x80000000, 0xFFFFFFFF]) [8] = some [0x80000000] ∧
    gives (.irem op2 .i32) (words [0x80000000, 0xFFFFFFFF]) [8] = some [0] ∧
    gives (.iabs op1 .i32 false) (words [0x80000000]) [8] = some [0x80000000] ∧
    gives (.iabs op1 .i32 true) (words [0x80000000]) [8] = some [0x7FFFFFFF] := by decide +kernel
/-- 04: shift counts of the width and more, the two funnel shifts, bfe of both signs. -/
theorem test_shifts_and_fields :
    gives (.shl op2 .i32) (words [0x12345678, 32]) [8] = some [0] ∧
    gives (.shl (lr 0 0 0 (.v 0) (.inl 63) (.v 1) (.v 8)) .i32) (words [0x12345678]) [8] = some [0] ∧
    gives (.sra op2 .i32) (words [0x80000000, 40]) [8] = some [0xFFFFFFFF] ∧
    gives (.shf op3 .i32 false) (words [0x12345678, 0x9ABCDEF0, 8]) [8] = some [0x3456789A] ∧
    gives (.shf op3 .i32 true) (words [0x80000000, 0, 40]) [8] = some [0x00800000] ∧
    gives (.bfe op2 .i32) (words [0xF0, 0x0404]) [8] = some [0xFFFFFFFF] ∧
    gives (.bfe op2 .n32) (words [0xF0, 0x0404]) [8] = some [0xF] := by decide +kernel
/-- 05: infinities of both signs, a signalling NaN's quiet form, zeros of both signs, a NaN that wins, signs of NaNs. -/
theorem test_float_corners :
    gives (.fadd op2 .f32 .rne) (words [0x7F800000, 0xFF800000]) [8] = some [0x7FC00000] ∧
    raises (.fadd op2 .f32 .rne) (words [0x7F800000, 0xFF800000]) = some 1 ∧
    gives (.fsub op2 .f32 .rne) (words [0x3F800000, 0x7FC00001]) [8] = some [0x7FC00001] ∧
    gives (.fmin op2 .f32) (words [0, 0x80000000]) [8] = some [0x80000000] ∧
    gives (.fmax op2 .f32) (words [0, 0x80000000]) [8] = some [0] ∧
    gives (.fminx op2 .f32) (words [0x7FC00005, 0x40400000]) [8] = some [0x7FC00005] ∧
    gives (.fneg op1 .f32) (words [0x7F800001]) [8] = some [0xFF800001] ∧
    raises (.fneg op1 .f32) (words [0x7F800001]) = some 0 ∧
    gives (.fdiv op2 .f32 .rne) (words [0x3F800000, 0x80000000]) [8] = some [0xFF800000] ∧
    gives (.fclass op1 .f16x2) (words [0x7C008001]) [8] = some [0x02000010] := by decide +kernel
/-- 03 R72: ties and overflow in the five modes, 1 + 2^-24 and -(1 + 2^-23 + 2^-24); 05: frint and fgetexp. -/
theorem test_float_modes :
    [Rm.rne, .rtz, .rup, .rdn, .rna].map (fun m => gives (.fadd op2 .f32 m) (words [0x3F800000, 0x33800000]) [8]) =
      [some [0x3F800000], some [0x3F800000], some [0x3F800001], some [0x3F800000], some [0x3F800001]] ∧
    [Rm.rne, .rtz, .rup, .rdn, .rna].map (fun m => gives (.fsub op2 .f32 m) (words [0xBF800001, 0x33800000]) [8]) =
      [some [0xBF800002], some [0xBF800001], some [0xBF800001], some [0xBF800002], some [0xBF800002]] ∧
    [Rm.rne, .rtz, .rup, .rdn, .rna].map (fun m => gives (.fmul op2 .f32 m) (words [0x7F000000, 0x40000000]) [8]) =
      [some [0x7F800000], some [0x7F7FFFFF], some [0x7F800000], some [0x7F7FFFFF], some [0x7F800000]] ∧
    gives (.frint op1 .f32 .rne false) (words [0xBF000000]) [8] = some [0x80000000] ∧
    gives (.frint op1 .f32 .rne true) (words [0x40200000]) [8] = some [0x40000000] ∧
    gives (.fgetexp op1 .f32) (words [1]) [8] = some [0xC3150000] := by decide +kernel
/-- 05: the worked cvt.sat of four values, with the flags it raises; cvt of -1 to n8; NaNs between formats. -/
theorem test_conversions :
    gives (.cvt (lr 0 3 0 (.v 0) (.v 0) (.v 1) (.v 10)) .rne true .e4m3 .f32)
      (words [0x3F800000, 0x43FA0000, 0x3C23D70A, 0xFFC00000]) [10, 11, 12, 13] = some [0x38, 0x7E, 0x05, 0xFF] ∧
    raises (.cvt (lr 0 3 0 (.v 0) (.v 0) (.v 1) (.v 10)) .rne true .e4m3 .f32)
      (words [0x3F800000, 0x43FA0000, 0x3C23D70A, 0xFFC00000]) = some 0x1C ∧
    gives (.cvt op1 .dyn false .n8 .i32) (words [0xFFFFFFFF]) [8] = some [0xFF] ∧
    gives (.cvt op1 .dyn true .n8 .i32) (words [0xFFFFFFFF]) [8] = some [0] ∧
    gives (.cvt op1 .dyn false .f32 .e4m3) (words [0x7F]) [8] = some [0x7FF00000] ∧
    gives (.cvt op1 .dyn false .f16 .f32) (words [0xFFC01234]) [8] = some [0xFE00] ∧
    gives (.cvt op1 .dyn false .f32 .f32) (words [0x7F800001]) [8] = some [0x7FC00001] := by decide +kernel
/-- 05 R142: the worked mxq of 5.0, -1.25 and about 0.3 among zeros. -/
theorem test_mxq :
    (waveAfter (.mxq (lr 0 7 3 (.v 0) (.v 8) (.v 32) (.v 4)) .rne)
      (world [(1024, 0x40A00000), (1056, 0xBFA00000), (1088, 0x3E99999A)] [])).map
      (fun w => ([4, 5, 6, 7, 8].map (fun r => w.vreg r 0), (w.lane 0).fpsr)) = some ([0x1A6, 0, 0, 0, 0x7F], 0x10) := by
  decide +kernel
/-- 03 R82-R84: the worked wred.add and wscan.add of four executing lanes; the other lanes stand at another PC. -/
theorem test_reductions :
    let v : SMap 32 := [(32, 0x3F800000), (33, 0x33800000), (34, 0x33800000), (35, 0x33800000)]
    let w : Wave := { wave7 v [] with lanes := List.replicate 4 {} ++ List.replicate 28 { pc := 9 } }
    let s : State := { world [] [] with waves := [w] }
    (waveAfter (.wred (lr 0 0 0 (.v 0) (.v 0) (.v 1) (.v 8)) .add (.fp .f32)) s).map (fun w => w.vreg 8 2) = some 0x3F800001 ∧
    (waveAfter (.wscan (lr 0 0 0 (.v 0) (.v 0) (.v 1) (.v 8)) .add (.fp .f32) false) s).map
      (fun w => [0, 1, 2, 3, 4].map fun l => w.vreg 8 l) =
      some [0x3F800000, 0x3F800000, 0x3F800001, 0x3F800001, 0] := by decide +kernel
/-- 04: the worked ballot, shfl.down and lane.first with lanes 5 and 6 elsewhere. -/
theorem test_lane_crossing :
    let v : SMap 32 := (List.range 32).map fun l => (32 + l, BitVec.ofNat 32 (l + 1))
    let w : Wave := { wave7 v [] with lanes := (List.range 32).map fun l => if l = 5 || l = 6 then { pc := 9 } else { preds := 1 } }
    let s : State := { world [] [] with waves := [w] }
    let at_ (i : Instr) (l : Nat) : Option Word := (waveAfter i s).map fun w => w.vreg 8 l
    at_ (.ballot (lr 0 0 0 (.v 0) (.v 0) (.p 0) (.v 8)) false) 4 = some 0xFFFFFF9F ∧
    at_ (.shfl (lr 0 0 0 (.v 1) (.inl 65) (.v 1) (.v 8)) .down false 0) 3 = some 5 ∧
    at_ (.shfl (lr 0 0 0 (.v 1) (.inl 65) (.v 1) (.v 8)) .down false 0) 4 = some 5 ∧
    at_ (.shfl (lr 0 0 0 (.v 1) (.inl 65) (.v 1) (.v 8)) .down false 0) 31 = some 32 ∧
    (waveAfter (.wred (lr 0 0 0 (.v 0) (.v 0) (.v 1) (.s 8)) .add (.int .n32)) s).map (fun w => w.sreg 8) = some 0x203 ∧
    at_ (.laneFirst (lr 0 0 0 (.v 0) (.v 0) (.v 1) (.v 8))) 9 = some 1 := by decide +kernel
/-- 06: the worked bra and call, in the lanes whose guard is true. -/
theorem test_branches :
    let w : Wave := { wave7 [] [] with lanes := (List.range 32).map fun l => { pc := 0x200, preds := if l = 3 then 1 else 0 } }
    let s : State := { world [] [] with waves := [w] }
    (waveAfter (.bra ⟨{ hd with gp := 0 }, 0, .v 0, 6⟩) s).map (fun w => ((w.lane 2).pc, (w.lane 3).pc)) = some (0x202, 0x206) ∧
    (waveAfter (.call ⟨hd, 0, .v 200, 0xFFFFFFC0⟩) s).map (fun w => ((w.lane 2).pc, w.vreg 200 2)) = some (0x1C0, 0x202) := by
  decide +kernel
/-- 08: the worked rand of four draws with seed 0, and the lane's counter after it; 09: sysr of lane.id. -/
theorem test_draws_and_registers :
    let i : Instr := .rand (le 0x18 (.v 0) (.v 0) (.v 0) (.v 12)) .f32
    (waveAfter i (world [] [])).map (fun w => (w.vreg 12 0, (w.lane 0).draws0, (w.lane 0).draws1)) = some (0x3ECC4FD0, 4, 0) ∧
    (waveAfter (.rand (le 0 (.v 0) (.v 0) (.v 0) (.v 12)) .n32) (world [] [])).map (fun w => w.vreg 12 0) = some 0x6627E8D5 ∧
    (waveAfter (.sysr (li 0 0 0 (.v 0) (.v 1))) (world [] [])).map (fun w => (w.vreg 1 0, w.vreg 1 31)) = some (0, 31) := by
  decide +kernel
/-- 08: trap 0x42 parks every lane in the core's first entry, with CODE 0x40 and the immediate as DETAIL. -/
theorem test_trap :
    (after (.trap (li 0x42 0 0 (.v 0) (.v 0))) (world [] [])).map (fun t =>
      let b := (t.core 0).bivouac.getD 0 {}
      (b.code, b.detail, b.insn, (t.wave? 0).map fun w => (w.lane 31).life)) =
    some (0x40, 0x42, 0x000108000000000781C5, some .parked) := by decide +kernel
/-- 09, issue 4: ffma with nowb leaves v3 alone and puts the sum in b1. -/
theorem test_nowb_fills_the_latch :
    let fma : Instr := .ffma ⟨{ hd with tc := 3, ch := true, ws := true }, 0, 0, 0, .v 3, .s 2, .v 2, .v 3⟩ .f32 .dyn
    (waveAfter fma (world [(69, 0x40A00000), (101, 0x43828000)] [(2, 0x3FC00000)])).map
      (fun w => (w.vreg 3 5, SMap.get (w.latches.getD 0 {}).elems 5)) = some (0x43828000, 0x43864000) := by decide +kernel
/-- 09, issue 7: the store takes b3 of its lane, at s1 + 4 i - 128. -/
theorem test_store_of_a_latch :
    let b3 : Latch := { empty := false, count := 1, elems := [(5, 0x43864000)] }
    let w : Wave := { wave7 [(37, 37)] [(1, 0x1100)] with
      latches := [{}, {}, b3, {}], chain := true, lanes := (List.range 32).map fun l => if l = 5 then {} else { life := .exited } }
    (after (.stG (lm 0 0 2 0x3F80 (.v 1) 1 (.b 2)) .b32 false) { world [] [] with waves := [w] }).map
      (fun t => t.inflight.map fun x => (x.pa, x.data)) = some [(0x100114, [0x00, 0x40, 0x86, 0x43])] := by decide +kernel
/-- 06: the object after bar.init of 64 lanes; an arrival counts in bits 31:16 and returns the phase. -/
theorem test_barrier_objects :
    (after (.barInit (lm 0 0 0 0 (.inl 64) 1 (.s 2))) (world [] [(1, 0x80), (2, 64)])).bind
      (fun t => (t.crew? 0).map fun c => (c.barWord 0x80).toNat) = some 0x40 ∧
    (let c : Crew := { crew7 with scratch := [(0x80, 0x40), (0x8A, 1)], bars := [{ off := 0x80, cbuf := false }] }
     (after (.barArrive (lm 0 0 0 0 (.inl 64) 1 (.v 4))) { world [] [(1, 0x80)] with crews := [c] }).map
      (fun t => ((t.crew? 0).map fun c => (c.barWord 0x80).toNat, (t.wave? 0).map fun w => w.vreg 4 31)) =
      some (some 0x00000000000100000000000000200040, some 1)) := by decide +kernel
/-- 06 R163: lanes act in ascending order, each on what the one before it left. -/
theorem test_atomics_in_turn :
    let w : Wave := { wave7 [(32, 5), (33, 7)] [(1, 0x2040)] with lanes := (List.range 32).map fun l => if l < 2 then {} else { life := .exited } }
    let s : State := { world [] [] with waves := [w], mem := [(0x010000000040, 0x10)] }
    (after (.atomAdd (lm 0 0 0 0 (.inl 64) 1 (.v 1)) ⟨.b32, false, false, false⟩) s).map
      (fun t => (t.homeByte 0x010000000040, (t.wave? 0).map fun w => (w.vreg 1 0, w.vreg 1 1))) =
      some (0x1C, some (0x10, 0x15)) := by decide +kernel
/-- 12 R297: a load from a page whose top-level entry is not valid parks its lanes for the controller, with level 3, cause 1. -/
theorem test_page_fault :
    (after (.ldG (lm 0 0 0 0 (.inl 64) 1 (.v 4)) .b32 false false) (world [] [(1, 0x9000)])).map (fun t =>
      let b := (t.core 0).bivouac.getD 0 {}
      (b.state, b.code, b.detail, b.lanes.length)) = some (.controller, 0x05, 0x3001, 32) := by decide +kernel
/-- 02 R31: a byte of the window that changes while the launch runs marks it, a byte beside the window does not, and a marked
launch fetches a free value. -/
theorem test_modified_code :
    let s := State.reset.withFetchWord 80 0x000000000000000781CD
    ((s.noteCode (s.pokeHome (placedBase + 5) [1])).launches.map (·.codeFree)) = [true] ∧
    ((s.noteCode (s.pokeHome (placedBase + 5 * 0x100000) [1])).launches.map (·.codeFree)) = [false] ∧
    ((s.noteCode ({ s with crews := [] }.pokeHome (placedBase + 5) [1])).launches.map (·.codeFree)) = [false] ∧
    (s.launches.map fun l => (s.fetchParcel 0 { core := 0, slot := 0, record := placedRecord } { l with codeFree := true } 0).1.fresh) =
      [s.fresh + 1] := by
  decide +kernel
/-- 02 R30: step runs the word at the pc that withFetchWord places: snap as the first instruction after reset. -/
theorem test_first_instruction :
    (match step (State.reset.withFetchWord 80 0x000000000000000781CD) with
      | .next t => (t.wave? t.cur).map fun w => (w.lane 0).pc
      | _ => none) = some 2 := by decide +kernel

/-! ### Witnesses: states and operands that meet the hypotheses of the statements

Each `witness_<Statement>` shows one state for the hypotheses of that statement, clause by clause. -/

def issuesB (i : Instr) (s : State) (w : Wave) : Bool :=
  decide (s.wave? s.cur = some w) && decide (w.settled.issueSet ≠ []) && w.settled.tagsReady (instrHead i) &&
    w.settled.issueSet.all fun l => ((w.settled.atIssue (instrHead i)).lane l).poison == none
theorem issues_of {i : Instr} {s : State} {w : Wave} (h : issuesB i s w = true) : Issues i s w := by
  simp only [issuesB, Bool.and_eq_true, decide_eq_true_eq, List.all_eq_true, beq_iff_eq] at h
  exact ⟨h.1.1.1, h.1.1.2, h.1.2, h.2⟩

def readyB (i : Issue) (c : Crew) : Bool :=
  decide (i.s.crew? i.w.crew = some c) && ((List.range 9).all fun k =>
    match i.w.pendingAt k with
    | some p => p.loads.isEmpty
    | none => true) && (i.s.core i.w.core).sideLog.isEmpty
theorem ready_of {i : Issue} {c : Crew} (h : readyB i c = true) : Ready i c := by
  simp only [readyB, Bool.and_eq_true, decide_eq_true_eq, List.all_eq_true, List.mem_range, List.isEmpty_iff] at h
  refine ⟨h.1.1, fun k hk p hp => ?_, h.2⟩
  have := h.1.2 k hk
  simpa [hp] using this

def mappedB (i : Issue) (c : Crew) (need : Need) (n : Nat) (va : DWord) (pa : Nat) (kind : PKind) : Bool :=
  decide (va.toNat < 2 ^ 52) && decide (va.toNat % n = 0) &&
    (!need.w || !meet va.toNat n (i.s.codeWindow c.launch).1 (i.s.codeWindow c.launch).2) &&
    (match (i.s.site (i.w.core / 96)).tlb.find? fun t => t.maps c.launch va.toNat with
      | some t => decide (i.s.xlatOf t va.toNat = .ok pa kind t.leaf) && !denies t.leaf c.priv need && (!need.w || t.dirty)
      | none => false) && isMemory pa
theorem mapped_of {i : Issue} {c : Crew} {need : Need} {n : Nat} {va : DWord} {pa : Nat} {kind : PKind}
    (h : mappedB i c need n va pa kind = true) : Mapped i c need n va pa kind := by
  simp only [mappedB, Bool.and_eq_true, decide_eq_true_eq, Bool.or_eq_true, Bool.not_eq_true'] at h
  obtain ⟨⟨⟨⟨h1, h2⟩, h3⟩, h4⟩, h5⟩ := h
  refine ⟨h1, h2, fun hw => ?_, ?_, h5⟩
  · rcases h3 with h3 | h3
    · rw [hw] at h3; cases h3
    · exact h3
  · revert h4
    split
    · rename_i t ht
      intro h4
      simp only [Bool.and_eq_true, decide_eq_true_eq, Bool.or_eq_true, Bool.not_eq_true'] at h4
      refine ⟨t, ht, h4.1.1, h4.1.2, fun hw => ?_⟩
      rcases h4.2 with h6 | h6
      · rw [hw] at h6; cases h6
      · exact h6
    · intro h4; cases h4

def scratchB (i : Issue) (c : Crew) (n : Nat) (a : DWord) (wr : Bool) : Bool :=
  decide ((a.extractLsb' 0 32).toNat < c.scratchBytes) && decide ((a.extractLsb' 0 32).toNat % n = 0) &&
    (!wr || (!i.s.armed c (a.extractLsb' 0 32).toNat n && !c.tagged (a.extractLsb' 0 32).toNat n))
theorem scratch_of {i : Issue} {c : Crew} {n : Nat} {a : DWord} {wr : Bool} (h : scratchB i c n a wr = true) :
    OwnScratch i c n a wr := by
  simp only [scratchB, Bool.and_eq_true, decide_eq_true_eq, Bool.or_eq_true, Bool.not_eq_true'] at h
  refine ⟨h.1.1, h.1.2, fun hw => ?_⟩
  rcases h.2 with h' | h'
  · rw [hw] at h'; cases h'
  · exact h'

def calmB (i : Issue) (c : Crew) : Bool :=
  readyB i c && (i.s.inflight.isEmpty && i.s.flows.isEmpty && i.s.linkOpen && i.s.siteA.neg.rings.isEmpty &&
    i.s.siteB.neg.rings.isEmpty)
theorem calm_of {i : Issue} {c : Crew} (h : calmB i c = true) : Calm i c := by
  simp only [calmB, Bool.and_eq_true, List.isEmpty_iff] at h
  obtain ⟨hr, h⟩ := h
  refine ⟨ready_of hr, h.1.1.1.1, h.1.1.1.2, h.1.1.2, fun x _ r hm => ?_⟩
  have : (i.s.site x).neg.rings = [] := by
    unfold State.site; split
    · exact h.1.2
    · exact h.2
  rw [this] at hm; cases hm

def unitB (s : State) (site launch va n : Nat) (priv : Bool) (need : Need) (pa : Nat) : Bool :=
  decide (va < 2 ^ 52) && decide (va % n = 0) &&
    (match (s.site site).tlb.find? fun t => t.maps launch va with
      | some t => decide (s.xlatOf t va = .ok pa (leafKind t.leaf) t.leaf) && !denies t.leaf priv need && (!need.w || t.dirty)
      | none => false) && isMemory pa && s.badLines.isEmpty && decide (Config.homeSite pa = some site)
theorem unit_of {s : State} {site launch va n : Nat} {priv : Bool} {need : Need} {pa : Nat}
    (h : unitB s site launch va n priv need pa = true) : UnitMapped s site launch va n priv need pa := by
  simp only [unitB, Bool.and_eq_true, decide_eq_true_eq, List.isEmpty_iff] at h
  obtain ⟨⟨⟨⟨⟨h1, h2⟩, h3⟩, h4⟩, h5⟩, h6⟩ := h
  refine ⟨h1, h2, ?_, h4, h5, h6⟩
  revert h3
  split
  · rename_i t ht
    intro h3
    simp only [Bool.and_eq_true, decide_eq_true_eq, Bool.or_eq_true, Bool.not_eq_true'] at h3
    refine ⟨t, _, ht, h3.1.1, h3.1.2, fun hw => ?_⟩
    rcases h3.2 with h7 | h7
    · rw [hw] at h7; cases h7
    · exact h7
  · intro h3; cases h3

/-- What an operand that is no latch supplies. -/
def supply (i : Issue) (e : Ext) (t : OpTy) (x : Sel) (l k : Nat) : DWord :=
  match readSrc i.w e l k t x with
  | .ok v => v
  | .error _ => 0

theorem supplies_of {i : Issue} {e : Ext} {t : OpTy} {x : Sel} (h : ∀ b, x ≠ .b b) : Supplies i e t x (supply i e t x) := by
  intro l _ k _ _
  unfold supply readSrc
  cases x <;> first | rfl | (exact absurd rfl (h _))

/-- The machine with v0 holding 4 x lane, v1 holding lane + 1 and the s registers of most witnesses: s0 in page 1, s1 in the
general loft, s2 in the scratchpad. -/
def vBase : SMap 32 := (List.range 32).tail.map (fun l => (l, BitVec.ofNat 32 (4 * l))) ++
  (List.range 32).map (fun l => (32 + l, BitVec.ofNat 32 (l + 1)))
def sBase : SMap 64 := [(0, 0x1000), (1, 0x2000), (2, 0x100)]
def base : State := world vBase sBase
def wave : Wave := wave7 vBase sBase

/-- Each instruction of the list issues in that machine, with v operands that can be read and no enabled exception. -/
def Readable (l : List Instr) : Prop := ∀ i ∈ l, Issues i base wave ∧
  (∀ e t r, Supplies (issueOf i base wave) e t (.v r) (supply (issueOf i base wave) e t (.v r))) ∧
  (∀ e f, NoFpTrap (issueOf i base wave) e f) ∧ (issueOf i base wave).first = 0
theorem readable_of {l : List Instr} (h : (l.all fun i => issuesB i base wave && decide ((issueOf i base wave).w.fpcr = 0) &&
    decide ((issueOf i base wave).first = 0)) = true) : Readable l := by
  intro i hi
  have := List.all_eq_true.mp h i hi
  simp only [Bool.and_eq_true, decide_eq_true_eq] at this
  refine ⟨issues_of this.1.1, fun e t r => supplies_of (by simp), fun e f l _ k _ _ => ?_, this.2⟩
  have hz : ∀ fl : Flags, fpTrapCode 0 fl = none := by decide
  rw [this.1.2]; exact hz _

theorem mappedAll {i : Issue} {c : Crew} {need : Need} {n : Nat} {va : Nat → DWord} {pa : Nat → Nat} {kind : Nat → PKind} {ls : List Nat}
    (h : (ls.all fun l => mappedB i c need n (va l) (pa l) (kind l)) = true) :
    ∀ l ∈ ls, Mapped i c need n (va l) (pa l) (kind l) := fun l hl => mapped_of (List.all_eq_true.mp h l hl)
theorem scratchAll {i : Issue} {c : Crew} {n : Nat} {a : Nat → DWord} {wr : Bool} {ls : List Nat}
    (h : (ls.all fun l => scratchB i c n (a l) wr) = true) : ∀ l ∈ ls, OwnScratch i c n (a l) wr :=
  fun l hl => scratch_of (List.all_eq_true.mp h l hl)

/-- The same machine with lane 3 alone live. -/
def waveOne (v : SMap 32) (sr : SMap 64) : Wave :=
  { wave7 v sr with lanes := (List.range 32).map fun l => if l = 3 then {} else { life := .exited } }
def baseOne (v : SMap 32) (sr : SMap 64) : State := { base with waves := [waveOne v sr] }

theorem witness_EncodedInstructionsDecode : (Instr.ffma op3 .f32 .rne).WellFormed = true ∧ encode (.ffma op3 .f32 .rne) ≠ .none := by
  decide +kernel
/-- No instruction has the OP 0xFF. -/
theorem noOp_FF (i : Instr) : (match i.parts with
    | .lr _ op _ _ _ => op | .cvt .. => 0x50 | .li _ op _ _ => op | .lk _ op _ _ => op | .lm _ op _ _ => op | .lb _ op _ _ => op
    | .le _ op _ _ => op | .sh .. => 0 | .step => 0) ≠ (0xFF : BitVec 8) := by
  cases i <;> first | (simp only [Instr.parts]; decide) | (rename_i x; cases x <;> (simp only [Instr.parts]; decide))
theorem unassigned_FF (i : Instr) (u : LongWord) (h : encode i = .long u) : longOp u ≠ 0xFF := by
  have := noOp_FF i
  unfold encode at h
  split at h <;> first
    | (cases h; simp_all [Laws.longOp_append])
    | cases h
theorem witness_DecodedParcelsEncode : (∃ i, decode 0x00F0000000 0 = .ok i) ∧ (∃ i, decode 0x4020291247 0x1668105000 = .ok i) ∧
    (∃ d, decode 0x00000001FF 0 = .error d) ∧ isLong 0x00000001FF = true ∧ longOp ((0 : Parcel) ++ (0x00000001FF : Parcel)) = 0xFF ∧
    (∀ i : Instr, i.WellFormed = true → ∀ u, encode i = .long u → longOp u ≠ longOp ((0 : Parcel) ++ (0x00000001FF : Parcel))) ∧
    (isLong 0x8000000000 = false ∧ (0x8000000000 : Parcel).getLsbD 39 = true) ∧
    (isLong 0x0000078003 = true ∧ longOp ((0 : Parcel) ++ (0x0000078003 : Parcel)) = 0x01 ∧
      ((0 : Parcel) ++ (0x0000078003 : Parcel)).getLsbD 14 = false) :=
  ⟨⟨_, rfl⟩, ⟨_, rfl⟩, ⟨_, rfl⟩, by decide, by decide, fun i _ u h => unassigned_FF i u h, by decide, by decide⟩
/-- The wave finds snap, an unassigned OP, and no parcel at all beyond the window of 17; and a move of the agenda. -/
def coded (bytes : Memory) (pc : Word) : State :=
  { base with mem := bytes, waves := [{ wave with lanes := List.replicate 32 { pc := pc } }] }
def snapCode : State := coded [(0x140000, 0xCD), (0x140001, 0x81), (0x140002, 0x07)] 0
def badCode : State := coded [(0x140000, 0xE1), (0x140001, 0x81), (0x140002, 0x07)] 0
/-- The code's page lies on the other site, behind a pause or a link that trains. -/
def farCode (ls : LinkState) : State := { coded [] 0 with
  pause := ls = .active, linkState := ls, siteA := { tlb := [⟨7, 0x40, 1, leaf 0x6000000 0, 0x200010, true⟩] } }
/-- A time trigger stands armed for time 0. -/
def dueState : State := { State.reset with snapCtl := 9 }
/-- Two waves of a quarter: the second is urgent and has issued last. -/
def rivals : State := { base with issues := 9, waves := [{ wave with lastIssue := 3 }, { wave with urgent := true, slot := 4, lastIssue := 8 }] }
theorem witness_StepRunsTheDecodedInstruction :
    (∀ s ∈ [snapCode, badCode, coded [] 16, coded [] 17], s.prepare.agenda = [] ∧ s.prepare.alarm = false ∧ s.prepare.snapDue = false ∧
      s.prepare.wavesTurn = true ∧ ∃ w pc, s.prepare.pick = some w ∧ w.settled.minPc w.settled.eligibleLanes = some pc ∧ pc = (w.lane 0).pc) ∧
    (match (({ snapCode.prepare with cur := 0, turn := 1 } : State).fetch wave 0).2 with
      | .ok p0 p1 => (decode p0 p1).toOption.isSome
      | _ => false) = true ∧
    (match (({ badCode.prepare with cur := 0, turn := 1 } : State).fetch wave 0).2 with
      | .ok p0 p1 => (decode p0 p1).toOption.isNone
      | _ => false) = true ∧
    (match (({ (coded [] 17).prepare with cur := 0, turn := 1 } : State).fetch wave 17).2 with
      | .trap .. => true
      | _ => false) = true ∧
    ([(LinkState.active, false), (.training, true)].all fun (q : LinkState × Bool) =>
      let s := (farCode q.1).prepare
      (s.pick.any fun w => w.settled.minPc w.settled.eligibleLanes = some 0) && s.numbers == q.2 && s.wavesTurn && !s.snapDue &&
        match (({ s with cur := 0, turn := 1 } : State).fetch wave 0).2 with
        | .far => true
        | _ => false) = true ∧
    (({ State.reset with agenda := [.linkPaused] } : State).prepare.agenda = [.linkPaused] ∧ (Instr.linkPaused).parts = .step ∧
      ({ State.reset with agenda := [.linkPaused] } : State).prepare.alarm = false ∧
      ({ State.reset with agenda := [.linkPaused] } : State).prepare.snapDue = false) ∧
    (dueState.prepare.alarm = false ∧ dueState.prepare.snapDue = true) ∧
    (∃ w, rivals.pick = some w ∧ ∃ u ∈ rivals.waves, u.key ≠ w.key ∧ u.core = w.core ∧ u.quarter = w.quarter ∧
      u.settled.eligibleLanes ≠ [] ∧ u.key ∉ rivals.held ∧ rivals.chainedWave w.core w.quarter = none ∧ u.slot < 128 ∧ w.slot < 128 ∧
      u.lastIssue ≤ rivals.issues ∧ w.lastIssue ≤ rivals.issues) ∧
    (wave.lanes.length = 32 ∧ wave.minPc wave.eligibleLanes = some 0 ∧ wave.rejoins = []) := by
  refine ⟨?_, by decide +kernel, by decide +kernel, by decide +kernel, by decide +kernel, by decide +kernel, ⟨by decide +kernel, ?_⟩, ?_, by decide +kernel⟩
  rotate_left
  · have h : dueState.prepare.snapCtl = 9 ∧
        dueState.prepare.snapTime = 0 := by decide +kernel
    unfold State.snapDue State.snapArmed State.snapTim
    rw [h.1, h.2]
    simp
  · exact ⟨{ wave with urgent := true, slot := 4, lastIssue := 8 }, by decide +kernel, { wave with lastIssue := 3 }, List.mem_cons_self, by decide +kernel, by decide, by decide, by decide +kernel,
    by decide, by decide +kernel, by decide, by decide, by decide, by decide⟩
  have h : ∀ s ∈ [snapCode, badCode, coded [] 16, coded [] 17], s.prepare.agenda = [] ∧ s.prepare.alarm = false ∧
    s.prepare.snapDue = false ∧ s.prepare.wavesTurn = true ∧ ((s.prepare.pick.bind fun w => w.settled.minPc w.settled.eligibleLanes) =
      (s.prepare.pick.map fun w => (w.lane 0).pc) ∧ s.prepare.pick.isSome = true) := by decide +kernel
  intro s hs
  obtain ⟨h1, h2, h0, h3, h4, h5⟩ := h s hs
  refine ⟨h1, h2, h0, h3, ?_⟩
  obtain ⟨w, hw⟩ := Option.isSome_iff_exists.mp h5
  rw [hw] at h4
  exact ⟨w, _, hw, h4, rfl⟩
theorem witness_StepKeepsMemoryCanonical : State.reset.Canonical ∧ ∃ t, step State.reset = .next t := by
  refine ⟨rfl, ?_⟩
  have h : (match step State.reset with
    | .next _ => true
    | _ => false) = true := by decide +kernel
  revert h
  split
  · rename_i t ht; exact fun _ => ⟨t, ht⟩
  · intro h; cases h
theorem witness_MapsHoldWhatWasWritten : SMap.wf (w := 8) [(3, 7), (5, 1)] = true ∧ SMap.wf (w := 8) [] = true ∧ base.Shaped := by
  refine ⟨by decide, by decide, ?_⟩
  have hs : Site.Shaped {} := ⟨by decide, by decide, by decide, by decide, by decide⟩
  have hw : wave.Shaped := ⟨by decide, by decide, by decide, by decide, by decide, by decide +kernel, by decide +kernel, by decide, by decide⟩
  exact ⟨by decide +kernel, by decide +kernel, by decide +kernel, by decide +kernel, ⟨by decide, by decide, by decide, by decide, by decide⟩, hs,
    by decide, (fun w h => by cases h with | head => exact hw | tail _ h => cases h), (fun c h => by cases h with | head => exact ⟨by decide, by decide, by decide⟩ | tail _ h => cases h),
    by decide +kernel, by decide +kernel, by decide +kernel, by simp [base, world]⟩
def tagged : Wave := { wave with tags := some { engine := some 3 } :: List.replicate 7 none }
theorem witness_IssueWaitsForTags : (Instr.iadd op2 .i32 false).parts ≠ .step ∧ State.reset.wave? State.reset.cur = none ∧
    ({ base with waves := [tagged] } : State).wave? 0 = some tagged ∧ tagged.settled.issueSet ≠ [] ∧
    tagged.settled.tagsReady (instrHead (.iadd { op2 with h := { hd with tc := 1 } } .i32 false)) = false :=
  ⟨by decide +kernel, by decide +kernel, by decide +kernel, by decide +kernel, by decide +kernel⟩
theorem witness_RetiringAnIssue : let i : Instr := .iadd op2 .i32 false
    Issues i base wave ∧ wave.lanes.length = 32 ∧ (∀ e : Eff, e = { s := base } → e.traps = [] ∧ e.pend = none ∧ e.held = []) ∧
      ∃ w1, (issueOf i base wave).s.wave? base.cur = some w1 ∧ w1.key = base.cur ∧ w1.lanes.length = 32 :=
  ⟨issues_of (by decide +kernel), by decide, fun _ h => by subst h; exact ⟨rfl, rfl, rfl⟩, (issueOf (.iadd op2 .i32 false) base wave).w,
    by decide +kernel, by decide +kernel, by decide +kernel⟩
theorem witness_BlocksWriteTheirElements : (issueOf (.iadd op2 .i32 false) base wave).first = 0 ∧ 0 < (Ext.dense 1 1).count ∧
    (issueOf (.iadd op2 .i32 false) base wave).act ≠ [] := by decide +kernel
/-- Cores whose bivouac is full. -/
def full : State := { base with cores := List.replicate 192 { bivouac := List.replicate 64 { state := .waiting } } }
theorem witness_TrappedLanesPark : ∀ s ∈ [base, full], s.wave? 0 = some wave ∧ s.crew? wave.crew = some crew7 ∧
    wave.lanes.length = 32 ∧ wave.core < s.cores.length ∧ (s.core wave.core).bivouac.length = 64 ∧
    (s.core wave.core).freeEntry = if s.core 0 = base.core 0 then some 0 else none := by decide +kernel
/-- A wave that waits for an untagged copy; one with a complete untagged result; and one whose newest latch entry holds one
element of 32 bits. -/
def awaits : Wave := { wave with direct := some { engine := some 3 } }
def landed : Wave := { wave with direct := some { vw := [(256, 7)], sw := some (4, 9) } }
def latched : Wave := { wave with latches := [{ empty := false, count := 1, elems := (List.range 32).map fun l => (l, 5) }, {}, {}, {}] }
theorem witness_IssuesThatTrap :
    (({ base with waves := [awaits] } : State).wave? 0 = some awaits ∧ awaits.settled.issueSet ≠ [] ∧
      awaits.settled.directReady = false) ∧
    (∀ w ∈ [wave, landed], ({ base with waves := [w] } : State).wave? 0 = some w ∧ base.crew? w.crew = some crew7 ∧
      w.lanes.length = 32 ∧ w.core < base.cores.length ∧ w.settled.issueSet = 0 :: (List.range 32).tail ∧
      w.settled.rejoinNow = none ∧ w.settled.directReady = true ∧ (base.core w.core).bivouac.length = 64 ∧
      (base.core w.core).freeEntry = some 0) ∧
    (let x := lr 0 0 0 (.v 0) (.v 0) (.b 0) (.v 8);
      Issues (.iadd x .i32 false) base wave ∧ (issueOf (.iadd x .i32 false) base wave).first < x.extent.count ∧
      ((issueOf (.iadd x .i32 false) base wave).w.latches.getD 0 {}).empty = true) ∧
    (let x := lr 0 0 0 (.v 0) (.v 0) (.b 0) (.v 8)
      let s : State := { base with waves := [latched] }
      Issues (.iadd x .i64 false) s latched ∧ ((issueOf (.iadd x .i64 false) s latched).w.latches.getD 0 {}).lost = false ∧
      ((issueOf (.iadd x .i64 false) s latched).w.latches.getD 0 {}).empty = false ∧
      ((issueOf (.iadd x .i64 false) s latched).w.latches.getD 0 {}).wide ≠ decide (ITy.i64.regs = 2)) := by
  refine ⟨⟨by decide +kernel, by decide +kernel, by decide +kernel⟩, ?_, ⟨issues_of (by decide +kernel), by decide +kernel,
    by decide +kernel⟩, issues_of (by decide +kernel), by decide +kernel, by decide +kernel, by decide +kernel⟩
  intro w hw
  simp only [List.mem_cons, List.not_mem_nil, or_false] at hw
  rcases hw with rfl | rfl
  · exact ⟨by decide +kernel, by decide +kernel, by decide, by decide +kernel, by decide +kernel, by decide +kernel, by decide +kernel,
      by decide +kernel, by decide +kernel⟩
  · exact ⟨by decide +kernel, by decide +kernel, by decide, by decide +kernel, by decide +kernel, by decide +kernel, by decide +kernel,
      by decide +kernel, by decide +kernel⟩

theorem witness_MovesCopy : Readable [.mov op1 .i32, .movLi (li 5 0 0 (.v 0) (.v 8)) .i32, .movLk ⟨hd, 0, 0, 5, .v 8⟩ .i64,
    .movLk ⟨hd, 0, 0, 5, .v 8⟩ .i32, .movShort (sh 0 0 (.v 1) 8)] := readable_of (by decide +kernel)
def lis : LI := li 5 0 0 (.v 1) (.v 8)
def shs : SH := sh 0 0 (.v 1) 8
theorem witness_IntegerArithmetic : Readable [.iadd op2 .i32 true, .isub op2 .n64 false, .imul op2 .i32, .iaddLi lis .i32 true,
    .isubLi lis .i32 false, .imulLi lis .n32, .iaddShort shs, .isubShort shs, .imulh op2 .i32, .imad op3 .i32, .imadWide op3 .n32,
    .iabs op1 .i32 true, .ineg op1 .i64 false, .imin op2 .i32, .imax op2 .n32, .iminLi lis .i32, .imaxLi lis .i32, .iminShort shs,
    .imaxShort shs] ∧ ITy.n32.regs = 1 ∧ ITy.i32.signed = true ∧ ITy.i64.signed = true := ⟨readable_of (by decide +kernel), by decide⟩
theorem witness_CarriesAndAddresses : Readable [.addc op3 .i32 true, .subc op3 .n64 false, .lea op2 .i32 3, .leaLi lis .i32 2] :=
  readable_of (by decide +kernel)
/-- Divisors of lane + 1, a zero divisor that does not trap, and one that does. -/
def waveTraps (fpcr : Word) (v : SMap 32) : Wave := { wave with fpcr := fpcr, v := v }
def traps (fpcr : Word) (v : SMap 32) : State := { base with waves := [waveTraps fpcr v] }
theorem witness_DivisionAndRemainder : Readable [.idiv op2 .i32, .irem op2 .i32] ∧
    (∀ x ∈ [op2, lr 0 0 0 (.v 0) (.v 9) (.v 1) (.v 8)], (issueOf (.idiv x .i32) base wave).w.fpcr.getLsbD 8 = false) ∧
    ∀ j ∈ [Instr.idiv op2 .i32, .irem op2 .i32], Issues j (traps 0x100 vBase) (waveTraps 0x100 vBase) ∧
      (issueOf j (traps 0x100 vBase) (waveTraps 0x100 vBase)).w.fpcr.getLsbD 8 = true ∧
      ∀ l ∈ (issueOf j (traps 0x100 vBase) (waveTraps 0x100 vBase)).act,
        (issueOf j (traps 0x100 vBase) (waveTraps 0x100 vBase)).first ≤ 0 ∧ 0 < op2.extent.count ∧
        supply (issueOf j (traps 0x100 vBase) (waveTraps 0x100 vBase)) op2.extent (.int 1) op2.b l 0 = 0 := by
  refine ⟨readable_of (by decide +kernel), by decide +kernel, ?_⟩
  have h : ∀ j ∈ [Instr.idiv op2 .i32, .irem op2 .i32], issuesB j (traps 0x100 vBase) (waveTraps 0x100 vBase) = true := by decide +kernel
  have g : ∀ j ∈ [Instr.idiv op2 .i32, .irem op2 .i32],
      (issueOf j (traps 0x100 vBase) (waveTraps 0x100 vBase)).w.fpcr.getLsbD 8 = true ∧
      ∀ l ∈ (issueOf j (traps 0x100 vBase) (waveTraps 0x100 vBase)).act,
        (issueOf j (traps 0x100 vBase) (waveTraps 0x100 vBase)).first ≤ 0 ∧ 0 < op2.extent.count ∧
        supply (issueOf j (traps 0x100 vBase) (waveTraps 0x100 vBase)) op2.extent (.int 1) op2.b l 0 = 0 := by decide +kernel
  exact fun j hj => ⟨issues_of (h j hj), (g j hj).1, (g j hj).2⟩
theorem witness_LogicOnPatternsAndPredicates : Readable [.and op2 .i32, .or op2 .i64, .xor op2 .n32, .andn op2 .n64, .not op1 .i32,
    .andLi lis .i32, .orLi lis .i32, .xorLi lis .i32, .andnLi lis .i32, .andShort shs, .orShort shs, .xorShort shs] ∧
    Readable [.pand (lr 0 0 0 (.v 0) (.p 2) (.p 1) (.p 0)), .por (lr 0 0 0 (.v 0) (.v 2) (.v 1) (.p 0)), .pxor op2, .pnot op1, .pmov op1] :=
  ⟨readable_of (by decide +kernel), readable_of (by decide +kernel)⟩
theorem witness_Shifts : Readable [.shl op2 .i32, .shr op2 .n64, .sra op2 .i64, .shlLi lis .i32, .shrLi lis .i32, .sraLi lis .i32,
    .shlShort shs, .shrShort shs, .sraShort shs] := readable_of (by decide +kernel)
theorem witness_FieldsOfBits : Readable [.shf op3 .i32 true, .bfe op2 .n32, .bfi op3 .i64, .lut3 op3 0xE8] := readable_of (by decide +kernel)
theorem witness_CountsOfBits : Readable [.popc op1 .i32, .clz op1 .i64, .ctz op1 .n32, .brev op1 .n64] := readable_of (by decide +kernel)
theorem witness_CompareAndSelect : Readable [.icmp (lr 0 0 0 (.v 0) (.v 2) (.v 1) (.p 0)) .i32 .le, .sel op3 true] :=
  readable_of (by decide +kernel)

theorem witness_RoundingFollowsTheMode : 0 < 1 ∧ 3 * 2 ^ (-(-1 : Int)).toNat % (1 * 2 ^ (-1 : Int).toNat) = 0 ∧
    3 * 2 ^ (-(1 : Int)).toNat % (1 * 2 ^ (1 : Int).toNat) ≠ 0 ∧ (fE4m3 ∈ [fF64, fF32, fF16, fBf16, fE4m3, fE5m2, fE2m1]) ∧
    (IsLog2 3 1 1 ∧ IsLog2 1000 1 9) ∧ fE4m3.unpack fE4m3.maxBits = .fin false 14 5 := by
  refine ⟨by decide, by decide, by decide, by decide, ⟨by unfold IsLog2; decide, by unfold IsLog2; decide⟩, by decide⟩
theorem witness_RepresentableValuesRoundToThemselves : fF32 ∈ [fF64, fF32, fF16, fBf16, fE4m3, fE5m2, fE2m1] ∧
    0x3F800001 < 2 ^ fF32.width ∧ ∃ m e, fF32.unpack 0x3F800001 = .fin false m e := ⟨by decide, by decide, _, _, rfl⟩
theorem witness_FirstNanPropagates : (fF32.unpack 0x7FC00001).isNan = true ∧ (fF16.unpack 0x7C01).isSnan = true ∧
    (fF64.unpack 0x7FF8000000000000).isNan = true ∧ (fBf16.unpack 0x7FC0).isNan = true := by decide +kernel
/-- The largest f32 in v1 and v2 of every lane: their sum overflows, and fpcr enables that. -/
def nans : SMap 32 := (List.range 64).map fun k => (32 + k, 0x7F7FFFFF)
theorem witness_FloatingPointArithmetic : Readable [.fadd op2 .f32 .rne, .fsub op2 .f16x2 .rtz, .fmul op2 .f64 .rup, .ffma op3 .bf16 .rdn,
    .fdiv op2 .f32 .rna, .fsqrt op1 .f32 .dyn, .faddShort shs, .fsubShort shs, .fmulShort shs, .fminShort shs, .fmaxShort shs,
    .ffmaMix op3 .f16 .rne, .fdot2 op3 .bf16x2 .rne] ∧ FTy.bf16x2.packed = true ∧
    (fF32.unpack 0x3FC00000 = .fin false 12582912 (-23) ∧ fF16.unpack 0xBC00 = .fin true 1024 (-10) ∧ fF64.unpack 0 = .fin false 0 (-1074)) ∧
    let s := traps 0x20 nans
    let i := issueOf (.fadd op2 .f32 .rne) s (waveTraps 0x20 nans)
    Issues (.fadd op2 .f32 .rne) s (waveTraps 0x20 nans) ∧ ∀ l ∈ i.act, i.first ≤ 0 ∧ 0 < op2.extent.count ∧
      (fpTrapCode i.w.fpcr (onHalves2 .f32 (fF32.add .rne) (supply i op2.extent (.fp .f32) op2.a l 0)
        (supply i op2.extent (.fp .f32) op2.b l 0)).flags).isSome = true :=
  ⟨readable_of (by decide +kernel), by decide, by decide +kernel, issues_of (by decide +kernel), by decide +kernel⟩
theorem witness_FloatingPointMinimumAndMaximum : Readable [.fmin op2 .f32, .fmax op2 .f16, .fminx op2 .f64, .fmaxx op2 .bf16x2] :=
  readable_of (by decide +kernel)
theorem witness_SignsAndPartsOfFloatingPointValues : Readable [.fabs op1 .f32, .fneg op1 .f64, .fcopysign op2 .f16x2,
    .frint op1 .f32 .rne true, .fgetexp op1 .f16, .fgetman op1 .f64, .fscale op2 .f32 .rne, .fclass op1 .bf16] ∧
    (fF32.unpack 0x3FC00000 = .fin false 12582912 (-23) ∧ IsLog2 (12582912 * 2 ^ (-23 : Int).toNat) (2 ^ (23 : Int).toNat) 0 ∧
      2 ^ 23 ≤ 12582912 ∧ 12582912 < 2 ^ 24 ∧ fF64.unpack 0x4500000000000000 = .fin false 4503599627370496 29) :=
  ⟨readable_of (by decide +kernel), by decide +kernel, by unfold IsLog2; decide +kernel, by decide, by decide, by decide +kernel⟩
theorem witness_FloatingPointCompare : FTy.f32.packed = false ∧ Readable [.fcmp (lr 0 0 0 (.v 0) (.v 2) (.v 1) (.p 0)) .f32 .lt true true,
    .fcmp (lr 0 0 0 (.v 0) (.v 2) (.v 1) (.p 0)) .f64 .ord false false] := ⟨by decide, readable_of (by decide +kernel)⟩
theorem witness_ApproximateFunctions : Readable [.frcpApprox op1 .f32, .frsqApprox op1 .f16, .fexp2Approx op1 .bf16, .flog2Approx op1 .f32,
    .fsinApprox op1 .f16x2, .fcosApprox op1 .bf16x2] ∧ (fF32.unpack 0x7F800001).isNan = true ∧
    (fF16.unpack 0x3C00 = .fin false (2 ^ 10) (-10) ∧ fF32.unpack 0xC0400000 = .fin true 12582912 (-22) ∧
      12582912 * 2 ^ (-22 : Int).toNat = 3 * 2 ^ (22 : Int).toNat) ∧ (exactLog2 12582912 (-22)).n ≠ 0 ∧
    (exactSin true 12582912 (-22)).n ≠ 0 ∧ (exactCos 12582912 (-22)).n ≠ 0 :=
  ⟨readable_of (by decide +kernel), by decide +kernel, by decide +kernel, by decide +kernel, by decide +kernel, by decide +kernel⟩
theorem witness_Conversions : Readable [.cvt op1 .rne true .e4m3 .f32, .mxq (lr 0 7 3 (.v 0) (.v 8) (.v 32) (.v 4)) .rne] ∧
    (lr 0 7 3 (.v 0) (.v 8) (.v 32) (.v 4)).extent.count = 32 ∧
    (issueOf (.mxq (lr 0 7 3 (.v 0) (.v 8) (.v 32) (.v 4)) .rne) base wave).first = 0 ∧
    (0x3FC00000 < 2 ^ fF32.width ∧ fF32.unpack 0x3FC00000 = .fin false 12582912 (-23) ∧ fF32.unpack 0xFF800000 = .inf true ∧
      (fF16.unpack 0x7C01).isNan = true) ∧
    ([0x3FC00000, 0].all finite32 = true ∧ IsLog2 (12582912 * 2 ^ (-23 : Int).toNat) (2 ^ (23 : Int).toNat) ((-2 : Int) + 2)) ∧
    ([0x7FC00000].all finite32 = false) ∧
    (issueOf (.mxq (lr 0 7 3 (.v 0) (.v 8) (.v 32) (.v 4)) .rne) base wave).w.fpcr = 0 ∧ ∀ fl : Flags, fpTrapCode 0 fl = none :=
  ⟨readable_of (by decide +kernel), by decide, by decide +kernel, by decide +kernel, ⟨by decide +kernel, by unfold IsLog2; decide +kernel⟩,
    by decide +kernel, by decide +kernel, by decide⟩
theorem witness_LanesExchangeValues : Readable [.shfl op3 .xor true 2, .voteAny (lr 0 0 0 (.v 0) (.v 0) (.v 1) (.p 0)),
    .voteAll (lr 0 7 0 (.v 0) (.v 0) (.v 1) (.p 0)), .ballot op1 true, .laneFirst op1] ∧
    0 ∈ (issueOf (.laneFirst op1) base wave).act ∧ ∀ l ∈ (issueOf (.laneFirst op1) base wave).act, 0 ≤ l :=
  ⟨readable_of (by decide +kernel), by decide +kernel, fun _ _ => Nat.zero_le _⟩
theorem witness_ReductionsAndScans : Readable [.wred op1 .add (.int .i32), .wred op1 .max (.fp .f32), .wscan op1 .add (.fp .f16) true,
    .wscan op1 .xor (.int .n64) false] := readable_of (by decide +kernel)
theorem witness_BranchesMoveTheirLanes : Readable [.bra ⟨hd, 0, .v 0, 6⟩, .call ⟨hd, 0, .v 200, 6⟩, .call ⟨hd, 0, .s 4, 6⟩, .brx op1, .ret op1,
    .callx op1, .callx (lr 0 0 0 (.v 0) (.v 0) (.v 1) (.s 4)), .nop (lr 0 0 0 (.v 0) (.v 0) (.v 0) (.v 0))] := readable_of (by decide +kernel)
theorem witness_ExitAndYield : wave.lanes.length = 32 ∧ Readable [.exit (lr 0 0 0 (.v 0) (.v 0) (.v 0) (.v 0)),
    .yield (lr 0 0 0 (.v 0) (.v 0) (.v 0) (.v 0))] := ⟨by decide, readable_of (by decide +kernel)⟩

/-- Loads and stores of the 32 lanes: s0 + v0 in page 1, s1 + v0 in the loft, s2 + v0 in the scratchpad, v0 in the bank. -/
def at0 (d : Sel) : LM := lm 0 0 0 0 (.v 0) 0 d
def at1 (d : Sel) : LM := lm 0 0 0 0 (.v 0) 1 d
def at2 (d : Sel) : LM := lm 0 0 0 0 (.v 0) 2 d
def at5 (d : Sel) : LM := lm 0 0 0 0 (.v 0) 5 d
def tagIt (x : LM) : LM := { x with h := { hd with tav := true } }
/-- Pages 3 to 7: SO, DS, UO, an RC page of the other site, and one without W; s4 to s8 name them, s9 a page that no table maps, s10
an address of 2^52, s11 the code window. -/
def tlbKinds : List TlbEntry := [⟨7, 3, 1, leaf 0x103 2, 0x200018, true⟩, ⟨7, 4, 1, leaf 0x104 6, 0x200020, true⟩,
  ⟨7, 5, 1, leaf 0x105 4, 0x200028, true⟩, ⟨7, 6, 1, leaf 0x6000000 0, 0x200030, true⟩,
  ⟨7, 7, 1, leaf 0x107 0 &&& ~~~0x20, 0x200038, true⟩, ⟨7, 8, 1, leaf 0x108 0 &&& ~~~0x10, 0x200038, true⟩]
def sKinds : SMap 64 := sBase ++ [(4, 0x3000), (5, 0x4000), (6, 0x5000), (7, 0x6000), (8, 0x7000), (9, 0x9000), (10, 0x10000000000000),
  (11, 0x40000), (12, 0x8000)]
def waveK : Wave := wave7 vBase sKinds
def kinds : State := { base with waves := [waveK], siteA := { tlb := tlb7 ++ tlbKinds } }
def waveOneK : Wave := waveOne vBase sKinds
def kindsOne : State := { kinds with waves := [waveOneK] }
/-- Lane l's access at s register r plus v0. -/
def atS (r : BitVec 6) (d : Sel) : LM := lm 0 0 0 0 (.v 0) r d
/-- A page that no table maps: the root's entry is not valid. -/
theorem unmapped9 {i : Issue} {va : DWord} {d : BitVec 16} (h : i.s.tlb? (i.w.core / 96) crew7.launch va.toNat = none ∧
    i.s.launch? crew7.launch = some launch7 ∧ walkFrom i.s va.toNat 3 launch7.root = .fail 3 1 ∧
    i.s.farWalk (i.w.core / 96) crew7.launch va.toNat = [] ∧ d = pageDetail 3 1) : Unmapped i crew7 va d := ⟨launch7, 3, 1, h⟩
/-- What a load or a store that traps finds, one state and address for each check; the page's permissions, and a page unmapped. -/
def bad (j : Instr) (x : LM) (n : Nat) : Prop :=
  let i := issueOf j kindsOne waveOneK
  Issues j kindsOne waveOneK ∧ i.s.crew? i.w.crew = some crew7 ∧ i.act = [3] ∧
    i.s.logCovers i.w.core i.w.key (effAddr i.w x 3).toNat n = false ∧ i.s.logPage i.w.core i.w.key (effAddr i.w x 3).toNat = false
theorem bad_of {j : Instr} {x : LM} {n : Nat} (h : (issuesB j kindsOne waveOneK && (let i := issueOf j kindsOne waveOneK
    decide (i.s.crew? i.w.crew = some crew7) && decide (i.act = [3]) && !i.s.logCovers i.w.core i.w.key (effAddr i.w x 3).toNat n &&
      !i.s.logPage i.w.core i.w.key (effAddr i.w x 3).toNat)) = true) : bad j x n := by
  simp only [Bool.and_eq_true, decide_eq_true_eq, Bool.not_eq_true'] at h
  exact ⟨issues_of h.1, h.2.1.1.1, h.2.1.1.2, h.2.1.2, h.2.2⟩
theorem witness_LoadsThatTrap :
    (let j (r : BitVec 6) : Instr := .ldG (atS r (.v 8)) .b64 false false
     let va (r : BitVec 6) : DWord := effAddr (issueOf (j r) kindsOne waveOneK).w (atS r (.v 8)) 3
     (bad (j 10) (atS 10 (.v 8)) 8 ∧ 2 ^ 52 ≤ (va 10).toNat) ∧ (bad (j 0) (atS 0 (.v 8)) 8 ∧ (va 0).toNat % 8 ≠ 0)) ∧
    (let j (r : BitVec 6) : Instr := .ldG (atS r (.v 8)) .b32 false false
     let va (r : BitVec 6) : DWord := effAddr (issueOf (j r) kindsOne waveOneK).w (atS r (.v 8)) 3
     (bad (j 9) (atS 9 (.v 8)) 4 ∧ Unmapped (issueOf (j 9) kindsOne waveOneK) crew7 (va 9) (pageDetail 3 1)) ∧
     (bad (j 12) (atS 12 (.v 8)) 4 ∧ ∃ t, (issueOf (j 12) kindsOne waveOneK).s.tlb? 0 7 (va 12).toNat = some t ∧
       denies t.leaf crew7.priv { r := true } = true)) :=
  ⟨⟨⟨bad_of (by decide +kernel), by decide +kernel⟩, bad_of (by decide +kernel), by decide +kernel⟩,
   ⟨bad_of (by decide +kernel), unmapped9 (by decide +kernel)⟩, bad_of (by decide +kernel), _, rfl, by decide +kernel⟩
/-- Under a pause all 32 lanes name the other site. -/
def paused : State := { kinds with pause := true }
theorem witness_LoadsHeldByAPause : ∀ d ∈ [Sel.v 8, Sel.s 14],
    let x := atS 7 d
    let i := issueOf (.ldG x .b32 false false) paused waveK
    Issues (.ldG x .b32 false false) paused waveK ∧ Ready i crew7 ∧ i.act = i.xs ∧ i.s.pause = true ∧
      (∀ l ∈ loadLanes i x.d, Config.homeSite (0x6000000000 + 4 * l) = some (1 - i.w.core / 96)) ∧
      ∀ l ∈ loadLanes i x.d, Mapped i crew7 { r := true } 4 (effAddr i.w x l) (0x6000000000 + 4 * l) .rc := by
  have h : ∀ d ∈ [Sel.v 8, Sel.s 14],
      let i := issueOf (.ldG (atS 7 d) .b32 false false) paused waveK
      (issuesB (.ldG (atS 7 d) .b32 false false) paused waveK && readyB i crew7 && decide (i.act = i.xs) && i.s.pause &&
        decide (∀ l ∈ loadLanes i d, Config.homeSite (0x6000000000 + 4 * l) = some (1 - i.w.core / 96)) &&
        (loadLanes i d).all fun l =>
          mappedB i crew7 { r := true } 4 (effAddr i.w (atS 7 d) l) (0x6000000000 + 4 * l) .rc) = true := by decide +kernel
  intro d hd
  have h := h d hd
  simp only [Bool.and_eq_true, decide_eq_true_eq] at h
  obtain ⟨⟨⟨⟨⟨h1, h2⟩, h3⟩, h4⟩, h5⟩, h6⟩ := h
  exact ⟨issues_of h1, ready_of h2, h3, h4, h5, mappedAll (kind := fun _ => .rc) (pa := fun l => 0x6000000000 + 4 * l)
    (va := fun l => effAddr _ (atS 7 d) l) h6⟩
theorem witness_TaggedLoadsWaitToBePerformed :
    (∀ d ∈ [Sel.v 8, Sel.s 4], let x := tagIt (at0 d)
      let i := issueOf (.ldG x .b32 false false) base wave
      Issues (.ldG x .b32 false false) base wave ∧ Ready i crew7 ∧ i.h.ta.isSome ∧ x.ord = 0 ∧
      (∀ l ∈ loadLanes i x.d, Config.homeSite (0x100000 + 4 * l) = some (i.w.core / 96)) ∧ i.s.numbers = true ∧
      ∀ l ∈ loadLanes i x.d, Mapped i crew7 { r := true } 4 (effAddr i.w x l) (0x100000 + 4 * l) .rc) ∧
    (let x := tagIt (at5 (.v 8))
      let i := issueOf (.ldF x .b32 false) base wave
      Issues (.ldF x .b32 false) base wave ∧ Ready i crew7 ∧ i.h.ta.isSome ∧ recFrame crew7.record ≠ 0 ∧
      (∀ l ∈ loadLanes i x.d, (effAddr i.w x l).toNat < 4096 ∧ (effAddr i.w x l).toNat % 4 = 0) ∧
      ∀ l ∈ loadLanes i x.d, Mapped i crew7 { r := true } 4 (recFrame crew7.record + effAddr i.w x l) (0x100000 + 4 * l) .rc) ∧
    Issues (.pfG (at0 (.v 0))) base wave := by
  refine ⟨?_, ⟨issues_of (by decide +kernel), ready_of (by decide +kernel), by decide +kernel, by decide +kernel, by decide +kernel,
    mappedAll (kind := fun _ => .rc) (pa := fun l => 0x100000 + 4 * l) (va := fun l => recFrame crew7.record + effAddr _ _ l) (by decide +kernel)⟩,
    issues_of (by decide +kernel)⟩
  have h : ∀ d ∈ [Sel.v 8, Sel.s 4], issuesB (.ldG (tagIt (at0 d)) .b32 false false) base wave = true ∧
      readyB (issueOf (.ldG (tagIt (at0 d)) .b32 false false) base wave) crew7 = true ∧
      (issueOf (.ldG (tagIt (at0 d)) .b32 false false) base wave).h.ta.isSome = true ∧ (tagIt (at0 d)).ord = 0 ∧
      (∀ l ∈ loadLanes (issueOf (.ldG (tagIt (at0 d)) .b32 false false) base wave) (tagIt (at0 d)).d,
        Config.homeSite (0x100000 + 4 * l) = some ((issueOf (.ldG (tagIt (at0 d)) .b32 false false) base wave).w.core / 96)) ∧
      (issueOf (.ldG (tagIt (at0 d)) .b32 false false) base wave).s.numbers = true ∧
      ((loadLanes (issueOf (.ldG (tagIt (at0 d)) .b32 false false) base wave) d).all fun l =>
        mappedB (issueOf (.ldG (tagIt (at0 d)) .b32 false false) base wave) crew7 { r := true } 4
          (effAddr (issueOf (.ldG (tagIt (at0 d)) .b32 false false) base wave).w (tagIt (at0 d)) l) (0x100000 + 4 * l) .rc) = true := by
    decide +kernel
  intro d hd
  obtain ⟨h1, h2, h3, h4, h6, h7, h5⟩ := h d hd
  exact ⟨issues_of h1, ready_of h2, h3, h4, h6, h7, mappedAll (kind := fun _ => .rc) (pa := fun l => 0x100000 + 4 * l)
    (va := fun l => effAddr _ (tagIt (at0 d)) l) h5⟩
/-- A core with an older copy of a byte; two members of a gang on one core, of which the first issues, with s13 naming rank 1. -/
def stale : State := { kinds with cores := { copies := [(0x6000000000, 9)] } :: List.replicate 191 {} }
def gangBits : Nat := 2 ^ 70 + 2 ^ 101 + 5 * 2 ^ 104
def crewG0 : Crew := { crew7 with record := task7 ||| BitVec.ofNat 512 gangBits }
def crewG1 : Crew := { crew7 with slot := 1, record := task7 ||| BitVec.ofNat 512 (gangBits + 2 ^ 98) }
def gangWave : Wave := { wave with s := sBase ++ [(13, 0x100000100)] }
def gangState : State := { base with crews := [crewG0, crewG1], waves := [gangWave] }
def gangWaveOne : Wave := { gangWave with lanes := waveOneK.lanes }
def gangOne : State := { gangState with waves := [gangWaveOne] }
theorem witness_LoadsWithoutATagRead :
    (let x := at2 (.v 8)
      let i := issueOf (.ldS x .b32 false false) base wave
      Issues (.ldS x .b32 false false) base wave ∧ Ready i crew7 ∧ i.h.ta = none ∧ x.ord = 0 ∧ crew7.badLines = [] ∧
      ∀ l ∈ loadLanes i x.d, OwnScratch i crew7 4 (effAddr i.w x l) false) ∧
    (let x := at5 (.v 8)
      let i := issueOf (.ldC x .b16 true) base wave
      Issues (.ldC x .b16 true) base wave ∧ Ready i crew7 ∧ i.h.ta = none ∧ i.s.launch? crew7.launch = some launch7 ∧
      ∀ l ∈ loadLanes i x.d, (effAddr i.w x l).toNat < launch7.bankBytes ∧ (effAddr i.w x l).toNat % 2 = 0) ∧
    (let x := at0 (.s 4)
      let i := issueOf (.ldG x .b8 true false) base wave
      Issues (.ldG x .b8 true false) base wave ∧ Ready i crew7 ∧ i.h.ta = none ∧ i.s.badLines = [] ∧ i.s.inflight = [] ∧
      (∀ k < 3, i.s.copiesAt i.w.core k = []) ∧ (∀ l ∈ loadLanes i x.d, i.s.reaches (i.w.core / 96) (0x100000 + 4 * l) = true) ∧
      ∀ l ∈ loadLanes i x.d, Mapped i crew7 { r := true } 1 (effAddr i.w x l) (0x100000 + 4 * l) .rc) ∧
    (let x := atS 4 (.v 8)
      let i := issueOf (.ldG x .b32 false false) kinds waveK
      Issues (.ldG x .b32 false false) kinds waveK ∧ Ready i crew7 ∧ (∀ k < 3, i.s.copiesAt i.w.core k = []) ∧
      (∀ l ∈ loadLanes i x.d, i.s.reaches (i.w.core / 96) (0x103000 + 4 * l) = true) ∧
      ∀ l ∈ loadLanes i x.d, Mapped i crew7 { r := true } 4 (effAddr i.w x l) (0x103000 + 4 * l) .so) ∧
    (let x := lm 4 1 0 0 (.v 0) 7 (.v 8)
      let i := issueOf (.ldG x .b32 false false) stale waveK
      Issues (.ldG x .b32 false false) stale waveK ∧ Ready i crew7 ∧ ordAcquire x.ord = true ∧ pointOf (scopeOf x.scp) = 3 ∧
      i.s.copiesAt i.w.core 0 ≠ [] ∧ (∀ l ∈ loadLanes i x.d, i.s.reaches (i.w.core / 96) (0x6000000000 + 4 * l) = true) ∧
      ∀ l ∈ loadLanes i x.d, Mapped i crew7 { r := true } 4 (effAddr i.w x l) (0x6000000000 + 4 * l) .rc) ∧
    (let x := atS 5 (.s 14)
      let c : Crew := { crew7 with phase := some 0x109000 }
      let s : State := { kinds with crews := [c] }
      let i := issueOf (.ldG { x with ord := 1 } .b32 false false) s waveK
      Issues (.ldG { x with ord := 1 } .b32 false false) s waveK ∧ Ready i c ∧ c.phase ≠ none ∧
      ∀ l ∈ loadLanes i x.d, Mapped i c { r := true } 4 (effAddr i.w x l) (0x104000 + 4 * l) .ds) ∧
    (let x := lm 0 0 0 0 (.v 0) 13 (.v 8)
      let i := issueOf (.ldS x .b32 false true) gangState gangWave
      Issues (.ldS x .b32 false true) gangState gangWave ∧ Ready i crewG0 ∧ i.h.ta = none ∧ recGang crewG0.record = true ∧
      ∀ l ∈ loadLanes i x.d, ((effAddr i.w x l).extractLsb' 32 3).toNat ≤ (recGsize crewG0.record).toNat ∧
        (i.s.gangMember crewG0 ((effAddr i.w x l).extractLsb' 32 3).toNat).1 = some crewG1 ∧ i.s.crew? crewG1.key = some crewG1 ∧
        crewG1.badLines = [] ∧ ((effAddr i.w x l).extractLsb' 0 32).toNat < crewG1.scratchBytes ∧
        ((effAddr i.w x l).extractLsb' 0 32).toNat % 4 = 0) := by
  refine ⟨⟨issues_of (by decide +kernel), ready_of (by decide +kernel), by decide +kernel, by decide +kernel, by decide +kernel,
    scratchAll (a := fun l => effAddr _ _ l) (by decide +kernel)⟩,
    ⟨issues_of (by decide +kernel), ready_of (by decide +kernel), by decide +kernel, by decide +kernel, by decide +kernel⟩,
    ⟨issues_of (by decide +kernel), ready_of (by decide +kernel), by decide +kernel, by decide +kernel, by decide +kernel, by decide +kernel,
    by decide +kernel,
    mappedAll (kind := fun _ => .rc) (pa := fun l => 0x100000 + 4 * l) (va := fun l => effAddr _ _ l) (by decide +kernel)⟩,
    ⟨issues_of (by decide +kernel), ready_of (by decide +kernel), by decide +kernel, by decide +kernel,
    mappedAll (kind := fun _ => .so) (pa := fun l => 0x103000 + 4 * l) (va := fun l => effAddr _ _ l) (by decide +kernel)⟩,
    ⟨issues_of (by decide +kernel), ready_of (by decide +kernel), by decide, by decide, by decide +kernel, by decide +kernel,
    mappedAll (kind := fun _ => .rc) (pa := fun l => 0x6000000000 + 4 * l) (va := fun l => effAddr _ _ l) (by decide +kernel)⟩,
    ⟨issues_of (by decide +kernel), ready_of (by decide +kernel), by decide +kernel,
    mappedAll (kind := fun _ => .ds) (pa := fun l => 0x104000 + 4 * l) (va := fun l => effAddr _ _ l) (by decide +kernel)⟩,
    issues_of (by decide +kernel), ready_of (by decide +kernel), by decide +kernel, by decide +kernel, by decide +kernel⟩
/-- A store to an SO page, and one that releases at device scope. -/
theorem witness_StoresToTheHome :
    ∀ p ∈ [(atS 4 (.v 1), 0x103000, PKind.so), (lm 4 2 0 0 (.v 0) 7 (.v 1), 0x6000000000, PKind.rc)],
      let i := issueOf (.stG p.1 .b32 false) kinds waveK
      Issues (.stG p.1 .b32 false) kinds waveK ∧ Calm i crew7 ∧ i.s.badLines = [] ∧ kinds.Canonical ∧
      (∀ l, ∃ d, storeData i.w l 4 p.1.d = .ok d) ∧
      (p.2.2 = .so ∨ (ordRelease p.1.ord = true ∧ pointOf (scopeOf p.1.scp) = 3)) ∧
      ∀ l ∈ i.act, Mapped i crew7 { w := true } 4 (effAddr i.w p.1 l) (p.2.1 + 4 * l) p.2.2 := by
  intro p hp
  simp only [List.mem_cons, List.not_mem_nil, or_false] at hp
  rcases hp with rfl | rfl
  · exact ⟨issues_of (by decide +kernel), calm_of (by decide +kernel), by decide +kernel, rfl, fun _ => ⟨_, rfl⟩, by decide,
      mappedAll (kind := fun _ => .so) (pa := fun l => 0x103000 + 4 * l) (va := fun l => effAddr _ _ l) (by decide +kernel)⟩
  · exact ⟨issues_of (by decide +kernel), calm_of (by decide +kernel), by decide +kernel, rfl, fun _ => ⟨_, rfl⟩, by decide,
      mappedAll (kind := fun _ => .rc) (pa := fun l => 0x6000000000 + 4 * l) (va := fun l => effAddr _ _ l) (by decide +kernel)⟩
def crewP : Crew := { crew7 with phase := some 0x109000 }
def phaseOne : State := { kindsOne with crews := [crewP] }
theorem witness_StoresOfAPhase :
    let x := atS 5 (.v 1)
    let i := issueOf (.stG x .b32 false) phaseOne waveOneK
    Issues (.stG x .b32 false) phaseOne waveOneK ∧ Ready i crewP ∧ i.act = [3] ∧ i.s.inflight = [] ∧ i.s.badLines = [] ∧
      phaseOne.Canonical ∧ (∃ d, storeData i.w 3 4 x.d = .ok d ∧ i.s.dsFull .store 0x10400C 4 d = false ∧
        i.s.beyondQuota crewP.key .store 0x10400C 4 d = none) ∧
      Mapped i crewP { w := true } 4 (effAddr i.w x 3) 0x10400C .ds ∧ Config.homeSite 0x10400C = some (i.w.core / 96) ∧
      i.s.siteA.dsLines ++ i.s.siteB.dsLines = [] ∧ i.s.dsLine? 0x10400C = none :=
  ⟨issues_of (by decide +kernel), ready_of (by decide +kernel), by decide +kernel, by decide +kernel, by decide +kernel, rfl,
    ⟨_, rfl, by decide +kernel, by decide +kernel⟩, mapped_of (by decide +kernel), by decide +kernel, by decide +kernel, by decide +kernel⟩
theorem witness_StoresToTheSideLog :
    let x := atS 9 (.v 1)
    let i := issueOf (.stG x .b32 false) kinds waveK
    Issues (.stG x .b32 false) kinds waveK ∧ Ready i crew7 ∧ x.ord = 0 ∧ i.s.launch? crew7.launch = some launch7 ∧
      i.act.length ≤ Config.sideLogEntries ∧ (∀ l, ∃ d, storeData i.w l 4 x.d = .ok d) ∧
      (∀ l ∈ i.act, (effAddr i.w x l).toNat < 2 ^ 52 ∧ (effAddr i.w x l).toNat % 4 = 0 ∧
        meet (effAddr i.w x l).toNat 4 launch7.codeBase (5 * launch7.window) = false) ∧
      ∀ l ∈ i.act, Unmapped i crew7 (effAddr i.w x l) (pageDetail 3 1) := by
  have h : ∀ l ∈ (issueOf (.stG (atS 9 (.v 1)) .b32 false) kinds waveK).act,
      let i := issueOf (.stG (atS 9 (.v 1)) .b32 false) kinds waveK
      let va := effAddr i.w (atS 9 (.v 1)) l
      i.s.tlb? (i.w.core / 96) crew7.launch va.toNat = none ∧ i.s.launch? crew7.launch = some launch7 ∧
        walkFrom i.s va.toNat 3 launch7.root = .fail 3 1 ∧ i.s.farWalk (i.w.core / 96) crew7.launch va.toNat = [] ∧
        pageDetail 3 1 = pageDetail 3 1 := by decide +kernel
  exact ⟨issues_of (by decide +kernel), ready_of (by decide +kernel), by decide, by decide +kernel, by decide +kernel, fun _ => ⟨_, rfl⟩,
    by decide +kernel, fun l hl => unmapped9 (h l hl)⟩
/-- A core whose side log is full, with another wave's entries. -/
def entryOf9 : LogEntry := { wave := 9, crew := 0, launch := 7, priv := false, tindex := 0, op := .store, bytes := 4, ord := 0, scp := 0
                             va := 0x20000, data := [0, 0, 0, 0], pc := 0, lane := 0, detail := 0 }
def logFull : State := { kindsOne with cores := { sideLog := List.replicate 256 entryOf9 } :: List.replicate 191 {} }
theorem witness_StoresThatTrap :
    (let j (r : BitVec 6) : Instr := .stG (atS r (.v 1)) .b64 false
     let va (r : BitVec 6) : DWord := effAddr (issueOf (j r) kindsOne waveOneK).w (atS r (.v 1)) 3
     (bad (j 10) (atS 10 (.v 1)) 8 ∧ 2 ^ 52 ≤ (va 10).toNat) ∧
     (bad (j 11) (atS 11 (.v 1)) 8 ∧ meet (va 11).toNat 8 ((issueOf (j 11) kindsOne waveOneK).s.codeWindow 7).1
       ((issueOf (j 11) kindsOne waveOneK).s.codeWindow 7).2 = true) ∧
     (bad (j 0) (atS 0 (.v 1)) 8 ∧ (va 0).toNat % 8 ≠ 0)) ∧
    (let j (r : BitVec 6) : Instr := .stG (atS r (.v 1)) .b32 false
     let va (r : BitVec 6) : DWord := effAddr (issueOf (j r) kindsOne waveOneK).w (atS r (.v 1)) 3
     (∃ d, storeData waveOneK 3 4 (.v 1) = .ok d) ∧
     (bad (j 8) (atS 8 (.v 1)) 4 ∧ ∃ t, (issueOf (j 8) kindsOne waveOneK).s.tlb? 0 7 (va 8).toNat = some t ∧
       denies t.leaf crew7.priv { w := true } = true) ∧
     let i := issueOf (j 9) logFull waveOneK
     Issues (j 9) logFull waveOneK ∧ i.s.crew? i.w.crew = some crew7 ∧ i.act = [3] ∧
       i.s.logPage i.w.core i.w.key (va 9).toNat = false ∧ i.s.logRoom i.w.core = false ∧
       Unmapped i crew7 (va 9) (pageDetail 3 1)) :=
  ⟨⟨⟨bad_of (by decide +kernel), by decide +kernel⟩, ⟨bad_of (by decide +kernel), by decide +kernel⟩, bad_of (by decide +kernel),
      by decide +kernel⟩,
    ⟨_, rfl⟩, ⟨bad_of (by decide +kernel), _, rfl, by decide +kernel⟩, issues_of (by decide +kernel), by decide +kernel, by decide +kernel,
    by decide +kernel, by decide +kernel, unmapped9 (by decide +kernel)⟩
/-- A store of one lane to the scratchpad of a gang's member, and stores to the crew's own that fail each check: beyond it,
misaligned, in a span that a step has armed, in a barrier. -/
def padCrew : Crew := { crew7 with bars := [{ off := 0x300, cbuf := false }] }
def armedStep : MStep := { wave := 0, crew := 0, handle := 1, tile := 5, fmt := .f16, aSp := true, bSp := true, sparse := 0, k := 8, m := 8, n := 8
                           a := [], b := [], spans := [(0x400, 64)] }
def padOne (armed : Bool) : State :=
  { baseOne vBase (sBase ++ [(13, 0x1000), (14, 0x101), (15, 0x400), (16, 0x300)]) with
    crews := [padCrew]
    clusters := { steps := if armed then [armedStep] else [] } :: List.replicate 23 {} }
def padWave : Wave := waveOne vBase (sBase ++ [(13, 0x1000), (14, 0x101), (15, 0x400), (16, 0x300)])
theorem witness_ScratchpadStores :
    (let x := lm 0 0 0 0 (.v 0) 13 (.v 1)
      let i := issueOf (.stS x .b32 true) gangOne gangWaveOne
      Issues (.stS x .b32 true) gangOne gangWaveOne ∧ Ready i crewG0 ∧ i.act = [3] ∧ (∃ d, storeData i.w 3 4 x.d = .ok d) ∧
      recGang crewG0.record = true ∧ ((effAddr i.w x 3).extractLsb' 32 3).toNat ≤ (recGsize crewG0.record).toNat ∧
      (i.s.gangMember crewG0 ((effAddr i.w x 3).extractLsb' 32 3).toNat).1 = some crewG1 ∧ i.s.crew? crewG1.key = some crewG1 ∧
      SMap.wf crewG1.scratch = true ∧ ((effAddr i.w x 3).extractLsb' 0 32).toNat < crewG1.scratchBytes ∧
      ((effAddr i.w x 3).extractLsb' 0 32).toNat % 4 = 0 ∧ i.s.armed crewG1 ((effAddr i.w x 3).extractLsb' 0 32).toNat 4 = false ∧
      crewG1.tagged ((effAddr i.w x 3).extractLsb' 0 32).toNat 4 = false) ∧
    (∀ p ∈ [(13, false), (14, false), (15, true), (16, false)],
      let x := atS p.1 (.v 1)
      let i := issueOf (.stS x .b32 false) (padOne p.2) padWave
      let off := ((effAddr i.w x 3).extractLsb' 0 32).toNat
      issuesB (.stS x .b32 false) (padOne p.2) padWave = true ∧ i.s.crew? i.w.crew = some padCrew ∧ i.act = [3] ∧
      (if p.1 = 13 then padCrew.scratchBytes ≤ off
       else if p.1 = 14 then off % 4 ≠ 0 ∧ off < padCrew.scratchBytes
       else if p.1 = 15 then i.s.armed padCrew off 4 = true ∧ off % 4 = 0 ∧ off < padCrew.scratchBytes
       else padCrew.tagged off 4 = true ∧ i.s.armed padCrew off 4 = false ∧ off % 4 = 0 ∧ off < padCrew.scratchBytes)) ∧
    ∃ d, storeData padWave 3 4 (.v 1) = .ok d :=
  ⟨⟨issues_of (by decide +kernel), ready_of (by decide +kernel), by decide +kernel, ⟨_, rfl⟩, by decide +kernel, by decide +kernel,
    by decide +kernel, by decide +kernel, by decide, by decide +kernel, by decide +kernel, by decide +kernel, by decide +kernel⟩,
    by decide +kernel, _, rfl⟩
theorem witness_PlainStoresAreSeen :
    (let x := at0 (.v 1)
      let i := issueOf (.stG x .b32 false) base wave
      Issues (.stG x .b32 false) base wave ∧ Ready i crew7 ∧ x.ord = 0 ∧ (∀ l, ∃ d, storeData i.w l 4 x.d = .ok d) ∧
      ∀ l ∈ i.act, Mapped i crew7 { w := true } 4 (effAddr i.w x l) (0x100000 + 4 * l) .rc) ∧
    (let x := at2 (.v 1)
      let i := issueOf (.stS x .b32 false) base wave
      Issues (.stS x .b32 false) base wave ∧ Ready i crew7 ∧ x.ord = 0 ∧ crew7.badLines = [] ∧ SMap.wf crew7.scratch = true ∧
      (∀ l, ∃ d, storeData i.w l 4 x.d = .ok d) ∧ ∀ l ∈ i.act, OwnScratch i crew7 4 (effAddr i.w x l) true) := by
  refine ⟨⟨issues_of (by decide +kernel), ready_of (by decide +kernel), by decide +kernel, fun _ => ⟨_, rfl⟩,
    mappedAll (kind := fun _ => .rc) (pa := fun l => 0x100000 + 4 * l) (va := fun l => effAddr _ _ l) (by decide +kernel)⟩,
    ⟨issues_of (by decide +kernel), ready_of (by decide +kernel), by decide +kernel, by decide +kernel, by decide +kernel, fun _ => ⟨_, rfl⟩,
    scratchAll (a := fun l => effAddr _ _ l) (by decide +kernel)⟩⟩
/-- Atomics of both spaces, returning and not; loft commands; loft.sax of lane 3 with two elements, 256 bytes apart. -/
theorem witness_AtomicsActInTurn :
    (let x := at0 (.v 1)
      let i := issueOf (.atomAdd x ⟨.b32, false, false, false⟩) base wave
      Issues (.atomAdd x ⟨.b32, false, false, false⟩) base wave ∧ Ready i crew7 ∧ base.Canonical ∧ i.s.inflight = [] ∧ i.s.badLines = [] ∧
      (∀ l, ∃ d, atomData i.w l 4 true false x.d = .ok d) ∧ (∀ l ∈ i.act, i.s.reaches (i.w.core / 96) (0x100000 + 4 * l) = true) ∧
      ∀ l ∈ i.act, Mapped i crew7 { r := true, w := true } 4 (effAddr i.w x l) (0x100000 + 4 * l) .rc) ∧
    (let x := lm 4 3 0 0 (.v 0) 7 (.v 1)
      let i := issueOf (.atomMax x ⟨.b32, false, true, false⟩) stale waveK
      Issues (.atomMax x ⟨.b32, false, true, false⟩) stale waveK ∧ Calm i crew7 ∧ stale.Canonical ∧ ordAcquire x.ord = true ∧
      (∀ l, ∃ d, atomData i.w l 4 true false x.d = .ok d) ∧ (∀ l ∈ i.act, i.s.reaches (i.w.core / 96) (0x6000000000 + 4 * l) = true) ∧
      i.act ≠ [] ∧ ∀ l ∈ i.act, Mapped i crew7 { r := true, w := true } 4 (effAddr i.w x l) (0x6000000000 + 4 * l) .rc) ∧
    (let x := at2 (.v 10)
      let i := issueOf (.atomCas x ⟨.b32, true, false, true⟩) base wave
      Issues (.atomCas x ⟨.b32, true, false, true⟩) base wave ∧ Ready i crew7 ∧ crew7.badLines = [] ∧ SMap.wf crew7.scratch = true ∧
      (∀ l, ∃ d, atomData i.w l 4 false true x.d = .ok d) ∧ ∀ l ∈ i.act, OwnScratch i crew7 4 (effAddr i.w x l) true) ∧
    (∀ j ∈ [Instr.loftAdd (at1 (.v 1)) ⟨false, true, false⟩, .loftCas (at1 (.v 10)) false true],
      let i := issueOf j base wave
      Issues j base wave ∧ Ready i crew7 ∧ (∀ l, ∃ d, loftData i.w l 4 true (.v 1) = .ok d) ∧
      (∀ l, ∃ d, atomData i.w l 4 false true (.v 10) = .ok d) ∧ i.s.inflight = [] ∧ i.s.badLines = [] ∧
      (∀ l ∈ i.act, isLoft (0x010000000000 + 4 * l) = true ∧ i.s.reaches (i.w.core / 96) (0x010000000000 + 4 * l) = true) ∧
      ∀ l ∈ i.act, Mapped i crew7 { r := true, w := true } 4 (effAddr i.w (at1 (.v 1)) l) (0x010000000000 + 4 * l) .rc) ∧
    (let v : SMap 32 := [(259, 0x3F800000), (323, 256), (355, 2)]
      let x := lm 0 0 0 0 (.inl 64) 1 (.v 8)
      let w := waveOne v sBase
      let i := issueOf (.loftSax x false) (baseOne v sBase) w
      Issues (.loftSax x false) (baseOne v sBase) w ∧ Ready i crew7 ∧ i.act = [3] ∧ (baseOne v sBase).Canonical ∧
      Mapped i crew7 { r := true, w := true } 4 (effAddr i.w x 3) 0x010000000000 .rc ∧ min (i.w.vreg 11 3).toNat 64 = 2 ∧
      (i.w.vreg 10 3).toInt = 256 ∧ meet (effAddr i.w x 3).toNat 8 (i.s.codeWindow 7).1 (i.s.codeWindow 7).2 = false ∧
      isLoft 0x010000000000 = true ∧ ((effAddr i.w x 3).toNat : Int) = 0x2000 ∧ i.s.inflight = [] ∧ i.s.badLines = [] ∧
      Config.homeSite 0x010000000000 = some (i.w.core / 96)) := by
  refine ⟨⟨issues_of (by decide +kernel), ready_of (by decide +kernel), rfl, by decide +kernel, by decide +kernel, fun _ => ⟨_, rfl⟩,
    by decide +kernel, mappedAll (kind := fun _ => .rc) (pa := fun l => 0x100000 + 4 * l) (va := fun l => effAddr _ _ l) (by decide +kernel)⟩,
    ⟨issues_of (by decide +kernel), calm_of (by decide +kernel), rfl, by decide, fun _ => ⟨_, rfl⟩, by decide +kernel, by decide +kernel,
    mappedAll (kind := fun _ => .rc) (pa := fun l => 0x6000000000 + 4 * l) (va := fun l => effAddr _ _ l) (by decide +kernel)⟩,
    ⟨issues_of (by decide +kernel), ready_of (by decide +kernel), by decide +kernel, by decide +kernel, fun _ => ⟨_, rfl⟩,
    scratchAll (a := fun l => effAddr _ _ l) (by decide +kernel)⟩, ?_,
    ⟨issues_of (by decide +kernel), ready_of (by decide +kernel), by decide +kernel, rfl, mapped_of (by decide +kernel),
    by decide +kernel, by decide +kernel, by decide +kernel, by decide +kernel, by decide +kernel, by decide +kernel, by decide +kernel,
    by decide +kernel⟩⟩
  have h : ∀ j ∈ [Instr.loftAdd (at1 (.v 1)) ⟨false, true, false⟩, .loftCas (at1 (.v 10)) false true],
      issuesB j base wave = true ∧ readyB (issueOf j base wave) crew7 = true ∧
      (issueOf j base wave).s.inflight = [] ∧ (issueOf j base wave).s.badLines = [] ∧ (∀ l ∈ (issueOf j base wave).act,
        isLoft (0x010000000000 + 4 * l) = true ∧ (issueOf j base wave).s.reaches ((issueOf j base wave).w.core / 96) (0x010000000000 + 4 * l) = true) ∧ ((issueOf j base wave).act.all fun l =>
        mappedB (issueOf j base wave) crew7 { r := true, w := true } 4 (effAddr (issueOf j base wave).w (at1 (.v 1)) l)
          (0x010000000000 + 4 * l) .rc) = true := by decide +kernel
  intro j hj
  obtain ⟨h1, h2, h5, h6, h3, h4⟩ := h j hj
  exact ⟨issues_of h1, ready_of h2, fun _ => ⟨_, rfl⟩, fun _ => ⟨_, rfl⟩, h5, h6, h3,
    mappedAll (kind := fun _ => .rc) (pa := fun l => 0x010000000000 + 4 * l) (va := fun l => effAddr _ (at1 (.v 1)) l) h4⟩
def stored : State := { base with inflight := [{ id := 1, core := 0, wave := 0, crew := 0, pa := 0x100000, data := [7], kind := .rc, scope := .crew }] }
def semaAt : LM := lm 0 0 0 0 (.inl 64) 0 (.s 4)
/-- The turn is 5; lane 3 waits for 5, 6 and 4. -/
def turns (k : DWord) : State := { baseOne [] [(0, 0x1000), (4, k)] with mem := [(0x100000, 5)] }
/-- The hypotheses of the clauses on fences, on tickets and gives, and on waits, as Booleans. -/
def fenceB (j : Instr) : Bool :=
  let i := issueOf j stored wave
  issuesB j stored wave && !i.act.isEmpty && readyB i crew7 && stored.mem.isEmpty && i.s.linkOpen && i.s.flows.isEmpty &&
    i.s.inflight.length = 1 && i.s.inflight.all fun y => y.core = i.w.core && y.scope = .crew && Config.homeSite y.pa = some (i.w.core / 96)
def semaB (j : Instr) : Bool :=
  let i := issueOf j base wave
  issuesB j base wave && readyB i crew7 && base.mem.isEmpty && i.s.inflight.isEmpty && i.s.badLines.isEmpty &&
    (i.s.waves.all fun y => y.lanes.all fun z => z.block == .none) && !i.act.isEmpty && i.act.all fun l =>
    mappedB i crew7 { r := true, w := true } 8 (effAddr i.w (lm 0 0 1 0 (.v 0) 0 (.v 4)) l) (0x100000 + 8 * l) .rc &&
    Config.homeSite (0x100000 + 8 * l) = some 0 && Config.homeSite (0x100000 + 8 * l + 4) = some 0
def turnB (k : DWord) : Bool :=
  let w := waveOne [] [(0, 0x1000), (4, k)]
  let i := issueOf (.semaWait semaAt) (turns k) w
  issuesB (.semaWait semaAt) (turns k) w && readyB i crew7 && i.act = [3] && (readOne i.w 3 false semaAt.d).toOption = some k &&
    mappedB i crew7 { r := true, w := true } 8 (effAddr i.w semaAt 3) 0x100000 .rc && readNum i.s.homeByte 0x100000 4 = 5
theorem witness_FencesAndTurns : ([Instr.fenceCb (lm 4 2 0 0 (.v 0) 0 (.v 0)), .fence (lm 4 3 0 0 (.v 0) 0 (.v 0))].all fenceB &&
    [Instr.semaTake (lm 0 0 1 0 (.v 0) 0 (.v 4)), .semaGive (lm 0 0 1 0 (.v 0) 0 (.v 0))].all semaB &&
    [(5 : DWord), 6, 4].all turnB) = true := by decide +kernel

/-- A crew with a barrier object at 0x100: EXP 3, ARR, BYTES 0, PH 1; and one without. -/
def barCrew (arr : Nat) : Crew :=
  { crew7 with scratch := SMap.setRun [] 0x100 (toBytes (barObj 3 (BitVec.ofNat 14 arr) 0 0 1) 16), bars := [{ off := 0x100, cbuf := false }] }
def barState (c : Crew) : State := { baseOne [] sBase with crews := [c] }
def atBar (d : Sel) : LM := lm 0 0 0 0 (.inl 64) 2 d
/-- What every clause asks of lane 3 and the object at 0x100. -/
def barB (j : Instr) (c : Crew) : Bool :=
  let w := waveOne [] sBase
  let i := issueOf j (barState c) w
  issuesB j (barState c) w && readyB i c && decide (i.act = [3]) && SMap.wf c.scratch &&
    scratchB i c 16 (effAddr i.w (atBar (.v 4)) 3) false && decide (((effAddr i.w (atBar (.v 4)) 3).extractLsb' 0 32).toNat = 0x100)
/-- The object at 0x100 and its slot, with the arrivals `arr`. -/
def objB (arr : Nat) : Bool :=
  let c := barCrew arr
  c.slotAt 0x100 = some { off := 0x100, cbuf := false } && (c.barWord 0x100).arr = BitVec.ofNat 14 arr && (c.barWord 0x100).exp = 3 &&
    (c.barWord 0x100).ph = 1 && (c.barWord 0x100).bytes = 0 && !(barState c).lanesOn 0 0x100
def gbarB : Bool :=
  let j : Instr := .gbar (lr 0 0 0 (.v 0) (.v 0) (.v 0) (.v 0))
  let i := issueOf j base wave
  issuesB j base wave && readyB i crew7 && !i.act.isEmpty && i.s.inflight.isEmpty && i.s.flows.isEmpty && i.s.linkOpen &&
    !recGang crew7.record && crew7.gbar = 0 && i.w.num < 32 && i.w.lanes.length = 32 && i.s.waves.all fun y => y.key = i.w.key
theorem witness_BarriersOpenWhenComplete :
    (([Sel.inl 65, .s 3].all fun d => barB (.barInit (atBar d)) crew7) && (crew7.slotAt 0x100).isNone && crew7.bars.length < 16 &&
    ([Instr.barArrive (atBar (.v 4)), .barWait (atBar (.s 4)), .barSync (atBar (.v 0)), .barExpect (atBar (.s 4)), .barFree (atBar (.v 0))].all
      fun j => barB j (barCrew 0) && barB j (barCrew 2)) && objB 0 && objB 2 && gbarB) = true := by decide +kernel
theorem witness_barrier_operand (l : Nat) : readOne (waveOne [] sBase) l false (.inl 65) = .ok 1 := rfl
/-! Matrix instructions on a wave whose handle m1 has tile 5 (f32) and whose other handles have none; s8 and s12 name operands of
8 x 8 f16 elements in the scratchpad, s4 and s5 a base and a row stride. -/
def tileWave : Wave := { wave7 vBase [(4, 0x200), (5, 32), (9, 16), (12, 0x80), (13, 16)] with
  handles := [none, some 5, none, none, none, none, none, none] }
def mStep (batch : Option Nat) (tile : Nat) (st : StepState) : MStep :=
  { wave := 0, crew := 0, handle := 1, tile := tile, fmt := .f16, aSp := true, bSp := true, sparse := 0, k := 8, m := 8, n := 8
    a := [0, 16, 0, 0], b := [0x80, 16, 0, 0], batch := batch, state := st }
def tileState (steps : List MStep) : State :=
  { world [] [] with waves := [tileWave], clusters := { tiles := (List.replicate 64 ({} : Tile)).set 5 { owner := some 0, m := 8, n := 8 }
                                                        steps := steps } :: List.replicate 23 {} }
def tileB (j : Instr) (steps : List MStep) (more : Issue → Bool) : Bool :=
  let i := issueOf j (tileState steps) tileWave
  issuesB j (tileState steps) tileWave && !i.act.isEmpty && i.w.cluster < i.s.clusters.length && !i.s.waveLogged i.w.core i.w.key &&
    i.w.handles.length = 8 && (i.s.cluster i.w.cluster).tiles.length = 64 && more i
/-- The tile is idle. -/
def idleB (t : Nat) (i : Issue) : Bool :=
  t < 64 && !i.s.tileOpen i.w.cluster t i.w.key && (i.s.cluster i.w.cluster).moves.all fun m => m.tile ≠ t
def leM (f10 : BitVec 10) (a b c d : Sel) : LE := ⟨hd, f10, c, b, a, d⟩
/-- Page 1 of launch 7 lies at 0x100000, in readable and writable memory of site A. -/
theorem lowPage {pa : Nat} (h : pa < 0x006000000000) : isWindow pa = false ∧ Config.homeSite pa = some 0 := by
  simp [isWindow, Config.homeSite, Config.region, h]
theorem probes_of {i : Issue} {c : Crew} {need : Need} (h : (match i.s.tlb? (i.w.core / 96) c.launch (4096 * 1) with
    | some t => decide (i.s.xlatOf t (4096 * 1) = .ok 0x100000 .rc t.leaf) && !denies t.leaf c.priv need && (!need.w || t.dirty)
    | none => false) = true) : Probes i c need 1 0x100000 .rc := by
  revert h
  split
  · rename_i t ht
    intro h
    simp only [Bool.and_eq_true, decide_eq_true_eq, Bool.or_eq_true, Bool.not_eq_true'] at h
    refine ⟨⟨t, ht, h.1.1, h.1.2, fun hw => ?_⟩, fun k hk => (lowPage (by omega)).1⟩
    rcases h.2 with h' | h'
    · rw [hw] at h'; cases h'
    · exact h'
  · intro h; cases h
/-- mma.ld and mma.st of 8 x 8 f32 elements at 0x1040 with rows of 32 bytes: all in page 1. -/
def tileFar : Wave := { tileWave with s := [(4, 0x1040), (5, 32)] }
def tileFarS : State := { tileState [] with waves := [tileFar] }
def ldFar : Instr := .mmaLd (leM 0 (.s 4) (.s 5) (.v 8) (.m 1)) false false
def stFar : Instr := .mmaSt (leM 0 (.s 4) (.s 5) (.v 8) (.m 1)) .f32 false
theorem witness_MatrixAccessesToMemory :
    (∀ j ∈ [ldFar, stFar], let i := issueOf j tileFarS tileFar
      issuesB j tileFarS tileFar = true ∧ i.act ≠ [] ∧ i.s.waveLogged i.w.core i.w.key = false ∧ i.s.crew? i.w.crew = some crew7 ∧
      i.w.handle 1 = some 5 ∧ idleB 5 i = true ∧ (i.s.tile i.w.cluster 5).wide = false ∧ (i.s.tile i.w.cluster 5).poison = false ∧
      (engineOp i true (.s 4)).toNat = 0x1040 ∧ (engineOp i true (.s 5)).toInt = 32 ∧
      i.s.siteA.dsLines ++ i.s.siteB.dsLines = []) ∧
    Probes (issueOf ldFar tileFarS tileFar) crew7 { r := true } 1 0x100000 .rc ∧
    Probes (issueOf stFar tileFarS tileFar) crew7 { w := true } 1 0x100000 .rc ∧
    ∀ r < 8, 4096 ≤ rowAt 0x1040 32 r ∧ rowAt 0x1040 32 r + 32 ≤ 8192 :=
  ⟨by decide +kernel, probes_of (by decide +kernel), probes_of (by decide +kernel), by decide +kernel⟩
theorem witness_MatrixInstructionsAct :
    (-- mma.step of K = 8 and K = 256 would differ in C alone
     tileB (.mmaStep (leM 0 (.s 8) (.s 12) (.inl 72) (.m 1)) .f16 true true) [] (fun i =>
      let da := descOf true (i.w.sFour (.s 8))
      let db := descOf true (i.w.sFour (.s 12))
      i.w.handle 1 = some 5 && ((i.s.cluster i.w.cluster).tiles.getD 5 {}).m = 8 && ((engineOp i false (.inl 72)).setWidth 32).toNat = 8 &&
      da.base % 16 = 0 && da.stride % 16 = 0 && db.base % 16 = 0 && db.stride % 16 = 0 &&
      (rangeCheck true (i.s.crewBytes i.w.crew) (da.arrays .f16 8 8 0)).isNone &&
      (rangeCheck true (i.s.crewBytes i.w.crew) (db.arrays .f16 8 8 0)).isNone) &&
     tileB (.mmaCommit (leM 2 (.v 0) (.v 0) (.v 0) (.v 0))) [mStep none 5 .queued, mStep (some 1) 5 .done] (fun _ => true) &&
     tileB (.mmaWait (leM 2 (.v 0) (.v 0) (.v 0) (.v 8)) true) [mStep (some 2) 5 .done] (fun _ => true) &&
     tileB (.mmaWait (leM 2 (.v 0) (.v 0) (.v 0) (.v 0)) false) [mStep (some 2) 5 .queued] (fun _ => true) &&
     -- a handle without a tile takes the first free one
     tileB (.mmaZero (leM 0 (.v 0) (.v 0) (.v 0) (.m 3)) true) [] (fun i => i.s.tileFor i.w 3 = some 0 && idleB 0 i) &&
     tileB (.mmaZeroFree (leM 1 (.v 0) (.v 0) (.v 0) (.m 3))) [] (fun i => (i.w.handle 3).isNone) &&
     tileB (.mmaZeroFree (leM 1 (.v 0) (.v 0) (.v 0) (.m 1))) [] (fun i => i.w.handle 1 = some 5 && idleB 5 i) &&
     tileB (.mmaLd (leM 0 (.s 4) (.s 5) (.v 8) (.m 1)) false true) [] (fun i => i.w.handle 1 = some 5 && idleB 5 i &&
      ((engineOp i true (.s 4)).setWidth 32).toNat = 0x200 && (engineOp i true (.s 5)).toInt = 32 &&
      (rangeCheck true (i.s.crewBytes i.w.crew) [(0x200, 32, 8, 32)]).isNone) &&
     tileB (.mmaLd (leM 0 (.s 4) (.s 5) (.v 8) (.m 3)) false true) [] (fun i => (i.w.handle 3).isNone && i.s.tileFor i.w 3 = some 0 && idleB 0 i) &&
     tileB (.mmaSt (leM 0 (.s 4) (.s 5) (.v 8) (.m 1)) .f32 true) [] (fun i => i.w.handle 1 = some 5 && idleB 5 i &&
      !(i.s.tile i.w.cluster 5).poison && !(i.s.tile i.w.cluster 5).wide &&
      (rangeCheck true (i.s.crewBytes i.w.crew) [(0x200, 32, 8, 32)]).isNone) &&
     tileB (.mmaProg (leM 0 (.m 3) (.v 0) (.v 0) (.v 8))) [] (fun i => (i.w.handle 3).isNone) &&
     tileB (.mmaProg (leM 0 (.m 1) (.v 0) (.v 0) (.s 8))) [] (fun i => i.w.handle 1 = some 5 && idleB 5 i)) = true := by decide +kernel

/-! A raw copy of 16 words within the scratchpad, at template 0; template 1 is empty, and the bank ends at template 16. -/
def rawCopy : BitVec 512 := BitVec.ofNat 512 (0x8000 + 31 * 2 ^ 16 + 31 * 2 ^ 21 + 2 ^ 32 + 2 ^ 34 + 16 * 2 ^ 64)
def bankLaunch : Launch := { launch7 with bank := SMap.setRun [] 0 (toBytes rawCopy 64) }
def copyState : State := { world [] [(1, 0), (2, 0x400)] with launches := [bankLaunch] }
def copyB (idx : BitVec 7) (more : Issue → Tmpl → Bool) : Bool :=
  let x := leM 0 (.s 1) (.s 2) (.inl idx) (.v 8)
  let w := wave7 [] [(1, 0), (2, 0x400)]
  let i := issueOf (.copy x) copyState w
  issuesB (.copy x) copyState w && !i.act.isEmpty && readyB i crew7 && SMap.wf crew7.scratch && i.s.launch? crew7.launch = some bankLaunch &&
    (i.s.cluster crew7.cluster).copies.length < 16 && crew7.cluster < i.s.clusters.length &&
    more i (BitVec.ofNat 512 (ofBytes ((List.range 64).map fun k => SMap.get bankLaunch.bank (64 * (idx.toNat - 64) + k))))
/-- A crew with a circular buffer of two slots of 64 bytes at 0x800: its object at 0x100, with `full` full slots. -/
def ringCrew (full : Nat) : Crew :=
  { crew7 with scratch := SMap.setRun [] 0x100 (toBytes (cbufObj 0x800 64 2 full 0 (1 - full) full) 16), bars := [{ off := 0x100, cbuf := true }] }
def ringB (j : Instr) (c : Crew) (more : Issue → Bool) : Bool :=
  let s : State := { base with crews := [c] }
  let i := issueOf j s wave
  issuesB j s wave && !i.act.isEmpty && readyB i c && SMap.wf c.scratch && more i
/-! Copies with the engine's probe: of global memory, by an index array, of a band, and to a circular buffer. -/
def tmplOf (low count0 count1 ss1 aux : Nat) : BitVec 512 :=
  BitVec.ofNat 512 (low + 0x8000 + 31 * 2 ^ 16 + 31 * 2 ^ 21 + count0 * 2 ^ 64 + count1 * 2 ^ 96 + ss1 * 2 ^ 128 + aux * 2 ^ 320)
def tmpls : List (BitVec 512) := [tmplOf (2 ^ 32 + 2 ^ 34 + 2 ^ 37 + 0x100 * 2 ^ 288) 16 0 0 0, tmplOf (2 + 2 ^ 34) 4 0 0 (0x303 + 100 * 2 ^ 32),
  tmplOf (2 ^ 32) 16 0 0 0, tmplOf (2 ^ 34) 16 0 0 0, tmplOf (1 + 2 ^ 8 + 2 ^ 32 + 2 ^ 34) 1 2 4 0x1000]
def bankOf : Launch := { launch7 with bank := SMap.setRun [] 0 ((tmpls.map fun t => toBytes t 64).flatten) }
def fromTo : SMap 64 := [(1, 0x1040), (2, 0x400), (3, 0x80), (4, 0x1100)]
def copyWave : Wave := wave7 [] fromTo
def copiesOf (c : Crew) : State := { world [] fromTo with launches := [bankOf], crews := [c] }
/-- Template k, copied from s register a to s register b. -/
def copyOf (k : BitVec 7) (a b : BitVec 6) : LE := leM 0 (.s a) (.s b) (.inl (64 + k)) (.v 8)
def issueCopy (k : BitVec 7) (a b : BitVec 6) (c : Crew) : Issue := issueOf (.copy (copyOf k a b)) (copiesOf c) copyWave
def hereB (k : BitVec 7) (a b : BitVec 6) (c : Crew) (more : Issue → Tmpl → Bool) : Bool :=
  let i := issueCopy k a b c
  let t : Tmpl := BitVec.ofNat 512 (ofBytes ((List.range 64).map fun n => SMap.get bankOf.bank (64 * k.toNat + n)))
  issuesB (.copy (copyOf k a b)) (copiesOf c) copyWave && !i.act.isEmpty && readyB i c && SMap.wf c.scratch &&
    i.s.launch? c.launch = some bankOf && (i.s.cluster c.cluster).copies.length < 16 && c.cluster < i.s.clusters.length &&
    64 * k.toNat < bankOf.bankBytes && t.valid && tmpls.getD k.toNat 0 = t && more i t
theorem onPage1 {a n p : Nat} (ha : 4096 ≤ a) (hb : a + n ≤ 8192) (h : reachesPage a n p) : p = 1 := by
  obtain ⟨h1, h2⟩ := h
  omega
/-- Each kind of copy meets its hypotheses; the runs of those with global memory lie in page 1, as their index array does. -/
theorem witness_CopiesOfEachKind :
    (hereB 0 2 3 (ringCrew 0) (fun i t => t.kind = 0 && t.srcSp && t.cb && ((ringCrew 0).cbufAt t.cbuf).isSome && t.runs [] = [(some 0, 0)] &&
      t.srcRun = 64 && t.dstRun = 64 && 0x400 + 64 ≤ (ringCrew 0).scratchBytes && 0x800 + 2 * 64 ≤ (ringCrew 0).scratchBytes &&
      !i.s.armed (ringCrew 0) 0x800 128 && !(ringCrew 0).tagged 0x800 128) &&
     hereB 1 1 2 crew7 (fun i t => t.kind = 2 && t.dstSp && !t.cb && 0x400 + 32 * t.count0 ≤ crew7.scratchBytes &&
      !i.s.armed crew7 0x400 (32 * t.count0) && !crew7.tagged 0x400 (32 * t.count0)) &&
     hereB 2 2 1 crew7 (fun i t => t.kind = 0 && t.srcSp && !t.dstSp && !t.cb && t.runs [] = [(some 0, 0)] && t.dstRun = 64 &&
      engineOp i true (.s 1) = 0x1040 && !meet 0x1040 64 bankOf.codeBase (5 * bankOf.window)) &&
     hereB 3 1 2 crew7 (fun i t => t.kind = 0 && !t.srcSp && t.dstSp && !t.cb && t.runs [] = [(some 0, 0)] && t.srcRun = 64 &&
      crew7.core = i.w.core && !i.s.armed crew7 0x400 64) &&
     hereB 4 2 3 crew7 (fun i t => t.kind = 1 && t.srcSp && t.dstSp && !t.cb && t.aux = 0x1000 && t.n1 = 2 && crew7.core = i.w.core &&
      t.runs [some 0, some 0] = [(some 0, 0), (some 0, 0)] && !i.s.armed crew7 0x80 4)) = true ∧
    Probes (issueCopy 2 2 1 crew7) crew7 { w := true } 1 0x100000 .rc ∧ Probes (issueCopy 3 1 2 crew7) crew7 { r := true } 1 0x100000 .rc ∧
    (∀ a n p : Nat, 4096 ≤ a → a + n ≤ 8192 → reachesPage a n p → p = 1) ∧
    (∀ k < 4096, Config.homeSite (0x100000 + k) = some 0) ∧
    (issueCopy 2 2 1 crew7).s.siteA.dsLines ++ (issueCopy 2 2 1 crew7).s.siteB.dsLines = [] ∧
    EngineSees (issueCopy 3 1 2 crew7).s 0 :=
  ⟨by decide +kernel, probes_of (by decide +kernel), probes_of (by decide +kernel), fun _ _ _ => onPage1, fun k hk => (lowPage (by omega)).2,
    by decide +kernel, by decide +kernel, by decide +kernel, by
      have h : ∀ k < 3, (issueCopy 3 1 2 crew7).s.copiesAt 0 k = [] := by decide +kernel
      intro k _ hk p hp; rw [h k hk] at hp; cases hp⟩
theorem witness_CopiesAndBuffers :
    (copyB 80 (fun _ _ => bankLaunch.bankBytes ≤ 64 * 16) && copyB 65 (fun _ t => 64 * 1 < bankLaunch.bankBytes && !t.valid) &&
     copyB 64 (fun i t => t = rawCopy && t.valid && t.kind = 0 && t.srcSp && t.dstSp && !t.cb &&
      (t.runs []) = [(some 0, 0)] && t.srcRun = 64 && t.dstRun = 64 && 0x400 + 64 ≤ crew7.scratchBytes &&
      !i.s.armed crew7 0x400 64 && !crew7.tagged 0x400 64) &&
     ringB (.cbufInit (leM 0 (.s 2) (.s 3) (.v 0) (.v 0))) crew7 (fun _ => true) &&
     (let w := wave7 [] [(2, 0x100), (3, 0x0002004000000800)]
      let s : State := world [] [(2, 0x100), (3, 0x0002004000000800)]
      let j : Instr := .cbufInit (leM 0 (.s 2) (.s 3) (.v 0) (.v 0))
      let i := issueOf j s w
      let g := engineOp i true (.s 3)
      issuesB j s w && ((engineOp i false (.s 2)).setWidth 32).toNat = 0x100 && (g.extractLsb' 0 32).toNat = 0x800 &&
        (g.extractLsb' 32 16).toNat = 64 && (g.extractLsb' 48 8).toNat = 2 && (crew7.slotAt 0x100).isNone && !meet 0x100 16 0x800 128) &&
     ([0, 1].all fun n => ringB (.cbufTake (leM 0 (.s 2) (.v 0) (.v 0) (.v 8))) (ringCrew n) (fun i =>
      ((engineOp i false (.s 2)).setWidth 32).toNat = 0x100 && (ringCrew n).slotAt 0x100 = some { off := 0x100, cbuf := true } &&
      ((ringCrew n).barWord 0x100).full = n && ((ringCrew n).barWord 0x100).num = 2 && ((ringCrew n).barWord 0x100).take = 0)) &&
     ringB (.cbufGive (leM 0 (.s 2) (.v 0) (.v 0) (.v 0))) (ringCrew 0) (fun i =>
      ((ringCrew 0).barWord 0x100).free + ((ringCrew 0).barWord 0x100).full + i.s.filling (ringCrew 0) 0x100 < 2)) = true := by decide +kernel

/-! Queue registers of lane 3: the pair q0, q1 bound to port 1, with records `outs` and pushes `fly`. -/
def portWave (n : Nat) (outs : List OutRec) : Wave :=
  { waveOne vBase sBase with ports := { code := 1, flight := List.replicate n ⟨0, 3, [], 1, 0, [], [], [], [], none, false⟩, outs := outs } :: List.replicate 3 {} }
def portB (j : Instr) (n : Nat) (outs : List OutRec) (more : Issue → Port → Bool) : Bool :=
  let w := portWave n outs
  let s : State := { base with waves := [w] }
  let i := issueOf j s w
  issuesB j s w && i.act = [3] && i.w.ports.length = 4 && (i.w.port 0).code = 1 && more i (i.w.port 0)
def onceB (j : Instr) (s : State) (w : Wave) (c : Crew) (more : Issue → Bool) : Bool :=
  let i := issueOf j s w
  issuesB j s w && !i.act.isEmpty && readyB i c && i.s.inflight.isEmpty && i.s.flows.isEmpty && i.s.linkOpen && i.s.badLines.isEmpty && more i
/-- A wave that exposes the record that the spec works out for band 240 x 0 (16 R377), for site A; and one for no site. -/
def recordWave (view : Nat) : Wave := waveOne (SMap.setAll []
  [(259, 0x10001E08), (291, 0xC0000F04), (323, 0x3A98), (355, 0x3F800000), (387, 0x3C00), (419, 0x38003C00), (451, BitVec.ofNat 32 (view * 2 ^ 24 + 0x3400))]) []
theorem witness_PortsAndRecords :
    (let push : Instr := .movQPush (lr 0 2 2 (.v 0) (.v 0) (.v 1) (.q 0)) .i32
     let pop : Instr := .movQPop (.long (lr 0 7 0 (.v 0) (.v 0) (.q 1) (.v 16)) .i32)
     portB push 0 [] (fun _ p => p.inFlight 3 < 8 && p.ready 3 < 8) && portB push 7 [] (fun _ p => p.inFlight 3 < 8 && p.ready 3 < 8) &&
     portB push 8 [] (fun _ p => 8 ≤ p.inFlight 3) && portB pop 0 [⟨3, [1]⟩] (fun _ p => (p.outs.find? fun o => o.lane = 3).isSome) &&
     portB pop 0 [⟨4, []⟩] (fun _ p => (p.outs.all fun o => o.lane ≠ 3) && p.inFlight 3 = 0) &&
     portB pop 1 [] (fun _ p => p.outs.isEmpty && 0 < p.inFlight 3) &&
     onceB (.qbind (leM 0 (.inl 64) (.s 0) (.v 0) (.q 2))) base wave crew7 (fun i => (i.w.port 1).flight.isEmpty && (i.w.port 1).held.isEmpty) &&
     onceB (.qbind (leM 0 (.inl 69) (.s 0) (.v 0) (.q 2))) base wave crew7 (fun i => i.w.ports.length = 4 &&
       mappedB i crew7 { r := true } 64 (engineOp i true (.s 0)) 0x100000 .rc && Config.homeSite 0x100000 = some (i.w.core / 96) &&
       (i.s.cluster i.w.cluster).blocks.isEmpty) &&
     portB (.qstat (leM 0 (.q 1) (.v 0) (.v 0) (.v 8))) 8 [⟨3, []⟩] (fun i p => i.act.all fun m => p.ready m < 256) &&
     onceB (.meterPost (leM 0 (.s 0) (.v 0) (.v 0) (.v 0))) base wave crew7 (fun i =>
       mappedB i crew7 { r := true } 64 (engineOp i true (.s 0)) 0x100000 .rc && (i.s.site 0).blocks.isEmpty && (i.s.site 0).meter.part.isEmpty &&
       !hdrValid (BitVec.ofNat 512 (ofBytes ((List.range 64).map fun n => i.s.homeByte (0x100000 + n))))) &&
     ([0, 1].all fun view => let w := recordWave view
       let s : State := { base with waves := [w] }
       let j : Instr := .expose (leM 0 (.v 8) (.v 0) (.v 0) (.v 0))
       let i := issueOf j s w
       let q := cleanRecord (laneRecord i.w 8 3)
       issuesB j s w && i.act = [3] && recView q = BitVec.ofNat 8 view && recX q < 0xF000 && recY q < 0xF000 &&
         SMap.wf (i.s.site 0).neg.counts)) = true := by decide +kernel

/-! Queue A in page 1, with a ring of four slots at 0x1400. -/
def queueA (st : QState) (head tail : Word) : Queue :=
  { desc := 0x100000, state := st, owner := 7, prio := 0, log2cap := 2, base := 0x1400, head := head, tail := tail }
def takesB (s : State) (site : Nat) (q : Queue) (p : Nat) : Bool :=
  decide (s.queue? q.desc = some (site, q)) && decide (q.state = .opened) && !q.full &&
    unitB s site q.owner (q.slot q.tail) 64 true { w := true } p && decide (Config.homeSite q.desc = some site) && s.inflight.isEmpty
theorem takes_of {s : State} {site : Nat} {q : Queue} {p : Nat} (h : takesB s site q p = true) : TakesRecord s site q p := by
  simp only [takesB, Bool.and_eq_true, decide_eq_true_eq, Bool.not_eq_true', List.isEmpty_iff] at h
  obtain ⟨⟨⟨⟨⟨h1, h2⟩, h3⟩, h4⟩, h5⟩, h6⟩ := h
  exact ⟨h1, h2, h3, unit_of h4, h5, fun x hx => by simp [h6] at hx⟩
def calmHere (j : Instr) (s : State) (w : Wave) (more : Issue → Bool) : Bool :=
  let i := issueOf j s w
  issuesB j s w && !i.act.isEmpty && calmB i crew7 && more i
/-- Lane 3 alone, with a record in v8 to v23. -/
def postWave (r : BitVec 512) : Wave :=
  waveOne (SMap.setAll [] ((List.range 16).map fun k => (32 * (8 + k) + 3, r.extractLsb' (32 * k) 32))) sBase
def postB (r : BitVec 512) (qs : List Queue) (more : Issue → Bool) : Bool :=
  let x : LE := leM 0 (.v 8) (.s 0) (.v 0) (.v 30)
  let w := postWave r
  let s : State := { base with waves := [w], siteA := { tlb := tlb7, queues := qs } }
  calmHere (.post x) s w (fun i => decide (i.act = [3]) && i.s.badLines.isEmpty && s.mem.isEmpty &&
    mappedB i crew7 { r := true } 64 (engineOp i true (.s 0)) 0x100000 .rc && decide (i.s.launch? crew7.launch = some launch7) &&
    decide (postRecord i.w 8 3 = r) && more i)
/-- A completion counter of 2 at the address of s0, of a data structure where `ds` holds. -/
def joinB (ds : Bool) (n : Nat) (more : Issue → Bool) : Bool :=
  let x : LE := leM 0 (.s 0) (.inl (BitVec.ofNat 7 (64 + n))) (.inl 66) (.v 0)
  let s : State := { base with mem := [(0x100000, 2)] ++ if ds then [(0x100004, 1)] else [] }
  calmHere (.join x) s wave (fun i =>
    let v : BitVec 256 := BitVec.ofNat 256 (ofBytes (i.s.homeBytes 0x100000 32))
    SMap.wf s.mem && i.s.badLines.isEmpty && mappedB i crew7 { r := true, w := true } 32 (engineOp i true (.s 0)) 0x100000 .rc &&
    decide (Config.homeSite 0x100000 = some 0) && decide (v.extractLsb' 0 32 = 2) && (v.getLsbD 32 == ds) &&
    decide (((engineOp i false (.inl (BitVec.ofNat 7 (64 + n)))).setWidth 32) = n) && more i)
theorem witness_TaskOperations :
    ((-- spawn of 0 and of 32 waves answers 0; a crew of one wave has room for 31 more
      [64, 96].all fun n => calmHere (.spawn (leM 0 (.inl 64) (.inl n) (.v 0) (.v 8))) base wave fun i =>
        let k := ((engineOp i false (.inl n)).setWidth 32).toNat
        decide (k = 0 ∨ 32 < (i.s.crewNums crew7.key).length + k)) &&
     ([65, 95].all fun n => calmHere (.spawn (leM 0 (.inl 64) (.inl n) (.v 0) (.v 8))) base wave fun i =>
        let k := ((engineOp i false (.inl n)).setWidth 32).toNat
        decide (0 < k ∧ (i.s.crewNums crew7.key).length + k ≤ 32 ∧ i.s.crewNums crew7.key = [0]) &&
          i.s.hasRoom crew7.core k (recBlocks crew7.record) 0) &&
     -- PRIV without privilege, an invalid record, no queue, a closed and a faulted one, a full one, one with a last free slot
     postB privTask7 [] (fun _ => recPriv privTask7 && !crew7.priv) &&
     postB (task7 ||| 0x100000000) [] (fun _ => !recordValid launch7.gmax launch7.priv (task7 ||| 0x100000000)) &&
     postB task7 [] (fun i => recordValid launch7.gmax launch7.priv task7 && (i.s.queue? 0x100000).isNone) &&
     ([QState.closed, .faulted].all fun st => postB task7 [queueA st 0 0] fun i => decide (i.s.queue? 0x100000 = some (0, queueA st 0 0))) &&
     postB task7 [queueA .opened 2 6] (fun i => decide (i.s.queue? 0x100000 = some (0, queueA .opened 2 6)) && (queueA .opened 2 6).full) &&
     postB task7 [queueA .opened 0xFFFFFFFF 2] (fun i => takesB i.s 0 (queueA .opened 0xFFFFFFFF 2) 0x100480) &&
     -- join by more than the count, by 0, by less and to 0, with and without a phase
     joinB false 3 (fun _ => true) && joinB false 0 (fun _ => true) && joinB false 1 (fun _ => true) && joinB true 2 (fun _ => true) &&
     joinB false 2 (fun i => match i.s.continueFire ⟨7, false, 0, 0, 0, 0, none⟩ with
      | .next _ => true
      | _ => false) &&
     calmHere (.taskEnd (leM 0 (.inl 64) (.v 0) (.v 0) (.v 0))) base wave (fun i => i.w.tags.all (·.isNone) && i.w.direct.isNone &&
      i.s.quiet i.w && decide (i.w.lanes.length = 32))) = true := by decide +kernel

/-! A fragment of lane 5 of wave 1, in the last entry of core 0, in its tenth use. -/
def sFrag : SMap 64 := [(0, 0x3F09), (1, 0x3F08), (2, 5), (3, 6), (4, 32), (5, 0x10000), (6, 2), (7, 1)]
def fragWave : Wave := { newWave 0 1 0 0 1 0 [] with lanes := (List.range 32).map fun l => if l = 5 then { life := .parked } else {} }
def fragEntry : Bivouac := { state := .delivered, gen := 9, wave := fragWave.key, launch := 7, lanes := [5], ring := some 0 }
def fragState : State := { baseOne [] sFrag with
  waves := [waveOne [] sFrag, fragWave], cores := { bivouac := List.replicate 63 {} ++ [fragEntry] } :: List.replicate 191 {} }
def fragB (j : Instr) (more : Issue → Bool) : Bool :=
  calmHere j fragState (waveOne [] sFrag) fun i => decide (i.act = [3]) && decide ((i.s.core 0).bivouac.getD 63 {} = fragEntry) &&
    decide (i.s.wave? fragEntry.wave = some fragWave) && (i.s.waves.all fun z => z.parked.isEmpty) &&
    decide (0 < i.s.cores.length ∧ 63 < (i.s.core 0).bivouac.length) && more i
def readsB (r : Except (BitVec 16) DWord) (v : DWord) : Bool :=
  match r with
  | .ok x => x == v
  | .error _ => false
theorem witness_FragmentOperations :
    (fragEntry.state != .free && fragEntry.launch == crew7.launch && decide (fidOf 0 63 fragEntry.gen = 0x3F09) &&
     decide (fidOf 0 63 8 = 0x3F08) &&
     -- a lane past the last, one outside the fragment, its lane with an element that its empty latch lacks, and its predicates; a stale FID
     ([(0, 4, 0), (0, 3, 0), (0, 2, 272), (0, 2, 256), (1, 2, 256)].all fun q => fragB
      (.fragRead (leM (BitVec.ofNat 10 q.2.2) (.s (BitVec.ofNat 6 q.1)) (.s (BitVec.ofNat 6 q.2.1)) (.v 0) (.v 8))) fun i =>
        decide (laneOp i 3 (.s (BitVec.ofNat 6 q.1)) = (if q.1 = 0 then 0x3F09 else 0x3F08)) &&
        decide (laneOp i 3 (.s (BitVec.ofNat 6 q.2.1)) = BitVec.ofNat 32 ([5, 6, 32].getD (q.2.1 - 2) 0))) &&
     decide (targetValue fragEntry fragWave 5 272 = none) && decide (targetValue fragEntry fragWave 5 256 ≠ none) &&
     ([(4, 0), (3, 0), (2, 259), (2, 255), (2, 256), (2, 257)].all fun q => fragB
      (.fragWrite (leM (BitVec.ofNat 10 q.2) (.s 0) (.s (BitVec.ofNat 6 q.1)) (.s 6) (.v 8))) fun i =>
        decide (laneOp i 3 (.s 0) = 0x3F09) && readsB (readOne i.w 3 false (.s 6)) 2) &&
     targetWritable 255 && targetWritable 256 && targetWritable 257 && !targetWritable 259 && SMap.wf fragWave.v &&
     -- resume of a stale FID, with mode 2, with modes 0 and 1
     ([(1, 64), (0, 66), (0, 64), (0, 65)].all fun q => fragB
      (.fragResume (leM 0 (.s (BitVec.ofNat 6 q.1)) (.inl (BitVec.ofNat 7 q.2)) (.v 0) (.v 8))) fun i =>
        decide (((engineOp i false (.s (BitVec.ofNat 6 q.1))).setWidth 32 : Word) = (if q.1 = 0 then 0x3F09 else 0x3F08)) &&
        (i.s.parcelLen fragWave (fragWave.lane 5).pc).isSome && 0 / 96 == i.w.core / 96) &&
     fragB (.fragKill (leM 0 (.s 0) (.inl 66) (.v 0) (.v 8))) (fun i => decide ((engineOp i false (.s 0)).setWidth 32 = (0x3F09 : Word)) &&
      decide (i.s.crew? fragWave.crew = some crew7)) &&
     -- the launch's fragment from the next entry on, and none at core 1
     ([(.inl 64, true), (.s 5, false)].all fun q => fragB (.fragList (leM 0 q.1 (.v 0) (.v 0) (.v 8))) fun i =>
      let cur : Word := (engineOp i false q.1).setWidth 32
      ((List.range 64).any fun n => fidEntry cur ≤ n && ((i.s.core (fidCore cur)).bivouac.getD n {}).state != .free &&
        ((i.s.core (fidCore cur)).bivouac.getD n {}).launch = 7) == q.2)) = true := by decide +kernel

/-! The same machine with a privileged task. -/
def privCrew : Crew := { crew7 with record := privTask7 }
def ofTask (priv : Bool) : State := { base with crews := [if priv then privCrew else crew7] }
/-- The instruction issues in such a task. -/
def taskB (priv : Bool) (j : Instr) (more : Issue → Crew → Bool) : Bool :=
  let s := ofTask priv
  let i := issueOf j s wave
  let c := if priv then privCrew else crew7
  issuesB j s wave && !i.act.isEmpty && decide (i.s.crew? i.w.crew = some c) && (c.priv == priv) && more i c
def nopLR : LR := lr 0 0 0 (.v 0) (.v 0) (.v 0) (.v 0)
theorem witness_SystemRegistersTrapsAndClocks :
    (-- the first and last registers of each kind, and a privileged one without privilege
     ([0x000, 0x00D, 0x2010, 0x3081].all fun n => taskB false (.sysr (li n 0 0 (.v 0) (.v 8))) fun _ c => !(readPriv n.toNat && !c.priv)) &&
     ([0x1000, 0x1FFF, 0x4000, 0x8003].all fun n => taskB false (.sysr (li n 0 0 (.v 0) (.v 8))) fun _ c => readPriv n.toNat && !c.priv) &&
     ([0x1000, 0x8003].all fun n => taskB true (.sysr (li n 0 0 (.v 0) (.v 8))) fun _ c => !(readPriv n.toNat && !c.priv)) &&
     taskB false (.hscountRead (li 0x3062 0 0 (.v 0) (.v 8))) (fun _ _ => true) &&
     -- fpcr with a reserved rounding code; fpsr
     taskB false (.fpcrWrite (li 0xA 0 0 (.inl 69) (.v 0))) (fun i _ => readsB (readOne i.w (i.act.headD 0) false (.inl 69)) 5) &&
     taskB false (.fpcrWrite (li 0xA 0 0 (.inl 68) (.v 0))) (fun i _ => readsB (readOne i.w (i.act.headD 0) false (.inl 68)) 4) &&
     taskB false (.fpsrWrite (li 0xB 0 0 (.v 1) (.v 0))) (fun i _ => i.act.all fun l =>
      readsB (readOne i.w l false (.v 1)) (BitVec.ofNat 64 (l + 1))) &&
     ([true, false].all fun p => taskB p (.time op1) (fun _ _ => true) && taskB p (.cycles op1) (fun _ _ => true)) &&
     ([0x00, 0x80].all fun f => taskB false (.rand (leM f (.v 0) (.v 1) (.v 1) (.v 8)) .f32) fun i c => decide (i.s.launch? c.launch = some launch7)) &&
     ((⟨0x80000000, 0, 0, 0⟩ : Ctr).c0 == 0x80000000) &&
     -- a trap into the lowest entry
     taskB false (.trap (li 0xFFFF 0 0 (.v 0) (.v 0))) (fun i _ => decide (i.w.core < i.s.cores.length ∧ i.w.lanes.length = 32 ∧
      (i.s.core i.w.core).bivouac.length = 64 ∧ (i.s.core i.w.core).freeEntry = some 0 ∧ i.w.parked = [])) &&
     -- a snap that may not, one that may and finds no armed trigger, one that an armed trigger takes
     taskB false (.snap nopLR) (fun i c => !(c.priv || i.s.snapCtl.getLsbD 1)) &&
     taskB true (.snap nopLR) (fun i _ => !i.s.snapCtl.getLsbD 0) &&
     ([1, 3].all fun ctl =>
      let s : State := { ofTask (ctl = 1) with snapCtl := ctl }
      let i := issueOf (.snap nopLR) s wave
      issuesB (.snap nopLR) s wave && !i.act.isEmpty && decide (i.s.crew? i.w.crew = some (if ctl = 1 then privCrew else crew7)) &&
        i.s.snapCtl.getLsbD 0 && (decide (ctl = 1) || i.s.snapCtl.getLsbD 1))) = true := by decide +kernel

/-! A wave that writes s3, and a write of each register that the statement names. -/
def writeB (n : BitVec 22) (v : DWord) (more : Issue → Bool) : Bool :=
  let w := wave7 [] [(3, v)]
  let s : State := { world [] [(3, v)] with crews := [privCrew] }
  let j : Instr := .sysw (li n 0 0 (.s 3) (.v 0))
  let i := issueOf j s w
  issuesB j s w && !i.act.isEmpty && decide (i.s.crew? i.w.crew = some privCrew) && privCrew.priv &&
    readyB i privCrew && readsB (readOne i.w (i.act.headD 0) (Instr.parts.sysWide n) (.s 3)) v && more i
theorem witness_SystemRegisterWrites :
    (([0x2010, 0x2011, 0x3020, 0x3030, 0x3032, 0x3041, 0x3042, 0x3061, 0x4002, 0x7010, 0x8000, 0x8001, 0x8003].all fun n =>
      ([0, 0xFFFFFFFF].all fun v => writeB n v fun i => decide (i.w.core / 8 < i.s.clusters.length ∧ i.w.core / 96 < 2))) &&
     ([375, 400, 1400, 1425, 0x10190].all fun v => writeB 0x5001 v fun i => decide (i.s.opp.length = 4)) &&
     taskB false (.sysw (li 0x3020 0 0 (.s 3) (.v 0))) (fun _ _ => true) &&
     ([0x100, 0x201, 0x301].all fun v => writeB 0x3021 v fun i =>
      (i.s.tlbinv (if v.getLsbD 8 then [0, 1] else [0]) (i.s.site 0).tlbLaunch.toNat v).isSome) &&
     writeB 0x3031 0x100000 (fun _ => true) &&
     ([0, 0x1001].all fun v => writeB 0x3050 v fun i => match i.s.writeScan 0 privCrew.launch v with
      | .next _ => true
      | _ => false)) = true := by decide +kernel

/-! Page 1 holds a queue descriptor at 0x100000 with its ring at 0x1400, and a scanout descriptor of PERIOD 3 at 0x100040. -/
def descBytes (st : Nat) : Memory :=
  SMap.setRun (SMap.setRun [] 0x100000 (toBytes (BitVec.ofNat 512 (st * 64 + 2 * 2 ^ 32 + 7 * 2 ^ 48 + 0x1400 * 2 ^ 448)) 64)) 0x100040
    (toBytes (BitVec.ofNat 512 (3 * 2 ^ 32 + 1000 * 2 ^ 64)) 64)
def descState (qs : List Queue) : State :=
  { base with mem := descBytes (if qs = [] then 0 else 1), siteA := { tlb := tlb7, queues := qs } }
def regWrite (v : DWord) : RegWrite := { site := 0, value := v, wave := none }
def qcmdB (v : DWord) (qs : List Queue) (more : State → BitVec 512 → Bool) : Bool :=
  let s := descState qs
  decide (s.qcmdPa (regWrite v) = some 0x100000) && s.badLines.isEmpty && SMap.wf s.mem && s.inflight.isEmpty && s.linkOpen && more s (s.wordAt 0x100000 64)
def meterB (en : Bool) (v : DWord) (more : Meter → Bool) : Bool :=
  let s : State := { base with siteA := { meter := { en := en } } }
  (v.getLsbD 0 != en || v.getLsbD 1) && more (s.site 0).meter
theorem witness_RegisterWriteSteps :
    (([0x100, 0x200].all fun v => (regWrite v).site < 2 && base.inflight.isEmpty && (base.waves.all fun y => (List.range 9).all fun k =>
        match y.pendingAt k with
        | some p => p.loads.isEmpty
        | none => true) && (if v.getLsbD 8 then [0, 1] else [0]).all fun x =>
      !base.engineHolds x (base.site 0).tlbLaunch.toNat v && !base.logHolds x (base.site 0).tlbLaunch.toNat v) &&
     qcmdB 0x100001 [] (fun s d => (s.queue? 0x100000).isNone && !descReserved d && decide ((d.extractLsb' 32 5).toNat = 2) &&
      !d.getLsbD 3 && decide (s.launch? (d.extractLsb' 48 16).toNat = some launch7) && !launch7.closed && (s.site 0).queues.length < Config.queueSlots) &&
     ([QState.closed, .faulted].all fun st => qcmdB 0x100001 [queueA st 4 6] fun s d =>
      decide (s.queue? 0x100000 = some (0, queueA st 4 6)) && decide (st ≠ .opened) && !descReserved d &&
      decide ((d.extractLsb' 32 5).toNat = 2) && decide (s.launch? (d.extractLsb' 48 16).toNat = some launch7) && !launch7.closed &&
      decide (((s.site 0).queues.filter fun y => y.desc ≠ 0x100000).length < Config.queueSlots)) &&
     qcmdB 0x100002 [queueA .opened 0 0] (fun s _ => decide (s.queue? 0x100000 = some (0, queueA .opened 0 0))) &&
     qcmdB 0x100003 [queueA .closed 0 0] (fun s _ => decide (s.queue? 0x100000 = some (0, queueA .closed 0 0))) &&
     meterB false 1 (fun m => !m.en) && meterB true 0 (fun m => m.en && m.latest.isNone) && meterB true 3 (fun m => m.en) &&
     meterB false 2 (fun m => !m.en) &&
     (let s := { descState [] with waves := [], timer := 5, siteA := { tlb := tlb7, scan := { launch := 7 } } }
      let w : RegWrite := regWrite 0x1041
      !(s.site 0).scan.reg.getLsbD 0 && (s.site 0).scan.launch == 7 && s.inflight.isEmpty && unitB s 0 7 (64 * (w.value.extractLsb' 6 46).toNat) 64 true { r := true } 0x100040 &&
        decide (scanPeriod (s.wordAt 0x100040 64) = 3) && decide (scanStartAt (s.wordAt 0x100040 64) ≤ s.timer.toNat + 1000)) &&
     ([(0, 0), (1, 0), (0x100, 1), (0xF01, 15)].all fun (q : DWord × Nat) => decide ((q.1.extractLsb' 8 4).toNat = q.2)) &&
     ([0, 3, 4, 7].all fun sel =>
      let s : State := { base with siteA := { lnkSel := sel } }
      let e := if (s.site 0).lnkSel.getLsbD 2 then 1 else 0
      decide (((s.site 0).lnkSel.extractLsb' 0 2).toNat < (s.site e).link.length))) = true := by decide +kernel

/-! Tables of launch 7 at 0, 0x20000, 0x22000 and 0x24000, which map page 1 (12 R293, R294). -/
def tables : Memory :=
  SMap.setRun (SMap.setRun (SMap.setRun (SMap.setRun [] 0 (toBytes (0x20001 : DWord) 8)) 0x20000 (toBytes (0x22001 : DWord) 8)) 0x22000
    (toBytes (0x24001 : DWord) 8)) 0x24008 (toBytes (leaf 0x100 0) 8)
def noLoads (w : Wave) : Bool := (List.range 9).all fun k =>
  match w.pendingAt k with
  | some p => p.loads.isEmpty
  | none => true
def loadOf (pa : Nat) : LaneLoad := { lane := 31, va := 0x1000, named := 0x1000, place := .global pa .rc, bytes := 4, sx := false, reg := 8, toS := none }
def loadWave : Wave := { wave with tags := List.replicate 7 none ++ [some { loads := [loadOf 0x100FFC] }] }
def flyW (id pa : Nat) (b : Byte) : Inflight :=
  { id := id, core := 0, wave := 0, crew := 0, pa := pa, data := [b], kind := .rc, scope := .device }
/-- A logged store of one byte. -/
def logOf (launch : Nat) (va : DWord) : LogEntry :=
  { wave := 0, crew := 0, launch := launch, priv := false, tindex := 0, op := .store, bytes := 1, ord := 0, scp := 0, va := va, data := [9]
    pc := 0, lane := 0, detail := pageDetail 0 1 }
def logState (e : LogEntry) : State := { base with
  cores := { sideLog := [e] } :: List.replicate 191 {}, siteA := { tlb := tlb7 ++ [⟨7, 3, 1, 0x102053, 0x200018, true⟩] } }
def exitedWave (n : Nat) : Wave := { newWave 0 n 0 0 n 0 [] with lanes := List.replicate 32 { life := .exited } }
theorem witness_AccessesArePerformedAndWavesRetire :
    ((let s : State := { base with waves := [loadWave] }
      decide (s.wave? 0 = some loadWave ∧ s.crew? loadWave.crew = some crew7 ∧ loadWave.tags.length = 8 ∧
        loadWave.tag 7 = some { loads := [loadOf 0x100FFC] } ∧ Config.homeSite 0x100FFC = some (loadWave.core / 96) ∧
        (s.core loadWave.core).sideLog = [] ∧ (loadOf 0x100FFC).acq = none ∧ (loadOf 0x100FFC).atom = none ∧ s.badLines = []) &&
        (List.range 3).all fun k => (s.copiesAt loadWave.core k).isEmpty) &&
     (let s : State := { base with inflight := [flyW 1 0x100FFC 3, flyW 2 0x100FFD 4] }
      decide (s.inflight[1]? = some (flyW 2 0x100FFD 4) ∧ Config.homeSite 0x100FFD = some 0 ∧ (s.inflight.map fun y => y.id).Nodup) &&
        SMap.wf s.mem && s.badLines.isEmpty && s.inflight.all fun y => y.pkt.isNone && (y.id == 2 || !y.touches 0x100FFD 1)) &&
     ([(8, 0x9000), (7, 0x9000), (7, 0x3000), (7, 0x1FFF)].all fun q =>
      let e := logOf q.1 q.2
      let s := logState e
      decide (s.oldestEntries 0 0 = [e] ∧ e.give = false ∧ s.badLines = [] ∧ s.wave? 0 = some wave ∧ 0 < s.cores.length) &&
        noLoads wave && match s.tlb? 0 e.launch e.va.toNat with
          | none => (match s.launch? e.launch with
            | none => decide (q.1 = 8)
            | some la => decide (walkFrom s e.va.toNat 3 la.root = .fail 3 1))
          | some u => (if q.2 = 0x3000 then denies u.leaf e.priv { w := true } && decide (s.launch? 7 = some launch7) && !launch7.failed
              else !denies u.leaf e.priv { w := true } && u.dirty && isMemory 0x100FFF &&
                decide (s.xlatOf u e.va.toNat = .ok 0x100FFF .rc u.leaf))) &&
     ([[0], [0, 1]].all fun ns =>
      let s : State := { base with waves := ns.map exitedWave }
      decide (s.wave? 0 = some (exitedWave 0) ∧ s.crew? (exitedWave 0).crew = some crew7 ∧ (exitedWave 0).tags.all (·.isNone) ∧
        (exitedWave 0).direct = none ∧ s.inflight = [] ∧ s.flows = []) && s.mayRetire (exitedWave 0) &&
        (s.waves.any (fun y => y.key != 0 && y.crew = crew7.key) == decide (ns.length = 2))) &&
     -- a poisoned frame that no leaf maps, and one that a leaf maps
     ([[], tables].all fun (m : Memory) =>
      let s : State := { base with mem := m, badLines := [0x4000], siteA := {} }
      let mine := s.tables.2.filter fun q => 0x100000 ≤ s.nowAt (entryPa q.2.2) && s.nowAt (entryPa q.2.2) < 0x100000 + 4096
      SMap.wf s.mem && decide (s.frameOf s.tables.2 0x100 = (0x100000, 4096) ∧ 0x300000 = 4096 * 0x300 / 4096 * 4096 ∧
          s.nowAt (4096 * 0x100) = 4096 * 0x100) && mine.map (fun q => q.1) == (if m.isEmpty then [] else [(0x24008 : Nat)]) &&
        s.rangeBad 0x100000 4096 && s.spareOk 0x100000 0x300000 4096)) = true := by
  decide +kernel

/-! A fragment in the last entry of core 0 that waits for page 1 or 2, or for its record. -/
def waitEntry (st : BivState) (va : DWord) (ti : DWord) : Bivouac :=
  { state := st, gen := 255, wave := fragWave.key, launch := 7, tindex := ti, lanes := [5], code := 0x05, detail := pageDetail 0 1, addrs := [(5, va)] }
/-- Launch 7 with a handler: a ring of one slot at 0x1FC0, the handler queue at 0x1000. -/
def handLaunch : Launch := { launch7 with
  record := launch7.record ||| BitVec.ofNat 512 (2 ^ 40 + (0x1FC0 / 64) * 2 ^ 402 + 2 ^ 394 + (0x1000 / 64) * 2 ^ 348) }
def waitState (b : Bivouac) (l : Launch) : State := { fragState with
  launches := [l], mem := tables, cores := { bivouac := List.replicate 63 {} ++ [b] } :: List.replicate 191 {} }
def waitB (b : Bivouac) (l : Launch) (more : State → Bool) : Bool :=
  let s := waitState b l
  decide ((s.core 0).bivouac.getD 63 {} = b ∧ 0 < s.cores.length ∧ 63 < (s.core 0).bivouac.length ∧ s.wave? b.wave = some fragWave ∧
    s.crew? fragWave.crew = some crew7) && (s.waves.all fun z => z.parked.isEmpty) && more s
def rejoinWave : Wave := { wave with rejoins := [{ lanes := [3], latches := [], elem := 0, live := false }] }
theorem witness_FaultsAreServed :
    (([(0x1000, true), (0x2000, false)].all fun (q : DWord × Bool) => waitB (waitEntry .controller q.1 0) launch7 fun s =>
      match s.pageAsk (.frag 0 63) with
      | some a => a.vas.all (s.valid a.launch) == q.2 && decide ((waitEntry .controller q.1 0).detail ≠ pageDetail 0 4) &&
          (q.2 || (State.mapPages { s with held := [] } a [(0x24010, leaf 0x101 0)]).isSome)
      | none => false) &&
     decide (({ base with waves := [rejoinWave] } : State).wave? 0 = some rejoinWave ∧ rejoinWave.chain = false) &&
     ([(0x8000000000000000, launch7), (0, launch7), (0x7FFFFFFFFFFFFFFF, handLaunch)].all fun (q : DWord × Launch) =>
      waitB (waitEntry .waiting 0x1000 q.1) q.2 fun s =>
        let b := waitEntry .waiting 0x1000 q.1
        decide (s.launch? 7 = some q.2) && !q.2.failed && s.oldestWaiting 0 b && !s.recordAsked 0 63 b) &&
     (let s := waitState (waitEntry .waiting 0x1000 0) handLaunch
      handLaunch.hand && decide (lowestFree handLaunch.slots handLaunch.rslots 1 = [0]) && SMap.wf s.mem && s.inflight.isEmpty &&
        decide (s.snapCtl = 0) && s.linkOpen && unitB s 0 handLaunch.num handLaunch.ring 64 true { w := true } 0x100FC0 &&
        unitB s 0 handLaunch.num handLaunch.hq 64 true { r := true } 0x100000)) = true := by decide +kernel

/-! Engines of cluster 0 whose other parts are at rest. -/
def clusterState (c : Cluster) (cr : Crew) : State := { base with crews := [cr], clusters := c :: List.replicate 23 {} }
/-- A chunk of the last 8 of 16 columns: A is 8 x 8 at 0 with rows of 32 bytes, B at 0x200, each with one element that is not zero. -/
def chunkStep : MStep := { mStep none 5 .queued with k := 16, chunk := 1, a := [0, 32, 0, 0], b := [0x200, 32, 0, 0], order := 4 }
def sparseCrew : Crew := { crew7 with scratch := [(17, 0x3C), (0x211, 0xBC)] }
def copy7 : Copy := { id := 3, wave := 0, crew := crew7.key, tmpl := rawCopy, src := 0, dst := 64, scope := .device, rm := .rne
                      old := [List.replicate 64 (0, false)] }
/-- The same converting 16 f16 elements to f32; into the first slot of the buffer at 0x100; from and to page 1; a gather of band 3. -/
def tmplF : Tmpl := BitVec.ofNat 512 (0x8000 + 2 * 2 ^ 16 + 1 * 2 ^ 21 + 2 ^ 32 + 2 ^ 34 + 16 * 2 ^ 64)
def zeros (n : Nat) : List (Byte × Bool) := List.replicate n (0, false)
def copyF : Copy := { copy7 with tmpl := tmplF, old := [zeros (16 * tmplF.srcBits / 8)] }
def slotCopy : Copy := { copy7 with tmpl := tmpls.getD 0 0, cbuf := some 0x100, slot := some 0x800, dst := 0 }
def fromCopy : Copy := { copy7 with tmpl := tmpls.getD 3 0, src := 0x1FC0, dst := 64, pages := [(1, 0x100000, .rc)], old := [zeros 64] }
def toCopy : Copy := { copy7 with tmpl := tmpls.getD 2 0, src := 0, dst := 0x1000, pages := [(1, 0x100000, .rc)], old := [zeros 64] }
def bandCopy : Copy := { copy7 with tmpl := tmpls.getD 1 0, dst := 0x400, gather := some (2, 0, 50) }
def negRec (n : Nat) (view : Nat) : NegRec := { order := n, words := BitVec.ofNat 256 (view * 2 ^ 216 + 40 * 2 ^ 64), wave := none, visible := true }
def ringsOf3 : NegStore := { rings := [(3, negRec 0 1), (4, negRec 0 1), (3, negRec 1 2)] }
def completesB (y : Copy) (c : Crew) (s : State) : Bool :=
  decide ((s.cluster 0).copies[0]? = some y ∧ s.wave? y.wave = some wave ∧ s.crew? wave.crew = some c ∧ y.crew = c.key ∧ y.tmpl.be = false ∧
    c.badLines = [] ∧ c.cluster = 0) && SMap.wf c.scratch
def padCopyB (y : Copy) (c : Crew) : Bool :=
  let s := clusterState { copies := [y] } c
  let t := y.tmpl
  let rs := t.runs y.index
  let src (r : Option Int × Int) : Nat := ((y.src : Int) + r.1.getD 0).toNat
  let dst (r : Option Int × Int) : Nat := ((y.dstBase : Int) + r.2).toNat
  completesB y c s && decide (t.kind ≠ 2 ∧ y.gather = none ∧ y.pages = [] ∧ t.srcBits % 8 = 0 ∧ t.dstBits % 8 = 0 ∧ rs.length = 1) && t.srcSp && t.dstSp &&
    (rs.all fun r => r.1.isSome && rs.all fun q => decide (src r + t.srcRun ≤ dst q ∨ dst q + t.dstRun ≤ src r)) &&
    decide (y.old = rs.map fun r => s.engineScratch c.key (src r) t.srcRun) &&
    (match y.cbuf with
      | some off => y.slot.isSome && (c.cbufAt off).isSome && (s.takers c.key off).isEmpty && rs.all fun r => decide (off + 16 ≤ dst r)
      | none => true)
def claimCopy : Copy := { copy7 with cbuf := some 0x100 }
def pushWave (flight : Nat) : Wave := { waveOne vBase sBase with
  ports := { code := 1, flight := List.replicate flight ⟨0, 3, [], 1, 0, [], [], [], [], none, false⟩, held := [⟨9, 3, [], 1, 0, [], [], [], [], none, false⟩] } ::
    List.replicate 3 {} }
def engineSteps : Bool :=
    (-- the last free tile; none is free for the statement's converse
     (let cl : Cluster := { tiles := List.replicate 63 { owner := some 8 } ++ [{}], tileReqs := [{ wave := 0 }, { wave := 1 }] }
      let s := clusterState cl crew7
      decide (0 < s.clusters.length ∧ s.cluster 0 = cl ∧ cl.freeTile = some 63)) &&
     (let cl : Cluster := { steps := [chunkStep] }
      let s := clusterState cl sparseCrew
      let m := chunkStep
      let get := SMap.get sparseCrew.scratch
      decide (s.wave? m.wave = some wave ∧ s.crew? wave.crew = some sparseCrew ∧ m.crew = sparseCrew.key ∧ cl.tiles.length = 64 ∧
        (s.tile 0 m.tile).aborted = false ∧ m.n ≤ 128 ∧ m.batch = none ∧ m.sparse ∈ [0, 2, 4, 8] ∧ m.aSp = true ∧ m.bSp = true ∧ sparseCrew.badLines = []) && s.stepRuns 0 m &&
      (List.range 8).all fun i => (List.range 8).all fun p =>
        decide (readNum get (rowAt (descOf true m.a).base (descOf true m.a).stride i + 2 * (8 * m.chunk + p)) 2 = (if i = 0 ∧ p = 0 then 0x3C00 else 0)) &&
        decide (readNum get (rowAt (descOf true m.b).base (descOf true m.b).stride i + 2 * (8 * m.chunk + p)) 2 = (if i = 0 ∧ p = 0 then 0xBC00 else 0))) &&
     decide ((⟨1, 0⟩ : Dyad).m ≠ 0 ∧ (fF32.unpack 0x7F7FFFFF).isNan = false ∧ (fF32.unpack 0x7F7FFFFF).isInf = false) &&
     -- a sparse step, and one in f32
     ([{ chunkStep with sparse := 2, chunk := 0, a := [0, 32, 0x100, 16] }, { chunkStep with fmt := .f32, chunk := 0 }].all fun m =>
      let s := clusterState { steps := [m] } sparseCrew
      s.stepRuns 0 m && decide (s.wave? m.wave = some wave ∧ s.crew? wave.crew = some sparseCrew ∧ m.crew = sparseCrew.key ∧
        (s.tile 0 m.tile).aborted = false ∧ m.n ≤ 128 ∧ m.batch = none ∧ m.sparse ∈ [0, 2, 4, 8] ∧ m.aSp = true ∧ m.bSp = true)) &&
     padCopyB copy7 crew7 && padCopyB copyF crew7 && padCopyB slotCopy (ringCrew 0) &&
     ([(fromCopy, 0x1FC0), (toCopy, 0x1000)].all fun (q : Copy × Nat) =>
      let y := q.1
      let s := clusterState { copies := [y] } crew7
      completesB y crew7 s && y.tmpl.raw && decide (y.tmpl.dstt = 31 ∧ y.tmpl.kind = 0 ∧ y.tmpl.n1 = 1 ∧ y.tmpl.n2 = 1 ∧ y.cbuf = none ∧ y.slot = none ∧
        y.gather = none ∧ y.pages = [(q.2 / 4096, 0x100000, .rc)] ∧ q.2 % 4096 + y.tmpl.count0 * y.tmpl.elem ≤ 4096 ∧
        s.inflight = [] ∧ s.badLines = []) && ((List.range 3).all fun k => (s.copiesAt 0 k).isEmpty) &&
        (if y.tmpl.srcSp then decide (q.2 = y.dst ∧ y.old = [s.engineScratch crew7.key y.src 64]) && !y.tmpl.dstSp
         else decide (q.2 = y.src ∧ y.old = [(List.range 64).map fun j => (s.homeByte (0x100000 + y.src % 4096 + j), false)]) && y.tmpl.dstSp)) &&
     (let y := bandCopy
      let s : State := { clusterState { copies := [y] } crew7 with siteA := { neg := ringsOf3 } }
      completesB y crew7 s && y.tmpl.dstSp && decide (y.tmpl.kind = 2 ∧ y.cbuf = none ∧ y.slot = none ∧ y.pages = [] ∧
        (s.gather 0 y.tmpl.band y.tmpl.mask y.tmpl.age y.tmpl.count0 2 0 50).1 =
          ([2, 1].map fun v => (toBytes (BitVec.ofNat 256 (v * 2 ^ 216 + 40 * 2 ^ 64)) 32).map fun b => (b, false))) &&
        decide ((ringsOf3.rings.filter fun r => r.1 = 3 && max 0 (2 - 65536) ≤ r.2.order && r.2.order < 2) =
          [negRec 0 1, negRec 1 2].map (fun r => (3, r)))) &&
     (let s := clusterState { copies := [claimCopy] } (ringCrew 0)
      decide ((s.cluster 0).copies[0]? = some claimCopy) && s.mayClaim 0 claimCopy && decide (s.crew? claimCopy.crew = some (ringCrew 0) ∧ 0 < ((ringCrew 0).barWord 0x100).num) &&
        SMap.wf (ringCrew 0).scratch) &&
     ([0, 7].all fun n =>
      let w := pushWave n
      decide (({ base with waves := [w] } : State).wave? 0 = some w ∧ w.ports.length = 4 ∧ (w.port 0).inFlight 3 < 8 ∧ (w.port 0).ready 3 < 8) &&
        ((w.port 0).held.find? fun x => x.lane = 3).isSome))
theorem witness_EnginesAct : engineSteps = true := by decide +kernel
/-- Products of finite values, with a bound of their exponents. -/
theorem witness_SumsOfProducts : (0 : Int) ≤ 0 ∧ ∀ p ∈ [((false, 3, 1), (true, 5, 2)), ((true, 1, 0), (false, 1, 0))],
    (0 : Int) ≤ p.1.2.2 + p.2.2.2 := by decide

/-! Page 1 holds a node of one leaf at 0x1000, its triangle (0,0,1), (1,0,1), (0,1,1) at 0x1080, a point (1,0,0) at 0x10C0, an empty node
at 0x1180, bins of one and of no triangle at 0x1100, a list at 0x1120 and a raster triangle at 0x1140 (16 R361-R364, R369-R371). -/
def wordsAt (m : Memory) (a : Nat) (ws : List Nat) : Memory := SMap.setRun m a (ws.flatMap fun x => toBytes (BitVec.ofNat 32 x) 4)
def sceneMem : Memory :=
  let m := wordsAt [] 0x100000 [0, 0, 0, 0, 0, 0, 0x81, 0, 0x01000000, 0x201]
  let m := wordsAt m 0x100080 [0, 0, 0x3F800000, 0x3F800000, 0, 0x3F800000, 0, 0x3F800000, 0x3F800000]
  let m := wordsAt m 0x1000C0 [0x3F800000, 0, 0, 77]
  let m := wordsAt m 0x100100 [0, 1, 0, 0]
  let m := wordsAt m 0x100140 [0, 0, 0x3F800000, 0, 0, 0x3F800000, 0, 0, 0x3F800000, 0, 0, 0x3F000000]
  -- an inner node with one leaf, of two triangles at z = 1 and z = 0.5; majorants of bricks and densities of cells
  let m := wordsAt m 0x100200 [0, 0, 0, 0, 1, 0, 0x40, 0, 0x01000000, 0x201]
  let m := wordsAt m 0x100280 [0, 0, 0, 0, 0, 0, 0x82, 0, 0x01000000, 0x201]
  let m := wordsAt m 0x100300 [0, 0, 0x3F800000, 0x3F800000, 0, 0x3F800000, 0, 0x3F800000, 0x3F800000]
  let m := wordsAt m 0x100330 [0, 0, 0x3F000000, 0x3F800000, 0, 0x3F000000, 0, 0x3F800000, 0x3F000000]
  wordsAt m 0x100400 [0x3C000000, 0x7BFF0400]
def bvh (ptype nodes prims : Nat) : BitVec 512 := BitVec.ofNat 512 (ptype * 2 ^ 8 + nodes * 2 ^ 128 + prims * 2 ^ 192 + 2 ^ 384 + 2 ^ 416)
def binSet (bins width : Nat) : BitVec 512 :=
  BitVec.ofNat 512 (1 + bins * 2 ^ 128 + 0x1120 * 2 ^ 192 + 0x1140 * 2 ^ 256 + width * 2 ^ 384 + 2 ^ 400 + 2 ^ 416)
def bvh2 : BitVec 512 := BitVec.ofNat 512 (0x1200 * 2 ^ 128 + 0x1300 * 2 ^ 192 + 2 * 2 ^ 384 + 2 * 2 ^ 416)
/-- Lane 3's push of these words at a pair bound to the descriptor. -/
def push7 (code : Nat) (d : BitVec 512) (ws : List Nat) : Push := ⟨0, 3, ws.map (BitVec.ofNat 32), code, d, sceneMem, [], [], [], none, false⟩
def pushed7 (q : Push) : Wave := { waveOne [] [] with ports := { code := q.code, desc := q.desc, flight := [q] } :: List.replicate 3 {} }
def engB (code : Nat) (d : BitVec 512) (ws : List Nat) (more : State → Source → Bool) : Bool :=
  let q := push7 code d ws
  let w := pushed7 q
  let s : State := { base with waves := [w], mem := sceneMem }
  decide (s.wave? 0 = some w ∧ s.crew? w.crew = some crew7 ∧ w.ports.length = 4 ∧ w.running 0 3 code = some q ∧ s.sincePush q = true ∧
    (w.lane 3).block = .none) && w.marchTurn q && more s ⟨agentOf w crew7, q.refused⟩
/-- A record's read leaves memory, waves and launches as they were, and gives words with this property. -/
def recB (s : State) (src : Source) (va n idx : Nat) (p : State → List Word → Bool) : Bool :=
  match s.record src va n idx with
  | (t, .ok ws) => decide (t.mem = s.mem ∧ t.waves = s.waves ∧ t.launches = s.launches) && p t ws
  | _ => false
def ray (tmin tmax flags : Nat) : List Nat := [0x3E800000, 0x3E800000, 0, tmin, 0, 0, 0x3F800000, tmax, flags]
def rayOk (d : BitVec 512) (ws : List Nat) (f : V3 → V3 → ER → ER → Bool) : Bool :=
  let q := push7 1 d ws
  match v3Of q.words 0, v3Of q.words 4, fF32.er (q.words.getD 3 0).toNat, fF32.er (q.words.getD 7 0).toNat with
  | some o, some v, some tmin, some tmax => !(v.x.isZero && v.y.isZero && v.z.isZero) && !tmin.lt (.fin Q.zero) &&
      decide ((q.words.getD 8 0).toNat < 1024) && f o v tmin tmax
  | _, _, _, _ => false
def triHit (s : State) (src : Source) (d : BitVec 512) (o v : V3) (tmin tmax : ER) : Bool :=
  recB s src (Bvh.nodes d) 128 0 fun s ws => match nodeChildren d ws true with
    | some [ch] => ch.ty = 2 && ch.count = 1 && (slab tmin tmax ⟨none, o, v⟩ ch).isSome &&
        recB s src (Bvh.prims d + 48 * ch.start) 48 ch.start fun _ tw => match v3Of tw 0, v3Of tw 3, v3Of tw 6 with
          | some v0, some v1, some v2 =>
            let e1 := v1.sub v0
            let e2 := v2.sub v0
            let dm := e1.dot (v.cross e2)
            let b := ((o.sub v0).dot (v.cross e2)).div dm
            let g := (v.dot ((o.sub v0).cross e1)).div dm
            let t := (e2.dot ((o.sub v0).cross e1)).div dm
            !((e1.cross e2).dot v).isZero && 0 ≤ b.num && 0 ≤ g.num && !(Q.ofInt 1).lt (b.add g) && tmin.le (.fin t) && (ER.fin t).le tmax
          | _, _, _ => false
    | _ => false
/-- The same with the words written out. -/
def recIs (s : State) (src : Source) (va n idx : Nat) (ws : List Word) (p : State → Bool) : Bool :=
  match s.record src va n idx with
  | (t, .ok us) => decide (t.mem = s.mem ∧ t.waves = s.waves ∧ t.launches = s.launches) && decide (us = ws) && p t
  | _ => false
def node2 : List Word := [0, 0, 0, 0, 1, 0, 0x40, 0, 0x01000000, 0x201, 0, 0, 0, 0, 0, 0, 0, 0, 0, 0, 0, 0, 0, 0, 0, 0, 0, 0, 0, 0, 0, 0]
def leaf2 : List Word := [0, 0, 0, 0, 0, 0, 0x82, 0, 0x01000000, 0x201, 0, 0, 0, 0, 0, 0, 0, 0, 0, 0, 0, 0, 0, 0, 0, 0, 0, 0, 0, 0, 0, 0]
def tri20 : List Word := [0, 0, 0x3F800000, 0x3F800000, 0, 0x3F800000, 0, 0x3F800000, 0x3F800000, 0, 0, 0]
def tri21 : List Word := [0, 0, 0x3F000000, 0x3F800000, 0, 0x3F000000, 0, 0x3F800000, 0x3F000000, 0, 0, 0]
/-- A ray that the root's one inner child leads to a leaf of two triangles. -/
def twoLevels (s : State) (src : Source) (o v : V3) (tmin tmax : ER) : Bool :=
  (match nodeChildren bvh2 node2 true, nodeChildren bvh2 leaf2 true with
    | some cs1, some cs =>
      (match hitKids tmin tmax ⟨none, o, v⟩ 0 cs1 with
        | [⟨_, ch, 0⟩] => decide (ch.ty = 1 ∧ ch.start = 1 ∧ 1 < Bvh.noden bvh2)
        | _ => false) && (cs.all fun c => c.ty = 2) &&
        decide (((hitKids tmin tmax ⟨none, o, v⟩ 1 cs).flatMap fun x => (List.range x.c.count).map fun n => x.c.start + n) = [0, 1])
    | _, _ => false) && (triangleHit tri20 0 o v).isSome && (triangleHit tri21 0 o v).isSome &&
  recIs s src 0x1200 128 0 node2 fun s => recIs s src 0x1280 128 1 leaf2 fun s =>
    recIs s src 0x1300 48 0 tri20 fun s => recIs s src 0x1330 48 1 tri21 fun _ => true
/-! A grid of one brick of 8 x 8 x 8 cells of side 1 at the origin, whose majorant and whose densities stand at the addresses given, and a ray
along z at (0.25, 0.25): the hypotheses on its march, with the majorant `x`, and where the first collision lies. -/
def gridAt (maj dens : Nat) : BitVec 512 := BitVec.ofNat 512 (2 ^ 24 + maj * 2 ^ 64 + dens * 2 ^ 128 + 0x3F800000 * 2 ^ 352)
def marchB (g : BitVec 512) (mode x : Nat) (more : State → Source → Q → Word → Word → Word → (Nat → Nat) → Bool) : Bool :=
  let ws := ray 0 0x7F800000 mode
  engB 5 g ws fun s src => Grid.good g && decide (Grid.dkind g = 1) && rayOk g ws fun o v _ _ =>
    match v3Of [Grid.corner g 0, Grid.corner g 1, Grid.corner g 2] 0, fF32.fin (Grid.h g).toNat, fF16.fin x with
    | some corner, some h, some mb =>
      let cross (a k : Nat) : Word := BitVec.ofNat 32 (Q.roundZ (decide ((v.get a).num < 0)) .rne fF32
        ((((corner.get a).add (h.mul (Q.ofInt (8 * k)))).sub (o.get a)).div (v.get a)))
      let axes := (List.range 3).filter fun a => !(v.get a).isZero
      let t0 := axes.foldl (fun t a => distMax t (distMin (cross a 0) (cross a (Grid.bricks g a)))) 0
      let t1 := axes.foldl (fun t a => distMin t (distMax (cross a 0) (cross a (Grid.bricks g a)))) 0x7F800000
      let tb := axes.foldl (fun t a => distMin t (cross a 1)) t1
      let draw (n : Nat) : Nat := (philox (((s.launch? 7).map (·.seed)).getD 0) (drawCtr (BitVec.ofNat 32 n) 1 3 0)).c0.toNat / 256
      (match distOf t0 with
        | .fin T0 => T0.isZero
        | _ => false) && distLt t0 t1 && !distLt tb t1 && distLt t0 tb && decide (x < 65536 ∧ 0 ≤ mb.num) &&
        ((List.range 3).all fun a => !(v.get a).isZero || ((corner.get a).le (o.get a) &&
          (o.get a).lt ((corner.get a).add (h.mul (Q.ofInt (8 * Grid.bricks g a)))))) &&
        (match s.portRead src.g src.no (Grid.maj g) 2 with
          | (t, .ok b) => decide (b = toBytes (BitVec.ofNat 16 x) 2 ∧ t.mem = s.mem ∧ t.waves = s.waves ∧ t.launches = s.launches)
          | _ => false) && more s src mb t1 tb (BitVec.ofNat 32 (match ((depthOf (draw 0)).div mb).f32 .rne with
            | .fin z => z.round .rne fF32
            | _ => fF32.infBits)) draw
    | _, _, _ => false
/-- A march without density; one that leaves its grid; collisions of each mode, with a cell's density and with a table's. -/
theorem witness_MarchesThatMeetTheirGrid :
    (marchB (gridAt 0x1480 0x1480) 0 0 (fun _ _ mb t1 _ _ _ => decide (mb.num = 0) && (match distOf t1 with
      | .fin _ => true
      | _ => false)) &&
     marchB (gridAt 0x1404 0x1404) 2 0x0400 (fun _ _ mb _ tb tc _ => decide (0 < mb.num) && !distLt tc tb) &&
     ([0, 1, 2].all fun mode => marchB (gridAt 0x1406 0x1406) mode 0x7BFF fun s src mb _ tb tc draw => decide (0 < mb.num) && distLt tc tb &&
      (match distOf tc with
        | .fin _ => true
        | _ => false) && (match s.portRead src.g src.no 0x1406 2 with
          | (_, .ok b) => decide (b = toBytes (BitVec.ofNat 16 0x7BFF) 2)
          | _ => false) && (decide (mode ≠ 0) || ((Q.ofInt (draw 1)).mul mb).lt (mb.mul (Q.ofInt (2 ^ 24)))))) = true := by decide +kernel
/-- A bad descriptor; a ray whose range is empty, and one over a node of triangles; a node without children. -/
theorem witness_PortEnginesAnswer :
    (engB 1 (bvh 1 0x1000 0x1080) (ray 0 0x7F800000 0) (fun _ _ => !Bvh.good (bvh 1 0x1000 0x1080) 0) &&
     ([(1, 0x3F800000, 0), (2, 0, 0)].all fun (q : Nat × Nat × Nat) => engB q.1 (bvh 0 0x1000 0x1080) (ray 0x3F800000 q.2.1 q.2.2) fun s src =>
      Bvh.good (bvh 0 0x1000 0x1080) 0 && rayOk (bvh 0 0x1000 0x1080) (ray 0x3F800000 q.2.1 q.2.2) fun o v a b =>
        b.lt a || triHit s src (bvh 0 0x1000 0x1080) o v a b) &&
     engB 2 (bvh 0 0x1180 0x1080) (ray 0 0x7F800000 0) (fun s src => recB s src 0x1180 128 0 fun _ ws =>
      decide (nodeChildren (bvh 0 0x1180 0x1080) ws true = some []))) = true := by decide +kernel
/-- A ray that meets a node of triangles through an inner node. -/
theorem witness_RaysThroughAnInnerNode :
    engB 1 bvh2 (ray 0 0x7F800000 0) (fun s src => Bvh.good bvh2 0 && rayOk bvh2 (ray 0 0x7F800000 0) fun o v a b =>
      twoLevels s src o v a b) = true := by decide +kernel
theorem witness_ProbesQueriesAndMarches :
    (engB 3 (binSet 0x1100 0) [0, 0] (fun _ _ => !Bvh.goodBins (binSet 0x1100 0)) &&
     engB 3 (binSet 0x1100 1) [1, 0] (fun _ _ => Bvh.goodBins (binSet 0x1100 1)) &&
     engB 3 (binSet 0x1108 1) [0, 0] (fun s src => Bvh.goodBins (binSet 0x1108 1) && recB s src 0x1108 8 0 fun _ ws => ws.getD 1 0 = 0) &&
     engB 3 (binSet 0x1100 1) [0, 0] (fun s src => recB s src 0x1100 8 0 fun s ws => ws.getD 1 0 = 1 && ws.getD 0 0 = 0 &&
      recB s src 0x1120 4 0 fun s lw => lw.getD 0 0 = 0 && recB s src 0x1140 48 0 fun _ tw =>
        match v3Of tw 0, v3Of tw 3, v3Of tw 6, v3Of tw 9 with
        | some a, some b, some e, some z => STri.covers ⟨0, [a, b, e], z⟩ (pixelAt 0) (pixelAt 0)
        | _, _, _, _ => false) &&
     engB 4 (bvh 0 0x1000 0x10C0) [0, 0, 0, 0, 0x3F800000] (fun _ _ => !Bvh.good (bvh 0 0x1000 0x10C0) 1) &&
     engB 4 (bvh 1 0x1180 0x10C0) [0, 0, 0, 0, 0x3F800000] (fun s src => Bvh.good (bvh 1 0x1180 0x10C0) 1 && recB s src 0x1180 128 0 fun _ ws =>
      decide (nodeChildren (bvh 1 0x1180 0x10C0) ws false = some [])) &&
     -- a point at exactly the query's radius
     engB 4 (bvh 1 0x1000 0x10C0) [0, 0, 0, 0, 0x3F800000] (fun s src => recB s src 0x1000 128 0 fun s ws =>
      match nodeChildren (bvh 1 0x1000 0x10C0) ws false, fF32.er 0x3F800000, v3Of ((push7 4 0 [0, 0, 0, 0, 0x3F800000]).words) 1 with
      | some [ch], some (.fin r), some p => ch.ty = 2 && ch.count = 1 && ch.boxOk &&
          (boxDist [.fin p.x, .fin p.y, .fin p.z] ch).le (ER.fin r).sq &&
          recB s src 0x10C0 16 0 fun _ iw => match v3Of iw 0 with
            | some c0 => ((c0.sub p).dot (c0.sub p)).le (r.mul r)
            | none => false
      | _, _, _ => false) &&
     engB 5 0 (ray 0 0x3F800000 0) (fun _ _ => !Grid.good 0) &&
     -- a grid whose corner is at x = 1 and a ray at x = 0.25 along z
     (let g : BitVec 512 := BitVec.ofNat 512 (1 * 2 ^ 24 + 0x3F800000 * 2 ^ 256 + 0x3F800000 * 2 ^ 352)
      [0, 1, 2].all fun mode => engB 5 g (ray 0 0x3F800000 mode) fun _ _ => Grid.good g && Grid.dkind g != 0 && rayOk g (ray 0 0x3F800000 mode) fun o v _ _ =>
        match v3Of [Grid.corner g 0, Grid.corner g 1, Grid.corner g 2] 0 with
        | some corner => v.x.isZero && !corner.x.le o.x
        | none => false)) = true := by decide +kernel

/-! The Light meter of site A: its table ends in page 57, of which a word stands in page 1's frame; its blocks lie in page 1. -/
def meterHdr : MeterHdr := ⟨BitVec.ofNat 512 (1 + 100 * 2 ^ 128 + 2 ^ 196 + 2 ^ 136 + (0x1000 / 64) * 2 ^ 246 + (0x1200 / 64) * 2 ^ 200 + (0x1000 / 64) * 2 ^ 292), 7, false⟩
def meterState (m : Meter) (qs : List Queue) (word : DWord) (tile : Nat) : State := { base with
  mem := SMap.setRun [] (0x100000 + 4 * tile % 4096) (toBytes word 4), elapsed := 2000000
  siteA := { tlb := tlb7 ++ [⟨7, 57, 1, leaf 0x100 0, 0x200020, true⟩], meter := { m with tile := tile }, queues := qs } }
def sweepB (tile : Nat) (credit : Nat) (paced : Nat) (more : State → Nat → Bool) : Bool :=
  let s := meterState { en := true, adopted := some meterHdr, credit := [(tile, BitVec.ofNat 32 credit)], paced := paced
                        part := List.replicate 30 0 } [] 0x1FFF tile
  let m := (s.site 0).meter
  let ta := 0x100000 + 4 * tile % 4096
  let tw : Word := (s.wordAt ta 4).setWidth 32
  let p := min 65535 (8 * (tw.extractLsb' 0 13).toNat +
    (hdrGaze meterHdr.hdr * gazeTerm (s.site 0).gaze (hdrGrad meterHdr.hdr) m.tile + hdrErr meterHdr.hdr * (tw.extractLsb' 16 16).toNat) / 256)
  s.inflight.isEmpty && SMap.wf s.mem && m.en && decide (m.adopted = some meterHdr ∧ SMap.get m.motion0 m.tile = 0 ∧ m.tile = tile) &&
    unitB s 0 7 (hdrTable meterHdr.hdr + 4 * m.tile) 4 false { r := true } ta &&
    more s (min (2 ^ 20 - 1) ((SMap.get m.credit m.tile).toNat + p))
def paceB (s : State) (credit : Nat) : Bool :=
  let m := (s.site 0).meter
  64 * (m.emitted + credit / 65536) ≤ hdrRate meterHdr.hdr * (s.elapsed - m.paced)
def heldB (parked : Bool) (q : Queue) (more : State → Queue → Bool) : Bool :=
  let s := meterState { en := true, adopted := some meterHdr, held := some (task7, 0x1200), parked := parked } [q] 0 0
  let m := (s.site 0).meter
  decide (m.held = some (task7, 0x1200) ∧ m.adopted = some meterHdr ∧ m.parked = parked ∧ s.queue? 0x100000 = some (0, q)) &&
    unitB s 0 7 (hdrQueue meterHdr.hdr) 64 false { r := true } 0x100000 && more s q
/-- A scan of a Print at 1 GiB, with a template and a queue in page 1; the band's word is at 0x40000EE0 for band 238. -/
def scan7 : Scan := { reg := 0x1041, launch := 7, on := true, period := 8333333, start := 100
                      desc := BitVec.ofNat 512 ((0x1000 / 64) * 2 ^ 228 + (0x1040 / 64) * 2 ^ 274 + (0x40000000 / 64) * 2 ^ 182) }
def scanState (c : Scan) (timer : DWord) (mem : Memory) (qs : List Queue) : State := { base with
  mem := mem, timer := timer
  siteA := { tlb := tlb7 ++ [⟨7, 0x40000, 0x40000, leaf 0x40000 0, 0x200020, true⟩], scan := c, queues := qs, dpPresent := true } }
def bandB (band : Nat) (words : List Nat) (developed : Bool) (mem : Memory) (more : State → Scan → Bool) : Bool :=
  let c : Scan := { scan7 with band := band, scan := 8, developers := if developed then [(band + 1, 0)] else [] }
  let s := scanState c 8263988 (SMap.setRun mem (0x40000000 + 16 * band) (words.flatMap fun x => toBytes (BitVec.ofNat 64 x) 8)) [queueA .opened 0 0]
  let w := s.wordAt (0x40000000 + 16 * band) 16
  s.bandDue 0 && band + 1 < 240 && decide ((s.site 0).scan = c ∧ [(w.extractLsb' 0 64).toNat, (w.extractLsb' 64 64).toNat] = words) &&
    SMap.wf s.mem && unitB s 0 7 (scanPrint c.desc + 16 * c.band) 16 true { r := true } (0x40000000 + 16 * band) &&
    (c.developers.any (fun d => d.1 = band + 1) == developed) && more s c
/-- The rows of the last band but one: each of the 3,840 pieces of 64 bytes is mapped. -/
def rowsMapped : Bool :=
  let s := scanState { scan7 with band := 238, scan := 8 } 8263988 [] []
  (List.range 3840).all fun k => unitB s 0 7 (scanPrint scan7.desc + 4096 + 15360 * (16 * 238) + 64 * k) 64 true { r := true }
    (0x40000000 + 4096 + 15360 * (16 * 238) + 64 * k)
theorem witness_MeterAndScanout :
    (-- credits of 65,535, of 65,536 and of 131,071 after the visit of the first and of the last tile; a rate that holds the sweep
     ([0, 57599].all fun tile => sweepB tile 7 0 (fun s c => c == 65535 && paceB s c) &&
      [8, 65543].all fun credit => sweepB tile credit 0 fun s c => 65536 ≤ c && c < 131072 && paceB s c && !(s.site 0).meter.stall &&
        (s.site 0).meter.part.length == 30 && unitB s 0 7 ((s.site 0).meter.blockAt + 16 * 30) 16 false { w := true } 0x1003E0) &&
     sweepB 0 65543 2000000 (fun s c => !paceB s c) &&
     heldB true (queueA .opened 0 0) (fun _ _ => true) && heldB false (queueA .opened 0 4) (fun _ q => q.full) &&
     heldB false (queueA .closed 0 0) (fun _ _ => true) && heldB false (queueA .opened 0 3) (fun s q => takesB s 0 q 0x1004C0) &&
     -- a scan that is not due, one whose EN is clear, and ones whose descriptor is read again
     !(scanState scan7 8333432 [] []).scanDue 0 &&
     ([(0, false), (0x1041, false), (0x1041, true)].all fun (q : DWord × Bool) =>
      let c := { scan7 with reg := q.1, first := q.2 }
      let s := scanState c 8333433 [] []
      s.scanDue 0 && c.reg.getLsbD 0 == (q.1 != 0) && (q.1 = 0 || unitB s 0 7 c.descAt 64 true { r := true } 0x100040)) &&
     -- a band that is not due; black; the copy whose value is n + 1; the next band's task
     !(scanState { scan7 with band := 239 } 8298709 [] []).bandDue 0 &&
     ([0, 238].all fun b => bandB b [0, 0] true [] fun _ _ => true) &&
     ([(9, 10), (1, 0), (9, 8)].all fun q => bandB 238 [q.1, q.2] true [] fun s c => 0 < q.1 && q.1 ≤ c.scan.toNat + 1 &&
      (q.2 < q.1 || c.scan.toNat + 1 < q.2) && (s.site 0).dpPresent) &&
     rowsMapped &&
     bandB 238 [0, 0] false (SMap.setRun [] 0x100040 (toBytes task7 64)) (fun s c =>
      let r := bandRecord (s.wordAt 0x100040 64) (scanPrint c.desc) 8 239 (c.start.toNat + 16 * 239 * c.period / 3840)
      unitB s 0 7 (scanTempl c.desc) 64 true { r := true } 0x100040 && s.recordOk r &&
        unitB s 0 7 (scanQueue c.desc) 64 true { r := true } 0x100000 && takesB s 0 (queueA .opened 0 0) 0x100400)) = true := by decide +kernel

/-! A machine whose only core in use is core 0, with records of launch 7 for it. -/
def schedLaunch : Launch := { launch7 with record := launch7.record ||| BitVec.ofNat 512 (2 ^ 17) }
def oneCore : List Core := {} :: List.replicate 191 { retired := true }
def schedState (crews : List Crew) (mem : Memory) (qs : List Queue) : State := { base with
  launches := [schedLaunch], crews := crews, waves := if crews = [] then [] else [wave], cores := oneCore, mem := mem, siteA := { tlb := tlb7, queues := qs } }
def entry7 (r : BitVec 512) : QEntry := { record := r, scope := .device, cont := none }
/-- A queue with the record at its head, which stands at the ring's last slot. -/
def headQueue (r : BitVec 512) (wait : Option (Nat × Nat)) : Queue :=
  { queueA .opened 0xFFFFFFFF 0 with entries := [entry7 r], wait := wait }
def ringMem (r : BitVec 512) : Memory := SMap.setRun [] 0x1004C0 (toBytes r 64)
def bigTask (prio : Nat) : BitVec 512 := BitVec.ofNat 512 (7 * 2 ^ 48 + 2048 * 2 ^ 84 + 0x1000 * 2 ^ 128 + 2 ^ 64 + prio * 2 ^ 66)
def victim : Crew := { crew7 with record := bigTask 3, queue := some 0x100000, popped := 2 }
def placing7 (r : BitVec 512) : Placing := ⟨⟨r, 0x100000, 1, .device⟩, 0, none⟩
def gang7 (waited : Bool) : Gang := { launch := 7, gid := 5, size := 2, cluster := 23, started := [0], waitNs := 10, limitNs := 20, waited := waited }
/-- A member of gang 5 of launch 7. -/
def member7 : BitVec 512 := task7 ||| BitVec.ofNat 512 (2 ^ 70 + 5 * 2 ^ 104)
def hangCrew : Crew := { crew7 with since := 5, hangNs := 1000 }
def fire7 : Fire := ⟨7, false, 1, 0, 0x1040, 0x1000, some 0x100300⟩
def dsStore (ti : DWord) (pa : Nat) (b : Byte) : DsWrite := ⟨0x100300, ti, 0, pa, .store, 1, [b], {}⟩
def releasedWave (n : Nat) : Wave := { newWave 0 n 0 0 n 0 [] with lanes := List.replicate 32 { block := .released none 8 } }
def prewaitState : State := { schedState [victim] (ringMem (bigTask 0)) [headQueue (bigTask 0) (some (0, 7))] with elapsed := 7 }
theorem anyOf_one {α : Type} (n : Nat) (x : α) : anyOf n [x] = some x := by simp [anyOf, Nat.mod_one]
/-- The only crew whose discard makes room. -/
theorem witness_preemption : prewaitState.preemption (bigTask 0) = some (0, [victim]) := by
  have h : prewaitState.preemptCores (bigTask 0) = [0] := by decide +kernel
  have hs : ((subsets (prewaitState.victims [3] 0)).map List.flatten).filter
    (fun cs => (prewaitState.without cs).accepts (bigTask 0) 0) = [[victim]] := by decide +kernel
  have hf : prewaitState.fewestVictims (bigTask 0) [3] 0 = some [victim] := by
    unfold State.fewestVictims
    rw [hs]
    exact anyOf_one _ _
  simp [State.preemption, h, hf, argmin]
theorem witness_SchedulersAct :
    ((let s := schedState [] (ringMem task7) [headQueue task7 none]
      let q := headQueue task7 none
      decide ((s.site 0).queues = [q] ∧ (s.site 0).gangWait = [] ∧ (s.site 0).placing = [] ∧ q.state = .opened ∧ q.prio < 4 ∧ q.front = [] ∧
        q.entries = [entry7 task7] ∧ s.wordAt 0x1004C0 64 = task7 ∧ s.launch? 7 = some schedLaunch ∧ recJoin task7 = 0 ∧
        s.chooseCore task7 = some 0 ∧ s.inflight = [] ∧ Config.homeSite q.desc = some 0) && SMap.wf s.mem && unitB s 0 7 (q.slot q.head) 64 true { r := true } 0x1004C0 &&
        recordValid schedLaunch.gmax schedLaunch.priv task7 && !recGang task7 && !recDet task7 && !schedLaunch.failed && !schedLaunch.closed) &&
     decide ((schedState [victim] [] []).chooseCore (bigTask 0) = none) &&
     -- a placement that its core accepts; with the core full, the core retired, and its cluster in another class
     ([(task7, false, 0), (bigTask 0, false, 0), (task7, true, 0), (task7, false, 1)].all fun (z : BitVec 512 × Bool × Word) =>
      let s : State := { schedState (if z.1 = task7 then [] else [victim]) [] [] with
        cores := { retired := z.2.1 } :: List.replicate 191 { retired := true }
        siteA := { tlb := tlb7, queues := [queueA .opened 0 0], placing := [placing7 z.1], pool := z.2.2 } }
      decide ((s.site 0).placing = [placing7 z.1] ∧ s.queue? 0x100000 = some (0, queueA .opened 0 0)) && s.linkOpen && !recGang z.1 &&
        ((s.accepts z.1 0 && !(s.core 0).retired && s.takes (recClass z.1) 0) == decide (z = (task7, false, 0)))) &&
     -- a member of a gang that stands on cluster 23
     (let s : State := { schedState [] [] [] with gangs := [gang7 false]
                                                  siteA := { tlb := tlb7, queues := [queueA .opened 0 0], placing := [placing7 member7] } }
      decide ((s.site 0).placing = [placing7 member7] ∧ s.gang? (gangKey member7) = some (gang7 false) ∧ (gang7 false).cluster ≠ 0 / 8 ∧
        gangKey member7 = (7, 5) ∧ s.queue? 0x100000 = some (0, queueA .opened 0 0)) &&
        s.linkOpen && recGang member7 && !(gang7 false).failed && s.gangOffered (7, 5)) &&
     ([4, 3].all fun tail =>
      let q := queueA .opened 0 tail
      let s : State := { schedState [] [] [q] with offers := [⟨7, 0, 0x100000, 0x1000, task7, .join 0 0⟩] }
      decide (s.queue? 0x100000 = some (0, q)) && if tail = 4 then q.full else takesB s 0 q 0x1004C0) &&
     (let s : State := { schedState [] (SMap.setRun [] 0x100040 (toBytes task7 64)) [] with
        fires := [fire7], dsWrites := [dsStore 9 0x100800 1, dsStore 8 0x100800 2]
        siteA := { tlb := tlb7, queues := [queueA .opened 0 0], dsLines := [⟨0x100800 / 64, 0x100300, List.replicate 64 0, none⟩] } }
      let r := recSetLaunch (s.wordAt 0x100040 64) 7
      decide ((s.fires.find? fun f => f.phase = some 0x100300) = some fire7 ∧ s.homeBytes 0x100800 64 = List.replicate 64 0 ∧ s.badLines = []) && s.linkOpen &&
        unitB s 0 7 0x1040 64 false { r := true } 0x100040 && unitB s 0 7 0x1000 64 false { r := true } 0x100000 &&
        takesB s 0 (queueA .opened 0 0) 0x100400 && decide (s.launch? 7 = some schedLaunch ∧ r = task7) &&
        recordValid schedLaunch.gmax schedLaunch.priv r) &&
     (let q := headQueue (bigTask 0) (some (0, 7))
      let s := prewaitState
      decide ((s.site 0).gangWait = [] ∧ (s.site 0).ring 0 = [] ++ q :: [] ∧ s.queueDue 0 q = true ∧ s.queue? q.desc = some (0, q) ∧ s.wordAt 0x1004C0 64 = bigTask 0 ∧ 0 / 96 = 0 ∧
        s.findCore (bigTask 0) = none ∧ s.crew? victim.key = some victim ∧
        (s.cluster victim.cluster).copies = []) && s.launchRuns 7 && s.recordOk (bigTask 0) && !recGang victim.record &&
        unitB s 0 7 (q.slot q.head) 64 true { r := true } 0x1004C0 && (s.waves.all fun z => z.parked.isEmpty)) &&
     -- the cluster free, held by the gang itself, and held by another
     ([(9, false, none), (10, false, none), (10, false, some (7, 5)), (10, false, some (7, 6)), (20, true, none)].all
      fun (q : Nat × Bool × Option (Nat × Nat)) =>
      let s : State := { schedState [crew7] [] [] with
        gangs := [gang7 q.2.1], elapsed := q.1, clusters := List.replicate 23 {} ++ [{ reserved := q.2.2 }] }
      decide (s.gang? (7, 5) = some (gang7 q.2.1) ∧ (s.cluster 23).reserved = q.2.2 ∧ 23 < s.clusters.length ∧ s.gangMembers (7, 5) = [] ∧
        s.siteA.placing = [] ∧ s.siteB.placing = [] ∧ (s.crews.map Crew.key).Nodup) &&
        (s.overdue (gang7 q.2.1) 10 == decide (10 ≤ q.1)) && (s.overdue (gang7 q.2.1) 20 == decide (20 ≤ q.1)) &&
        s.clusters.all fun k => k.copies.isEmpty) &&
     ([1004, 1005].all fun now =>
      let s : State := { base with crews := [hangCrew], elapsed := now }
      decide (s.crew? hangCrew.key = some hangCrew ∧ s.roomWait hangCrew = none ∧ s.sessions = []) && !hangCrew.hung &&
        s.waves.any fun w => w.crew == hangCrew.key && (!w.parked.isEmpty || w.lanes.any fun l => l.life == .live)) &&
     ([hangCrew, { hangCrew with hung := true }].all fun c =>
      let c := { c with dsWait := some 0x1040, roomSince := some (5, 1000) }
      let s : State := { base with crews := [c], elapsed := 1005 }
      decide (s.crew? c.key = some c ∧ s.roomWait c = some 0x1040 ∧ c.roomSince = some (5, 1000) ∧ c.since ≤ 5 ∧ 5 + 1000 ≤ s.elapsed ∧
        s.launch? c.launch = some launch7 ∧ s.sessions = []) && !launch7.failed) &&
     ([(0x0403, 2), (0x0403, 3), (0x0001, 0)].all fun (q : Word × Nat) =>
      let s : State := { base with cores := { issueNow := q.1, windows := q.2 } :: List.replicate 191 {}, waves := [wave, releasedWave 1] }
      decide (0 < s.cores.length ∧ (s.core 0).windows = q.2 ∧ 2 ≤ (s.crewWaves crew7.key).length)) &&
     (let s : State := { base with waves := (List.range 9).map releasedWave }
      decide ((s.waves.map Wave.key).Nodup ∧ (s.releasable crew7.key).length = 9 ∧ (releasedWave 0).lanes.all fun l => l.block = .released none 8))) = true := by decide +kernel

/-! A flow from core 0 to site B at the last number before the wrap. -/
def flowId (ordered : Bool) : FlowId := ⟨0, .core, 1, ordered⟩
def flow7 (ordered : Bool) (load : Payload) : Flow :=
  { id := flowId ordered, next := 0x0002, unacked := [(0xFFFF, load), (0x0000, .access 9), (0x0001, .access 9)]
    transit := [0xFFFF, 0xFFFE, 0x0000], expected := 0xFFFF }
/-- A record of band 4095, and a write of core 0 to page frame 0x100000 of site B. -/
def bandWords : BitVec 256 := BitVec.ofNat 256 (4095 * 2 ^ 40)
def flyB : Inflight := { flyW 6 0x6000000000 7 with pkt := some 0xFFFF, kind := .so }
def linkState (x : Flow) (ls : LinkState) (fly : List Inflight) : State := { base with flows := [x], linkState := ls, inflight := fly }
/-- Module 3 of site B, with bad lanes. -/
def trainState (map : DWord) : State := { base with
  linkState := .training, training := 8, siteB := { link := List.replicate 3 {} ++ [{ tmap := map, treq := 2 }] } }
def ptp (rate : Word) : PtpMsg := ⟨1, true, false, true, 3, 5, rate, 6, 7, 8⟩
/-- A gaze record of both eyes, and one with a reserved bit. -/
def gaze (t : Nat) : BitVec 256 := BitVec.ofNat 256 (t + 2 ^ 64 + 3 * 2 ^ 72)
theorem witness_LinkTimeAndHeadset :
    ((let x := flow7 true (.record 0 bandWords)
      let s := linkState x .active []
      decide (s.flow (flowId true) = x ∧ s.linkState = .active ∧ x.payload 0xFFFF = some (.record 0 bandWords) ∧
        bandWords.extractLsb' 40 12 = 4095 ∧ (s.site 1).neg.counts = [] ∧ x.early = [] ∧ x.held = []) &&
        x.transit.contains 0xFFFF && !x.applied 0xFFFF &&
        -- a copy of one that is applied; one that comes early; an acknowledgement of the one expected less one
        x.transit.contains 0xFFFE && x.applied 0xFFFE && x.transit.contains 0x0000 && !x.applied 0x0000 &&
        decide ((x.expected - 0xFFFE - 1).toNat < 32768)) &&
     (let s := linkState (flow7 true (.access 6)) .active [flyB]
      decide (s.inflight = [flyB] ∧ (s.flow (flowId true)).payload 0xFFFF = some (.access flyB.id) ∧ flyB.pkt = some 0xFFFF ∧
        flyB.flow = flowId true ∧ Config.homeSite flyB.pa = some 1 ∧
        s.badLines = []) && SMap.wf s.mem) &&
     decide ((linkState (flow7 true (.access 6)) .failed []).linkState ≠ .active) &&
     ([0, 1, 2, 3].all fun w => decide (({ base with siteB := { link := List.replicate 3 {} ++ [{ width := w }] } } : State).siteB.link.length = 4)) &&
     -- four and five spare lanes in use, in the module that is being trained
     ([(0xF00000000, 4), (0x1F00000000, 5)].all fun (q : DWord × Nat) =>
      let s := trainState q.1
      let m := (s.site 1).mod 3
      decide (s.linkState = .training ∧ s.siteA.link.length = 4 ∧ s.siteB.link.length = 4 ∧
        ((List.range 64).countP fun k => (m.tmap &&& widthLanes m.treq).getLsbD k) = q.2) && s.training.getLsbD 3) &&
     ([0, 1].all fun up => ({ base with pause := up = 1 } : State).pause == decide (up = 1)) &&
     ([100000, 0xFFFE7960].all fun r => decide ((ptp r).site < 2 ∧ -100000 ≤ r.toInt ∧ r.toInt ≤ 100000)) &&
     ([0, 255].all fun n =>
      let s : State := { base with hsRing := some (0x200000, 256), hsCount := n, siteA := { gaze := some (gaze 8) } }
      hsAccepted (gaze 8) && !hsAccepted (gaze 8 ||| BitVec.ofNat 256 (2 ^ 80)) && decide (s.hsRing = some (0x200000, 256) ∧ s.retired = []) &&
        s.badLines.isEmpty && SMap.wf s.mem)) = true := by decide +kernel

/-! Session 9 of a module with a configuration record, and requests that it sends. -/
/-- A key pair of the owner's, made outside the model, and its signature of session 9's challenge of zeros. -/
def hostKey : List Byte := [
  0xe1470f8ca5fdd50379ccde6fa3d556585720d8bc662a980e14e18886657262bd,
  0xe12d6ada7a27003010440aaabcf34403a8e0fa69d1f0ba62b1b94d4bb7afe415,
  0x4d088bc8f1228edb5a961b4410b4d4f1a2a978fa576a8f51092305d6e4a1a315,
  0x176210ed5a99368aec839216373dab9d2732fe1eb8b44bc43de03e9e6e42c8e0,
  0x03282c9bce11b0f5c80315bdb0f94c9666a99abf24036d4de09e1d0a5d9e6bc8,
  0x2195078892f12ff13cd7a50beb34c6318652545fddd014b7ba3e034d844821ed,
  0x2b5570db54e51ef07054a97da7215397fc66984db2bfa2426009db625aea4676,
  0xd9eb544e5c52f3d8a166921bc96cc54d4bff4eff2ef53e6b2845a668df92471d,
  0x3272c31cf2e47f7afa4435f7e4cda8601f15235b1aaac9bea71698afc3b68e80,
  0x8c0ea9009d8a8c05f8e219cafa6be3431603b79789cfb31a8cd5994f53ed8903,
  0x2b7b4302202c29fca6842e1cd12a3389a058eff406eb7bc295d8cf83d4777767,
  0x9ccf78fe3fa3328a63571dc00cb734c8ac31cc93f6939f4c10b6ebaa24f2b277,
  0x52e390d70f29e893e25e2c213bfb3b76c0c6a53a4ed4e12365fac21cc1ea6b0f,
  0x2d8831adf08a206ef7990d43f750dce55f0574efe0693fc6fbc5f6a2f288b2c2,
  0xd64fe39192012b8c6ed6202aef589e5b2f9b18bbea04035a329492d3f1de844c,
  0x2ca6d55153b5e0bbd89420f964dcbbd816439df1779b2dd2e6b894e6dab089b1].flatMap fun x : Nat => beBytes 32 x
def hostSig : List Byte := [
  0x768ee3181670110b4555ffa7818d32428bd89f881b9de1f957c9b29f606d680d,
  0xd73a9317afd6df31dc1a418e68d009940094bb7611babffe36b47b2a4d60aa22,
  0x2010bdef11102d195504ab582276eef980cc2971c2c20fa60696fa290f5fca02,
  0xc127594114139734717531af9c00489871f89b9dcf6c6ac6c92fb17b492da89f,
  0x5e0924eea336ca833c80f1dd3d4ec991584721be2f380a66ccf826524aba8fac,
  0xbe965ba6771864b761a5676826bb7a47152e0b2881398fe4f22508299c6d1b19,
  0x7dbf73fd143a0a626df78aa2638fa8860181322a0f6a96e4e61956fb69306fd5,
  0xcd9825ee04c15d0f94acac8b5d834e4e8be03fc1d3afd0e0b7d6d896bb1005eb,
  0xb13fb0e921f819d15ceb5007699d9485653f62d5b927ae1243f6d634af582c23,
  0x4763b9c12c9a801c314c901193e0d755335eaf5834982f4db5d60bd52e8ef830,
  0x4fe4a05f3fd1d77889803839efdaca1a6d2f001556f1c6ee3efc0872bc819dc7,
  0x6300a99c797cc60a5caff7c837516606877ced62f3dd6ad8352da12ba68a65d7,
  0x82549bc87cf7de3e43aac430999a89e76124386958bf583bac83ed241da66528,
  0x2f15b323cc2962417cd23bfce8313d2f82646cf61b0e4d35cf91406672131063,
  0x9d7818c6fde1e4f207c7976d5976770d0a53f03669320d204964810460b45102,
  0x87e4dfee51ffd8343488de6aee48fc94d97ac1ba806622798e925a9be5202c92].flatMap fun x : Nat => beBytes 32 x
/-- The digest of the key, by another implementation of SHA-512. -/
def hostDigest : BitVec 384 := 0x9eee1ca38657032e05c3b794e3ead4b08e192d86a069296c831c7052ab9fbc541d8964fd583254e658b8932ad66cd65c
theorem test_sha512 : (sha512 hostKey).take 48 = toBytes hostDigest 48 := by decide +kernel
theorem test_pss : pssVerify hostKey (toBytes (0 : BitVec 256) 32 ++ toBytes (9 : BitVec 32) 4) hostSig = true := by decide +kernel

def session9 (priv : Bool) : Session := { num := 9, priv := priv, expected := 0x80000000, answered := [(1, [7])]
                                          unacked := [(0xFFFFFFFF, (0x20, [1])), (0, (0x20, [2]))], lastAt := 5 }
def quietSession : Session := { session9 false with unacked := [] }
/-- A datagram from a host to site B's Ethernet port, at the address set there. -/
def gram (type : BitVec 8) (session : Nat) (seq : Word) (body : List Byte) : Datagram :=
  { port := 1, src := 0xFE80, sport := 4242, dst := 0xFD01, dport := 47310, bytes := rosoinu type session seq 0 0x77 body }
def cfgBytes : List Byte := toBytes (BitVec.ofNat 128 1) 16 ++ toBytes hostDigest 48 ++ List.replicate 512 0
def hostState (x : Session) : State := { base with sessions := [x], elapsed := 60000000005, siteB := { config := cfgBytes, ip := 0xFD01 } }
def inTurnB (d : Datagram) (type : BitVec 8) (s : State) (x : Session) (more : Req → Bool) : Bool :=
  match parseReq d with
  | some r => decide (r.type = type ∧ s.session? r.session = some x ∧ r.seq = x.expected ∧ x.held = []) && s.booted && !s.alarm &&
    s.listens d && more r
  | none => false
theorem turn_of {d : Datagram} {type : BitVec 8} {s : State} {x : Session} {more : Req → Bool} (h : inTurnB d type s x more = true) :
    ∃ r, InTurn d type s x r ∧ more r = true := by
  unfold inTurnB at h
  split at h
  · rename_i r hr
    simp only [Bool.and_eq_true, decide_eq_true_eq, Bool.not_eq_true'] at h
    exact ⟨r, ⟨h.1.2, hr, h.1.1.1.1.1, h.1.1.1.2, h.1.1.2, h.1.1.1.1.2.1, h.1.1.1.1.2.2.1, h.1.1.1.1.2.2.2⟩, h.2⟩
  · cases h
/-- A port hears what comes to its link-local address. -/
theorem witness_SessionsOfTheHost_local (d : Datagram) : (base.listens { d with port := 1, dst := linkLocal 1, dport := 47310 }) = true := by
  simp [State.listens, rosoinuPort]
/-- A request that a session's window does not admit, or that is of no session. -/
def parseB (d : Datagram) (more : Req → Bool) : Bool :=
  match parseReq d with
  | some r => more r
  | none => false
theorem witness_SessionsOfTheHost :
    ((hostState quietSession).listens (gram 1 0 1 []) && !(hostState quietSession).listens { gram 1 0 1 [] with dport := 47311 } &&
     -- OPEN with a payload, with a session, with 16 sessions open, and with 15
     ([(0, [0]), (1, [])].all fun q => parseB (gram 1 q.1 1 q.2) fun r => r.type == 1 && (r.body != [] || r.session != 0)) &&
     parseB (gram 1 0 1 []) (fun r => decide (r.type = 1 ∧ r.body = [] ∧ r.session = 0)) &&
     ([15, 16].all fun n =>
      let s : State := { hostState quietSession with sessions := List.replicate n quietSession }
      s.listens (gram 1 0 1 []) && s.booted && !s.alarm && decide (s.sessions.length = n)) &&
     -- ELEVATE with a good and with a bad signature, and with a payload of another length
     ([1023, 1025].all fun n => inTurnB (gram 2 9 0x80000000 (List.replicate n 0)) 2 (hostState (session9 false)) (session9 false)
      fun r => decide (r.body.length ≠ 1024)) &&
     (let s := hostState (session9 false)
      inTurnB (gram 2 9 0x80000000 (hostKey ++ hostSig)) 2 s (session9 false) fun r => decide (r.body.length = 1024 ∧ r.d.port % 2 = 1 ∧
        cfgHostKey (s.site 1).cfg = hostDigest ∧ hostDigest ≠ 0 ∧ r.body.take 512 = hostKey ∧ r.body.drop 512 = hostSig ∧ s.messages = [])) &&
     (let s : State := { hostState (session9 false) with siteB := { ip := 0xFD01 } }
      inTurnB (gram 2 9 0x80000000 (hostKey ++ hostSig)) 2 s (session9 false) fun r => decide (r.body.length = 1024 ∧
        cfgHostKey (s.site 1).cfg = 0)) &&
     inTurnB (gram 3 9 0x80000000 [0]) 3 (hostState (session9 true)) (session9 true) (fun r => r.body != []) &&
     inTurnB (gram 3 9 0x80000000 []) 3 (hostState quietSession) quietSession (fun r => r.body.isEmpty && quietSession.unacked.isEmpty &&
      quietSession.waiting.isEmpty) &&
     (let s := hostState (session9 true)
      s.booted && !s.alarm && parseB (gram 4 9 0 (toBytes (0xFFFFFFFF : Word) 4)) fun r =>
        decide (r.type = 4 ∧ r.body.length = 4 ∧ s.session? r.session = some (session9 true))) &&
     ([0x06, 0xFF].all fun t => inTurnB (gram t 9 0x80000000 []) t (hostState (session9 true)) (session9 true) fun r => !knownType r.type) &&
     -- a session heard 60 s ago, one heard 1 ns less ago, a message past the window with and without a stored response
     ([60000000004, 60000000005].all fun now => (session9 false).lastAt + 60000000000 ≤ now || now < (session9 false).lastAt + 60000000000) &&
     decide ((hostState quietSession).session? 9 = some quietSession) &&
     ([(1, true), (0x80000040, false)].all fun (q : Word × Bool) => parseB (gram 5 9 q.1 []) fun r =>
      decide (r.type = 5 ∧ 64 ≤ (r.seq - (session9 true).expected).toNat) &&
        ((session9 true).answered.find? fun a => a.1 = r.seq).isSome == q.2)) = true := by decide +kernel

/-! Requests of session 9 to a machine with launch 7 and its tables, which the session has opened. -/
def num (x n : Nat) : List Byte := toBytes (BitVec.ofNat (8 * n) x) n
def ownLaunch : Launch := { launch7 with session := 9 }
def reqState (priv : Bool) (qs : List Queue) : State := { base with
  sessions := [session9 priv], launches := [ownLaunch], mem := tables, siteA := { tlb := tlb7, queues := qs }, siteB := { ip := 0xFD01 } }
def reqB (priv : Bool) (type : BitVec 8) (body : List Byte) (qs : List Queue) (more : State → Session → Req → Bool) : Bool :=
  let s := reqState priv qs
  let d := gram type 9 0x80000000 body
  inTurnB d type s (session9 priv) fun r => decide (r.body = body ∧ body.length ≤ 1440) && SMap.wf s.mem && s.badLines.isEmpty &&
    more s (s.hearing (session9 priv) d r) r
def access (a n phys launch : Nat) : List Byte := num a 8 ++ num n 2 ++ num phys 2 ++ num launch 2 ++ [0, 0]
/-- What an access of a request comes to: 0 with the range, or a status; 256 where it cannot be made. -/
def accessIs (s : State) (y : Session) (b : List Byte) (top : Nat) (need : Need) (want : Nat × List (Nat × Nat)) : Bool :=
  match (s.setSession y).hostAccess y b top need with
  | .error st => want == (st, [])
  | .ok (_, .at ps) => want == (0, ps)
  | .ok (_, .bad) => want == (256, [])
  | .ok (_, .window) => false
/-- A launch record of number 8 on site A, with one gang member, one ring slot and an empty bank. -/
def goodRecord : BitVec 512 := BitVec.ofNat 512 (8 + 2 ^ 17 + 2 ^ 20 + 2 ^ 394)
theorem witness_RequestsOfTheHost :
    (-- a length of 0, of one too many, a reserved kind; physical without and with privilege; a launch that is not the session's; its page
     ([(0x1000, 0, 0, 7), (0x1000, 1441, 0, 7), (0x1000, 1, 2, 7)].all fun (q : Nat × Nat × Nat × Nat) =>
      reqB false 0x10 (access q.1 q.2.1 q.2.2.1 q.2.2.2) [] fun s y r => accessIs s y r.body 1440 { r := true } (1, [])) &&
     reqB false 0x10 (access 0x100000 16 1 0) [] (fun s y r => accessIs s y r.body 1440 { r := true } (2, [])) &&
     reqB true 0x10 (access 0x100000 1440 1 0) [] (fun s y r => isMemory 0x100000 && isMemory (0x100000 + 1439) &&
      accessIs s y r.body 1440 { r := true } (0, [(0x100000, 1440)])) &&
     reqB false 0x10 (access 0x1000 16 0 8) [] (fun s y r => !s.opened (session9 false) 8 && accessIs s y r.body 1440 { r := true } (4, [])) &&
     reqB false 0x10 (access 0x1FF0 16 0 7) [] (fun s y r => s.opened (session9 false) 7 && decide (s.launch? 7 = some ownLaunch) &&
      accessIs s y r.body 1440 { r := true } (0, [(0x100FF0, 16)]) &&
      match walkFrom (s.setSession y) 0x1FF0 3 ownLaunch.root with
        | .leaf e _ _ _ => !denies e false { r := true } && 0x1FF0 % 4096 + 16 ≤ 4096
        | .fail .. => false) &&
     reqB false 0x10 (access 0x2000 16 0 7) [] (fun s y r => accessIs s y r.body 1440 { r := true } (256, [])) &&
     reqB false 0x10 (List.replicate 17 0) [] (fun _ _ r => decide (r.body.length ≠ 16)) &&
     -- MEMWR: without privilege, too short, to a page that is not mapped, of the longest write
     reqB false 0x11 (access 0x100000 1 1 0 ++ [5]) [] (fun s y r => accessIs s y r.body 1424 { w := true } (2, [])) &&
     reqB true 0x11 (access 0x100000 2 1 0 ++ [5]) [] (fun s y r => accessIs s y r.body 1424 { w := true } (0, [(0x100000, 2)]) &&
      decide (r.body.length ≠ 16 + 2)) &&
     reqB false 0x11 (access 0x2000 1 0 7 ++ [5]) [] (fun s y r => accessIs s y r.body 1424 { w := true } (256, []) && decide (r.body.length = 17)) &&
     reqB true 0x11 (access 0x100000 1424 1 0 ++ List.replicate 1424 5) [] (fun s y r =>
      accessIs s y r.body 1424 { w := true } (0, [(0x100000, 1424)]) && decide (r.body.length = 16 + 1424)) &&
     -- LAUNCH: 63 bytes, an open number, no site, and a good record with an empty bank
     reqB false 0x12 (List.replicate 63 0) [] (fun _ _ r => decide (r.body.length ≠ 64)) &&
     ([(launch7.record, some 1), (BitVec.ofNat 512 8, some 2), (goodRecord, none)].all fun (q : BitVec 512 × Option Nat) =>
      reqB false 0x12 (toBytes q.1 64) [] fun s y r =>
        let l : Launch := { num := (q.1.extractLsb' 0 16).toNat, record := q.1, session := 9 }
        decide (r.body.length = 64 ∧ BitVec.ofNat 512 (ofBytes r.body) = q.1 ∧ (s.setSession y).rejects y l = q.2 ∧ y.unacked.length < 1024 ∧
          y.waiting = []) && (q.2.isSome || (match (s.setSession y).readBank l with
          | .ok _ => true
          | .error _ => false)) && ((s.setSession y).isOpen l.num == decide (q.2 = some 1))) &&
     -- LCLOSE
     ([num 7 2 ++ [1, 0], num 7 2].all fun b => reqB false 0x13 b [] fun _ _ r => decide (r.body.length ≠ 4 ∨ fieldAt r.body 2 2 ≠ 0)) &&
     reqB false 0x13 (num 8 2 ++ [0, 0]) [] (fun s _ r => decide (fieldAt r.body 0 2 = 8) && !s.isOpen 8) &&
     reqB false 0x13 (num 7 2 ++ [0, 0]) [queueA .opened 0 0] (fun s _ r => decide (r.body.length = 4 ∧ fieldAt r.body 2 2 = 0 ∧
      fieldAt r.body 0 2 = 7) && s.opened (session9 false) 7 && s.siteA.placing.isEmpty && s.siteB.placing.isEmpty &&
      [0, 1].all fun k => (s.site k).gangWait.isEmpty && (s.site k).queues.all fun q => q.front.isEmpty)) = true := by decide +kernel
theorem witness_RequestsOfTheHost_queues :
    (reqB true 0x14 (num 0x100000 8) [] (fun _ _ r => decide (r.body.length ≠ 72)) &&
     reqB true 0x14 (num 0x100000 8 ++ toBytes (task7 ||| 0x100000000) 64) [] (fun s _ r =>
      !s.recordOk (BitVec.ofNat 512 (ofBytes (r.body.drop 8)))) &&
     ([([], 0), ([queueA .closed 0 0], 2), ([queueA .faulted 0 0], 3), ([queueA .opened 0 4], 1), ([queueA .opened 0 3], 5)].all
      fun (q : List Queue × Nat) => reqB true 0x14 (num 0x100000 8 ++ toBytes task7 64) q.1 fun s _ r =>
        s.recordOk (BitVec.ofNat 512 (ofBytes (r.body.drop 8))) && decide (r.body.length = 72 ∧ fieldAt r.body 0 8 = 0x100000 ∧
          s.queue? 0x100000 = q.1.head?.map fun x => (0, x)) && (q.2 != 5 || q.1.all fun x => takesB s 0 x 0x1004C0)) &&
     reqB false 0x14 (num 0x100000 8 ++ toBytes task7 64) [queueA .closed 0 0] (fun s _ r => decide (r.body.length = 72 ∧
      s.queue? 0x100000 = some (0, queueA .closed 0 0))) &&
     reqB true 0x15 (num 1 7) [] (fun _ _ r => decide (r.body.length ≠ 8)) &&
     ([0, 1, 2, 3].all fun op => reqB true 0x15 (num (0x100000 + op) 8) [] fun _ _ r => decide (r.body.length = 8) && isMemory 0x100000) &&
     reqB true 0x16 (List.replicate 15 0 ++ [1]) [] (fun _ _ r => decide (fieldAt r.body 10 6 ≠ 0)) &&
     reqB false 0x16 (List.replicate 16 0) [] (fun _ _ r => decide (r.body.length = 16 ∧ fieldAt r.body 10 6 = 0)) &&
     ([0x1000, 0x100].all fun v => reqB true 0x16 (num v 8 ++ num 7 2 ++ List.replicate 6 0) [] fun s y _ =>
      ((s.setSession y).tlbinv (if (BitVec.ofNat 64 v).getLsbD 8 then [0, 1] else [1]) 7 (BitVec.ofNat 64 v)).isSome) &&
     -- SETIP of site 2, of a prefix of 129, of site 1 with a prefix of 128
     ([(2, 64), (1, 129), (1, 128)].all fun q => reqB true 0x05 ([BitVec.ofNat 8 q.1, 0, 0, 0] ++ num 0xFE80 16 ++ [BitVec.ofNat 8 q.2, 0, 0, 0]) []
      fun _ _ r => decide (r.body.length = 24 ∧ fieldAt r.body 0 1 = q.1 ∧ fieldAt r.body 20 1 = q.2 ∧ fieldAt r.body 1 3 = 0 ∧ fieldAt r.body 21 3 = 0)) &&
     reqB false 0x05 ([1, 0, 0, 0] ++ num 0xFE80 16 ++ [128, 0, 0, 0]) [] (fun _ _ r => decide (r.body.length = 24)) &&
     -- HSRING of 128 and of 384 slots, and of 256 and 2^20
     ([(128, false), (384, false), (256, true), (1048576, true)].all fun (q : Nat × Bool) =>
      reqB true 0x17 (num 0x200000 8 ++ num q.1 4 ++ num 0 4) [] fun _ _ r =>
        let n := fieldAt r.body 8 4
        decide (r.body.length = 16 ∧ fieldAt r.body 0 8 = 0x200000 ∧ fieldAt r.body 12 4 = 0 ∧ n = q.1) &&
          (decide (256 ≤ n ∧ n ≤ 2 ^ 20 ∧ 2 ^ Nat.log2 n = n) == q.2) && isMemory 0x200000 && isMemory (0x200000 + 32 * n - 1)) &&
     reqB false 0x17 (num 0x200000 8 ++ num 256 4 ++ num 0 4) [] (fun _ _ _ => true) &&
     -- GATE of no entry, and of 1 and of 128
     ([0, 1, 128].all fun n => reqB true 0x18 (num 1 8 ++ num 9 8 ++ num 7 4 ++ num n 4 ++ List.replicate (8 * n) 0) [] fun _ _ r =>
      decide (fieldAt r.body 20 4 = n ∧ r.body.length = 24 + 8 * n ∧ fieldAt r.body 0 1 = 1 ∧ fieldAt r.body 1 7 = 0)) &&
     reqB false 0x18 (num 1 8 ++ num 9 8 ++ num 7 4 ++ num 1 4 ++ num 255 8) [] (fun _ _ _ => true) &&
     -- TLBINV while a store to the page waits in a side log until software marks it dirty
     (let s : State := { reqState true [] with cores := { sideLog := [{ logOf 7 0x1000 with detail := pageDetail 0 4 }] } :: List.replicate 191 {} }
      let d := gram 0x16 9 0x80000000 (num 0x1100 8 ++ num 7 2 ++ List.replicate 6 0)
      inTurnB d 0x16 s (session9 true) fun r => ((s.setSession (s.hearing (session9 true) d r)).tlbinv [0, 1] 7 0x1100).isNone) &&
     -- ATTEST of no site, of site 1, and of site 1 when its keys are erased
     ([2, 1].all fun k => reqB false 0x30 (List.replicate 32 5 ++ [BitVec.ofNat 8 k, 0, 0, 0]) [] fun s _ r =>
      decide (r.body.length = 36 ∧ fieldAt r.body 32 1 = k ∧ fieldAt r.body 33 3 = 0) && (s.site 1).keys) &&
     (let s : State := { reqState false [] with siteB := { ip := 0xFD01, keys := false } }
      inTurnB (gram 0x30 9 0x80000000 (List.replicate 32 5 ++ [1, 0, 0, 0])) 0x30 s (session9 false) fun r =>
        decide (r.body.length = 36 ∧ fieldAt r.body 32 1 = 1) && !(s.site 1).keys)) = true := by decide +kernel

/-! Boot.  Which images and keys a module accepts is fused into it (R411), and no rule gives the values: the branches of a good and of a
bad image differ in that alone. -/
def bootState (a b : BootState) : State := { base with siteA := { boot := a, ip := 0xFD00 }, siteB := { boot := b, ip := 0xFD01 } }
theorem witness_PowerAndBoot :
    (([0, 1].all fun x => decide (((bootState .off .off).site x).boot = .off ∧ ((bootState .booted .stopped).site x).boot ≠ .off)) &&
     decide ((bootState .off .rereading).siteB.boot = .rereading ∧ (bootState .off .off).siteB.boot ≠ .rereading) &&
     decide (((bootState .waitingConfig .off).site 0).boot = .waitingConfig ∧ ((bootState .booted .off).site 0).boot = .booted) &&
     -- a configuration record that is one byte too short, on the site's port and on that of the other, which is booted; no datagram heard
     ([(bootState .off .waitingConfig, 1, 0xFD01), (bootState .booted .waitingConfig, 0, 0xFD00)].all fun (q : State × Nat × BitVec 128) =>
      let s := q.1
      let d : Datagram := { port := q.2.1, src := 0, sport := 47310, dst := q.2.2, dport := 47310, bytes := rosoinu 0x31 0 0 0 0 (List.replicate 575 1) }
      s.listens d && !s.listens { d with dport := 1 } && decide (d.port = 1 ∨ (d.port = 0 ∧ (s.site 0).boot = .booted)) &&
        decide ((s.site 1).boot = .waitingConfig) && match (s.site 1).answerTo 0x31 d with
      | some b => b.length == 575 && !(s.site 1).configOk b
      | none => false) &&
     -- the first chunk of an image, and the last
     ([([], none), ([1, 2], some 12)].all fun (q : List Byte × Option Nat) =>
      let s := bootState (.recovering q.1 q.2) .off
      let d : Datagram := { port := 0, src := 0, sport := 47310, dst := 0xFD00, dport := 47310, bytes := rosoinu 0x32 0 0 0 0 (num q.1.length 4 ++ num 12 4 ++ List.replicate 10 3) }
      s.listens d && match s.siteA.answerTo 0x32 d with
      | some b => decide (s.siteA.boot = .recovering q.1 q.2 ∧ 8 ≤ b.length ∧ b.length ≤ 1440 ∧ fieldAt b 0 4 = q.1.length ∧ fieldAt b 4 4 = 12 ∧
          (q.1 ++ b.drop 8).length = (if q.1 = [] then 10 else 12))
      | none => false)) = true := by decide +kernel

def poleState (poles : Word) (loft : BitVec 2) : State := { base with
  cores := List.replicate 191 {} ++ [{ poles := poles }], siteB := { loftPoles := [(511, loft)] } }
theorem witness_ErrorsAndEnvironment :
    (-- a cluster without a configuration record, at its limit and one degree or watt above it, with and without the mark
     ([(250, 105, false), (251, 105, true), (250, 106, true)].all fun (q : Nat × Nat × Bool) => decide (23 < base.clusters.length) &&
      decide ((base.site 1).config = []) && (decide (250 < q.1 ∨ 105 < q.2.1) == q.2.2)) &&
     ([true, false].all fun thr => (({ base with clusters := List.replicate 23 {} ++ [{ thr := thr }] } : State).cluster 23).thr == thr) &&
     -- an armed time trigger whose time has come, and ones that do not fire
     ([(9, 5, true), (9, 6, false), (8, 5, false), (1, 5, false)].all fun (q : Word × DWord × Bool) =>
      let s : State := { base with snapCtl := q.1, snapTime := q.2.1, timer := 5 }
      (s.snapCtl.getLsbD 0 && s.snapCtl.getLsbD 3 && decide (s.snapTime.toNat ≤ s.timer.toNat)) == q.2.2) &&
     -- a time that had passed when it was set, and one that had not
     ([(5, true), (4, false)].all fun (q : DWord × Bool) =>
      let s : State := { base with snapCtl := 9, snapTime := 4, snapFrom := q.1, timer := 5 }
      decide (s.snapTime.toNat ≤ s.timer.toNat) && (decide (s.snapTime.toNat < s.snapFrom.toNat) == q.2)) &&
     -- the first and the last byte of a crew's scratchpad, and the first beyond it
     ([(0, true), (crew7.scratchBytes - 1, true), (crew7.scratchBytes, false)].all fun (q : Nat × Bool) =>
      decide (base.crew? crew7.key = some crew7 ∧ crew7.core < 192 ∧ (base.site (crew7.core / 96)).rasCnt.length = 16) &&
        decide (q.1 < crew7.scratchBytes) == q.2) &&
     decide (base.sessions = [] ∧ (base.site 1).rasCnt.length = 16) && !isWindow 0x10003F && decide (Config.homeSite 0x10003F = some 0) &&
     ([true, false].all fun r =>
      let s : State := { base with cores := List.replicate 191 {} ++ [{ retired := r }] }
      decide (s.cores.length = 192) && (s.core 191).retired == r) &&
     ([(0xC0000000, 3), (0x80000000, 2)].all fun (q : Word × BitVec 2) =>
      let s := poleState q.1 q.2
      decide (s.cores.length = 192 ∧ (s.core 191).poles.extractLsb' 30 2 = q.2 ∧ SMap.get (s.site 1).loftPoles 511 = q.2) &&
        SMap.wf (s.site 1).loftPoles)) = true := by decide +kernel
end Sys2Proof.Tests
end

section
/-!
PROOF. Integer instructions read and write patterns: from what an operation gives for the patterns of its operands to the
statement about every element of every acting lane (04 R94-R109).
-/
namespace Sys2Proof.Laws
open Sys2Proof.Machine

/-! ### Patterns of the type's width -/

/-- What an operand of the type supplies is its pattern of W bits. -/
theorem low_toNat_of_fits {t : ITy} {a : DWord} (h : Fits t.regs a) : (low t a).toNat = a.toNat := by
  have hlt : a.toNat < 2 ^ wOf t := by
    cases t with
    | i32 | n32 => exact h rfl
    | i64 | n64 => exact a.isLt
  rw [low, BitVec.toNat_setWidth, Nat.mod_eq_of_lt hlt]

theorem wOf_le (t : ITy) : wOf t ≤ 64 := by cases t <;> decide

theorem le_wOf (t : ITy) : 32 ≤ wOf t := by cases t <;> decide

/-- A number that is a pattern of some width is that pattern in the low bits of 64. -/
theorem ofNat_eq_wide {n w : Nat} {x : BitVec w} (h : n = x.toNat) : BitVec.ofNat 64 n = wide x := by
  rw [h, BitVec.ofNat_toNat, wide]

/-- The immediate of LI as a pattern of the type (R35). -/
theorem immOf_mod (t : ITy) (imm : BitVec 22) : (immOf imm).toNat % 2 ^ wOf t = (low t (imm.signExtend 64)).toNat := by
  rw [low, BitVec.toNat_setWidth, immOf]

/-! ### The bodies -/

section
variable {i : Instr} {t : ITy}

theorem lrGives1_of {x : LR} {F : Nat → Nat} {f : DWord → DWord}
    (he : ∀ s, exec i s = issue i (unBody t x F) s)
    (hf : ∀ a, BitVec.ofNat 64 (F (low t a).toNat) = f a) : LrGives1 i x t f :=
  gives1 he fun a ha => by rw [← low_toNat_of_fits ha, hf]

theorem lrGives2_of {x : LR} {F : Nat → Nat → Nat} {n : Nat} {f : DWord → DWord → DWord}
    (he : ∀ s, exec i s = issue i (binBody t (.int n) x F) s)
    (hf : ∀ a b, BitVec.ofNat 64 (F (low t a).toNat b.toNat) = f a b) : LrGives2 i x t n f :=
  gives2 he fun a b ha _ => by rw [← low_toNat_of_fits ha, hf]

theorem lrGives3_of {x : LR} {F : Nat → Nat → Nat → Nat} {n : Nat} {f : DWord → DWord → DWord → DWord}
    (he : ∀ s, exec i s = issue i (terBody t (.int n) x F) s)
    (hf : ∀ a b c, BitVec.ofNat 64 (F (low t a).toNat (low t b).toNat c.toNat) = f a b c) : LrGives3 i x t n f :=
  gives3 he fun a b c ha hb _ => by rw [← low_toNat_of_fits ha, ← low_toNat_of_fits hb, hf]

theorem liGives_of {x : LI} {F : Nat → Nat → Nat} {f : DWord → DWord}
    (he : ∀ s, exec i s = issue i (liBody t x F) s)
    (hf : ∀ a, BitVec.ofNat 64 (F (low t a).toNat (low t (x.imm.signExtend 64)).toNat) = f a) : LiGives i x t f :=
  gives1 he fun a ha => by rw [← low_toNat_of_fits ha, immOf_mod, hf]

theorem shGives_of {x : SH} {F : Nat → Nat → Nat} {f : DWord → DWord → DWord}
    (he : ∀ s, exec i s = issue i (shBody x F) s)
    (hf : ∀ a b, BitVec.ofNat 64 (F (low .i32 a).toNat b.toNat) = f a b) : ShGives i x f :=
  gives2 he fun a b ha _ => by rw [← low_toNat_of_fits (t := .i32) ha, hf]

end

/-! ### Patterns as values -/

/-- The value of a pattern is that of the machine word. -/
theorem valueOf_toNat (sgn : Bool) {n : Nat} (x : BitVec n) :
    valueOf sgn n x.toNat = if sgn then x.toInt else (x.toNat : Int) := by
  cases sgn with
  | false => rfl
  | true =>
    have hhalf : 2 ^ (n - 1) ≤ x.toNat ↔ ¬ 2 * x.toNat < 2 ^ n := by
      cases n with
      | zero => have := x.isLt; omega
      | succ n => simp only [Nat.add_sub_cancel, Nat.pow_succ]; omega
    rw [BitVec.toInt_eq_toNat_cond, if_pos rfl]
    by_cases h : 2 * x.toNat < 2 ^ n
    · simp only [valueOf, hhalf, h, not_true_eq_false, decide_false, Bool.and_false, Bool.false_eq_true, if_false, if_true]
    · simp only [valueOf, hhalf, h, not_false_eq_true, decide_true, Bool.and_self, if_true, if_false, Int.natCast_pow,
        Int.cast_ofNat_Int]

/-- The value of the type that an operand supplies. -/
theorem valueOf_low (t : ITy) (b : DWord) : valueOf t.signed (wOf t) (low t b).toNat = intVal t b := valueOf_toNat ..

/-- Wrapping a value to n bits gives the machine word of that value. -/
theorem wrapOf_eq_toNat (n : Nat) (v : Int) : wrapOf n v = (BitVec.ofInt n v).toNat := by
  rw [wrapOf, BitVec.toNat_ofInt, Int.natCast_pow]
  rfl

end Sys2Proof.Laws
end

section
/-!
PROOF. Carries, borrows and addresses (04 R102, R103).
-/
namespace Sys2Proof.Laws
open Sys2Proof.Machine

/-- The carry-in is bit 0 of C. -/
theorem toNat_bit_zero {n : Nat} (c : BitVec n) : (c.getLsbD 0).toNat = c.toNat % 2 := by
  rw [BitVec.getLsbD, Nat.toNat_testBit, Nat.pow_zero, Nat.div_one]

theorem intAddc_sum (t : ITy) (a b : BitVec (wOf t)) (c : Nat) :
    intAddc t false a.toNat b.toNat c = (a + b + BitVec.ofNat _ (c % 2)).toNat := by
  rw [BitVec.toNat_add, BitVec.toNat_add, BitVec.toNat_ofNat, Nat.mod_add_mod, Nat.add_mod_mod]
  rfl

theorem intAddc_carry (t : ITy) (a b c : Nat) : intAddc t true a b c = if 2 ^ wOf t ≤ a + b + c % 2 then 1 else 0 := by
  simp only [intAddc, carryOf, if_true, decide_eq_true_eq]

/-- Each of the two subtractions of words adds the modulus once; the model adds both before it wraps. -/
theorem intSubc_difference (t : ITy) (a b : BitVec (wOf t)) (c : Nat) :
    intSubc t false a.toNat b.toNat c = (a - b - BitVec.ofNat _ (c % 2)).toNat := by
  have hb := b.isLt
  have hpos := Nat.two_pow_pos (wOf t)
  have hpow : 1 < 2 ^ wOf t := Nat.one_lt_two_pow (Nat.ne_of_gt (Nat.lt_of_lt_of_le (by decide) (le_wOf t)))
  have hcin : c % 2 % 2 ^ wOf t = c % 2 := Nat.mod_eq_of_lt (by omega)
  have hsum : 2 ^ wOf t - c % 2 + (2 ^ wOf t - b.toNat + a.toNat) = a.toNat + 2 * 2 ^ wOf t - b.toNat - c % 2 := by omega
  rw [BitVec.toNat_sub, BitVec.toNat_sub, BitVec.toNat_ofNat, hcin, Nat.add_mod_mod, hsum]
  rfl

theorem intSubc_borrow (t : ITy) (a b c : Nat) :
    intSubc t true a b c = if (a : Int) - b - (c % 2 : Nat) < 0 then 1 else 0 := by
  have : a < b + c % 2 ↔ (a : Int) - b - (c % 2 : Nat) < 0 := by omega
  simp only [intSubc, borrowOf, if_true, decide_eq_true_eq, this]

theorem ofInt_two_pow (k : Nat) : BitVec.ofInt 64 (2 ^ k) = BitVec.twoPow 64 k := by
  apply BitVec.eq_of_toNat_eq
  have hnat : (2 : Int) ^ k = (2 ^ k : Nat) := (Int.natCast_pow 2 k).symm
  rw [hnat, BitVec.ofInt_natCast, BitVec.toNat_ofNat, BitVec.toNat_twoPow]

/-- The address is the sum of machine words (R103). -/
theorem ofNat_leaSum (a : DWord) (b : Int) (sc : BitVec 2) :
    BitVec.ofNat 64 (leaSum a.toNat b sc) = a + BitVec.ofInt 64 b * BitVec.twoPow 64 sc.toNat := by
  rw [leaSum, wrapOf_eq_toNat, BitVec.ofNat_toNat, BitVec.setWidth_eq, BitVec.ofInt_add, BitVec.ofInt_mul, ofInt_two_pow,
    BitVec.ofInt_natCast, BitVec.ofNat_toNat, BitVec.setWidth_eq]

/-- Settles O16: each result is an operation on the patterns of the operands, taken as a machine word or as its carry. -/
theorem carriesAndAddresses : Obligations.CarriesAndAddresses := by
  unfold Obligations.CarriesAndAddresses
  refine ⟨fun x t co => ?_, fun x t co => ?_, fun x t sc => ?_, fun x t sc => ?_⟩
  · refine lrGives3_of (fun _ => rfl) fun a b c => ?_
    simp only [toNat_bit_zero]
    cases co with
    | false => exact ofNat_eq_wide (intAddc_sum t _ _ _)
    | true => rw [intAddc_carry]; split <;> rfl
  · refine lrGives3_of (fun _ => rfl) fun a b c => ?_
    simp only [toNat_bit_zero]
    cases co with
    | false => exact ofNat_eq_wide (intSubc_difference t _ _ _)
    | true => rw [intSubc_borrow]; simp only [if_true]; split <;> rfl
  · refine gives2 (fun _ => rfl) fun a b _ hb => ?_
    rw [← low_toNat_of_fits hb, valueOf_low, ofNat_leaSum]
  · exact gives1 (fun _ => rfl) fun a _ => ofNat_leaSum a x.imm.toInt sc

end Sys2Proof.Laws
end

section
/-!
PROOF. Shifts by an unmasked count (04 R105).
-/
namespace Sys2Proof.Laws
open Sys2Proof.Machine

theorem intShl_toNat (t : ITy) (a : BitVec (wOf t)) (k : Nat) : intShl t a.toNat k = (a <<< k).toNat := by
  rw [intShl]
  split
  · next h => rw [BitVec.shiftLeft_eq_zero h, BitVec.toNat_zero]
  · rw [BitVec.toNat_shiftLeft, Nat.shiftLeft_eq]

theorem intShr_toNat (t : ITy) (a : BitVec (wOf t)) (k : Nat) : intShr t a.toNat k = (a >>> k).toNat := by
  rw [intShr]
  split
  · next h => rw [BitVec.ushiftRight_eq_zero h, BitVec.toNat_zero]
  · rw [BitVec.toNat_ushiftRight, Nat.shiftRight_eq_div_pow]

/-- A count past the width shifts in copies of the sign alone, as the width does. -/
theorem sshiftRight_min {n : Nat} (a : BitVec n) (k : Nat) : a.sshiftRight (min k n) = a.sshiftRight k := by
  rcases Nat.le_total k n with h | h
  · rw [Nat.min_eq_left h]
  · ext j hj
    have hk : ¬ k + j < n := by omega
    have hn : ¬ n + j < n := by omega
    rw [Nat.min_eq_right h, BitVec.getElem_sshiftRight, BitVec.getElem_sshiftRight, dif_neg hk, dif_neg hn]

theorem intSra_toNat (t : ITy) (a : BitVec (wOf t)) (k : Nat) : intSra t a.toNat k = (a.sshiftRight k).toNat := by
  rw [intSra, valueOf_toNat, if_pos rfl, wrapOf_eq_toNat, ← sshiftRight_min, BitVec.sshiftRight_eq, Int.shiftRight_eq_div_pow,
    Int.natCast_pow]
  rfl

/-- An immediate count is the immediate extended to 32 bits, for either width (R105). -/
theorem imm_count (t : ITy) (imm : BitVec 22) :
    (low t (imm.signExtend 64)).toNat % 2 ^ 32 = (imm.signExtend 32).toNat := by
  have hword : (low t (imm.signExtend 64)).setWidth 32 = imm.signExtend 32 := by
    ext j hj
    have hw := le_wOf t
    simp only [low, BitVec.getElem_setWidth, show j < wOf t by omega, BitVec.getLsbD_eq_getElem, show j < 64 by omega,
      BitVec.getElem_signExtend]
  rw [← hword, BitVec.toNat_setWidth]

/-- Settles O19: each shift is the shift of the pattern as a machine word, whatever the count. -/
theorem shifts : Obligations.Shifts := by
  unfold Obligations.Shifts
  refine ⟨fun x t => ?_, fun x t => ?_, fun x t => ?_, fun x t => ?_, fun x t => ?_, fun x t => ?_, fun x => ?_, fun x => ?_,
    fun x => ?_⟩
  · exact lrGives2_of (fun _ => rfl) fun a k => ofNat_eq_wide (intShl_toNat t _ _)
  · exact lrGives2_of (fun _ => rfl) fun a k => ofNat_eq_wide (intShr_toNat t _ _)
  · exact lrGives2_of (fun _ => rfl) fun a k => ofNat_eq_wide (intSra_toNat t _ _)
  · exact liGives_of (fun _ => rfl) fun a => by rw [imm_count]; exact ofNat_eq_wide (intShl_toNat t _ _)
  · exact liGives_of (fun _ => rfl) fun a => by rw [imm_count]; exact ofNat_eq_wide (intShr_toNat t _ _)
  · exact liGives_of (fun _ => rfl) fun a => by rw [imm_count]; exact ofNat_eq_wide (intSra_toNat t _ _)
  · exact shGives_of (fun _ => rfl) fun a k => ofNat_eq_wide (intShl_toNat .i32 _ _)
  · exact shGives_of (fun _ => rfl) fun a k => ofNat_eq_wide (intShr_toNat .i32 _ _)
  · exact shGives_of (fun _ => rfl) fun a k => ofNat_eq_wide (intSra_toNat .i32 _ _)

end Sys2Proof.Laws
end

section
/-!
PROOF. Funnel shifts, fields of bits and truth tables (04 R106, R107, R109).
-/
namespace Sys2Proof.Laws
open Sys2Proof.Machine

/-! ### shf -/

/-- The double word of the funnel shift. -/
theorem toNat_append_eq_add {n : Nat} (a b : BitVec n) : (a ++ b).toNat = a.toNat * 2 ^ n + b.toNat := by
  rw [BitVec.toNat_append, ← Nat.shiftLeft_add_eq_or_of_lt b.isLt, Nat.shiftLeft_eq]

theorem intShf_right (t : ITy) (a b : BitVec (wOf t)) (c : Nat) :
    intShf t true a.toNat b.toNat c = (((a ++ b) >>> (c % (2 * wOf t))).setWidth (wOf t)).toNat := by
  rw [BitVec.toNat_setWidth, BitVec.toNat_ushiftRight, toNat_append_eq_add, Nat.shiftRight_eq_div_pow]
  rfl

theorem intShf_left (t : ITy) (a b : BitVec (wOf t)) (c : Nat) :
    intShf t false a.toNat b.toNat c = (((a ++ b) <<< (c % (2 * wOf t))).extractLsb' (wOf t) (wOf t)).toNat := by
  have hlt : ∀ m, m % 2 ^ (2 * wOf t) / 2 ^ wOf t < 2 ^ wOf t := fun m => by
    rw [Nat.div_lt_iff_lt_mul (Nat.two_pow_pos _), ← Nat.pow_add, ← Nat.two_mul]
    exact Nat.mod_lt _ (Nat.two_pow_pos _)
  rw [BitVec.extractLsb'_toNat, BitVec.toNat_shiftLeft, toNat_append_eq_add, Nat.shiftLeft_eq, Nat.shiftRight_eq_div_pow,
    ← Nat.two_mul, Nat.mod_eq_of_lt (hlt _)]
  rfl

/-! ### bfe and bfi -/

/-- Position and length are the two low bytes of the control word, held to the width. -/
theorem fieldOf_toNat (t : ITy) (c : DWord) : fieldOf t c.toNat =
    (min (c.extractLsb' 0 8).toNat (wOf t), min (c.extractLsb' 8 8).toNat (wOf t - min (c.extractLsb' 0 8).toNat (wOf t))) := by
  rw [BitVec.extractLsb'_toNat, BitVec.extractLsb'_toNat, Nat.shiftRight_eq_div_pow, Nat.shiftRight_eq_div_pow, Nat.pow_zero,
    Nat.div_one]
  rfl

theorem valueOf_zero (sgn : Bool) (n : Nat) : valueOf sgn n 0 = 0 := by
  have hpos : ¬ 2 ^ (n - 1) ≤ 0 := Nat.not_le.mpr (Nat.two_pow_pos _)
  rw [valueOf, decide_eq_false hpos, Bool.and_false]
  rfl

/-- A field of no bits has the value 0, so that bfe's own case for it says nothing apart. -/
theorem intBfe_eq (t : ITy) (a c : Nat) : intBfe t a c =
    wrapOf (wOf t) (valueOf t.signed (fieldOf t c).2 (a / 2 ^ (fieldOf t c).1 % 2 ^ (fieldOf t c).2)) := by
  show (if (fieldOf t c).2 = 0 then 0 else _) = _
  split
  · next h => rw [h, Nat.pow_zero, Nat.mod_one, valueOf_zero, wrapOf, Int.zero_emod, Int.toNat_zero]
  · rfl

theorem fieldOf_le (t : ITy) (c : Nat) : (fieldOf t c).1 + (fieldOf t c).2 ≤ wOf t := by
  simp only [fieldOf]; omega

theorem intBfe_extract (t : ITy) (a : BitVec (wOf t)) (c : Nat) :
    let f := a.extractLsb' (fieldOf t c).1 (fieldOf t c).2
    BitVec.ofNat 64 (intBfe t a.toNat c) = if t.signed then wide (f.signExtend (wOf t)) else wide f := by
  intro f
  have hf : a.toNat / 2 ^ (fieldOf t c).1 % 2 ^ (fieldOf t c).2 = f.toNat := by
    rw [BitVec.extractLsb'_toNat, Nat.shiftRight_eq_div_pow]
  rw [intBfe_eq, hf, valueOf_toNat, wrapOf_eq_toNat]
  split
  · exact ofNat_eq_wide (by rw [BitVec.signExtend.eq_1])
  · apply ofNat_eq_wide
    have hlt : f.toNat < 2 ^ wOf t := Nat.lt_of_lt_of_le f.isLt
      (Nat.pow_le_pow_right (by decide) (Nat.le_trans (Nat.le_add_left _ _) (fieldOf_le t c)))
    rw [BitVec.ofInt_natCast, BitVec.toNat_ofNat, Nat.mod_eq_of_lt hlt]

/-- The mask of len bits from pos on. -/
theorem toNat_fieldMask {n pos len : Nat} (h : pos + len ≤ n) :
    ((BitVec.allOnes len).setWidth n <<< pos).toNat = (2 ^ len - 1) * 2 ^ pos := by
  have hlen : 2 ^ len - 1 < 2 ^ n := Nat.lt_of_lt_of_le (Nat.sub_lt (Nat.two_pow_pos _) (by decide))
    (Nat.pow_le_pow_right (by decide) (by omega))
  have hmask : (2 ^ len - 1) * 2 ^ pos < 2 ^ n := calc
    (2 ^ len - 1) * 2 ^ pos < 2 ^ len * 2 ^ pos :=
      Nat.mul_lt_mul_of_pos_right (Nat.sub_lt (Nat.two_pow_pos _) (by decide)) (Nat.two_pow_pos _)
    _ = 2 ^ (pos + len) := by rw [← Nat.pow_add, Nat.add_comm]
    _ ≤ 2 ^ n := Nat.pow_le_pow_right (by decide) h
  rw [BitVec.toNat_shiftLeft, BitVec.toNat_setWidth, BitVec.toNat_allOnes, Nat.mod_eq_of_lt hlen, Nat.shiftLeft_eq,
    Nat.mod_eq_of_lt hmask]

/-- Bits shifted past the width do not reach a mask of the width. -/
theorem toNat_shiftLeft_and {n : Nat} (a mask : BitVec n) (p : Nat) :
    (a <<< p &&& mask).toNat = a.toNat * 2 ^ p &&& mask.toNat := by
  have hlt : a.toNat * 2 ^ p &&& mask.toNat < 2 ^ n := Nat.lt_of_le_of_lt Nat.and_le_right mask.isLt
  have hmod := Nat.and_mod_two_pow (a := a.toNat * 2 ^ p) (b := mask.toNat) (n := n)
  rw [Nat.mod_eq_of_lt hlt, Nat.mod_eq_of_lt mask.isLt] at hmod
  rw [BitVec.toNat_and, BitVec.toNat_shiftLeft, Nat.shiftLeft_eq, hmod]

theorem intBfi_insert (t : ITy) (a b : BitVec (wOf t)) (c : Nat) :
    let mask : BitVec (wOf t) := (BitVec.allOnes (fieldOf t c).2).setWidth (wOf t) <<< (fieldOf t c).1
    intBfi t a.toNat b.toNat c = ((b &&& ~~~mask) ||| ((a <<< (fieldOf t c).1) &&& mask)).toNat := by
  intro mask
  have hmask : mask.toNat = (2 ^ (fieldOf t c).2 - 1) * 2 ^ (fieldOf t c).1 := toNat_fieldMask (fieldOf_le t c)
  rw [BitVec.toNat_or, BitVec.toNat_and, BitVec.toNat_not, toNat_shiftLeft_and, hmask]
  rfl

/-! ### Words built bit by bit -/

/-- A bit put below a number. -/
theorem testBit_double_add (r : Nat) (b : Bool) (j : Nat) :
    (2 * r + if b then 1 else 0).testBit j = if j = 0 then b else r.testBit (j - 1) := by
  cases j with
  | zero =>
    rw [if_pos rfl, Nat.testBit_zero]
    cases b with
    | false => exact decide_eq_false (by simp only [Bool.false_eq_true, if_false]; omega)
    | true => exact decide_eq_true (by simp only [if_true]; omega)
  | succ j =>
    have hhalf : (2 * r + if b then 1 else 0) / 2 = r := by split <;> omega
    rw [Nat.testBit_succ, hhalf, if_neg (Nat.succ_ne_zero j), Nat.succ_sub_one]

/-- Bits put below one another from the last to the first stand in their order. -/
theorem testBit_foldr (p : Nat → Bool) (n s j : Nat) :
    ((List.range' s n).foldr (fun i r => 2 * r + if p i then 1 else 0) 0).testBit j = (decide (j < n) && p (s + j)) := by
  induction n generalizing s j with
  | zero => rw [List.range'_zero, List.foldr_nil, Nat.zero_testBit, decide_eq_false (Nat.not_lt_zero j), Bool.false_and]
  | succ n ih =>
    rw [List.range'_succ, List.foldr_cons, testBit_double_add, ih]
    cases j with
    | zero => rw [if_pos rfl, decide_eq_true (Nat.succ_pos n), Bool.true_and, Nat.add_zero]
    | succ j =>
      have hplace : s + 1 + j = s + (j + 1) := by omega
      rw [if_neg (Nat.succ_ne_zero j), Nat.succ_sub_one, hplace]
      simp only [Nat.add_lt_add_iff_right]

/-- Bits put below one another from the first to the last stand in the opposite order. -/
theorem testBit_foldl (p : Nat → Bool) (n j : Nat) :
    ((List.range n).foldl (fun r i => 2 * r + if p i then 1 else 0) 0).testBit j = (decide (j < n) && p (n - 1 - j)) := by
  induction n generalizing j with
  | zero => rw [List.range_zero, List.foldl_nil, Nat.zero_testBit, decide_eq_false (Nat.not_lt_zero j), Bool.false_and]
  | succ n ih =>
    rw [List.range_succ, List.foldl_append, List.foldl_cons, List.foldl_nil, testBit_double_add, ih]
    cases j with
    | zero => rw [if_pos rfl, decide_eq_true (Nat.succ_pos n), Bool.true_and]; rfl
    | succ j =>
      have hplace : n - 1 - j = n + 1 - 1 - (j + 1) := by omega
      rw [if_neg (Nat.succ_ne_zero j), Nat.succ_sub_one, hplace]
      simp only [Nat.add_lt_add_iff_right]

theorem testBit_lut3Of (tb : BitVec 8) (a b c : DWord) (j : Nat) : (lut3Of tb a.toNat b.toNat c.toNat).testBit j =
    (decide (j < 32) && tb.getLsbD (4 * (a.getLsbD j).toNat + 2 * (b.getLsbD j).toNat + (c.getLsbD j).toNat)) := by
  have hindex : ∀ p q r : Bool, ((if p then 4 else 0) + (if q then 2 else 0) + if r then 1 else 0) =
      4 * p.toNat + 2 * q.toNat + r.toNat := by decide
  rw [lut3Of, List.range_eq_range', testBit_foldr, Nat.zero_add, hindex]
  rfl

/-- Settles O20: the funnel shift is a shift of the double word, a field is cut out or put in under its mask, and the truth
table acts on each bit place by itself. -/
theorem fieldsOfBits : Obligations.FieldsOfBits := by
  unfold Obligations.FieldsOfBits
  refine ⟨fun x t right => ?_, fun x t => ?_, fun x t => ?_, fun x table => ?_⟩
  · refine lrGives3_of (fun _ => rfl) fun a b c => ?_
    cases right with
    | true => exact ofNat_eq_wide (intShf_right t _ _ _)
    | false => exact ofNat_eq_wide (intShf_left t _ _ _)
  · refine lrGives2_of (fun _ => rfl) fun a c => ?_
    rw [intBfe_extract, fieldOf_toNat]
  · refine lrGives3_of (fun _ => rfl) fun a b c => ?_
    rw [ofNat_eq_wide (intBfi_insert t _ _ _), fieldOf_toNat]
  · refine ⟨fun a b c => BitVec.ofNat 64 (lut3Of table a.toNat b.toNat c.toNat),
      gives3 (fun _ => rfl) fun _ _ _ _ _ _ => rfl, fun a b c => ⟨fun j hj => ?_, fun j hj => ?_⟩⟩
    · rw [BitVec.getLsbD_ofNat, testBit_lut3Of, decide_eq_true hj, decide_eq_true (show j < 64 by omega),
        Bool.true_and, Bool.true_and]
    · rw [BitVec.getLsbD_ofNat, testBit_lut3Of, decide_eq_false (show ¬ j < 32 by omega), Bool.false_and, Bool.and_false]

end Sys2Proof.Laws
end

section
/-!
PROOF. Counts of bits and their reversal (04 R108).
-/
namespace Sys2Proof.Laws
open Sys2Proof.Machine

theorem intPopc_low (t : ITy) (a : DWord) :
    intPopc t (low t a).toNat = (List.range (wOf t)).countP fun j => a.getLsbD j := by
  refine List.countP_congr fun j hj => ?_
  rw [BitVec.testBit_toNat, low, BitVec.getLsbD_setWidth, decide_eq_true (List.mem_range.mp hj), Bool.true_and]

/-- clz counts the places above the highest 1 bit. -/
theorem intClz_spec (t : ITy) (a : BitVec (wOf t)) :
    intClz t a.toNat ≤ wOf t ∧ (∀ j < wOf t, wOf t - intClz t a.toNat ≤ j → a.getLsbD j = false) ∧
      (intClz t a.toNat < wOf t → a.getLsbD (wOf t - 1 - intClz t a.toNat) = true) := by
  by_cases h : a.toNat = 0
  · have hz : a = 0 := BitVec.eq_of_toNat_eq h
    have hclz : intClz t a.toNat = wOf t := if_pos h
    rw [hclz]
    exact ⟨Nat.le_refl _, fun j _ _ => by rw [hz]; exact BitVec.getLsbD_zero, fun hlt => absurd hlt (Nat.lt_irrefl _)⟩
  · have hlog : Nat.log2 a.toNat < wOf t := (Nat.log2_lt h).mpr a.isLt
    have hclz : intClz t a.toNat = wOf t - 1 - Nat.log2 a.toNat := if_neg h
    refine ⟨by omega, fun j _ hj => ?_, fun _ => ?_⟩
    · refine Nat.testBit_lt_two_pow (Nat.lt_of_lt_of_le Nat.lt_log2_self (Nat.pow_le_pow_right (by decide) ?_))
      omega
    · rw [hclz, show wOf t - 1 - (wOf t - 1 - Nat.log2 a.toNat) = Nat.log2 a.toNat by omega]
      exact Nat.testBit_log2 h

/-- ctz gives the place of the lowest 1 bit. -/
theorem intCtz_spec (t : ITy) (a : BitVec (wOf t)) :
    intCtz t a.toNat ≤ wOf t ∧ (∀ j < intCtz t a.toNat, a.getLsbD j = false) ∧
      (intCtz t a.toNat < wOf t → a.getLsbD (intCtz t a.toNat) = true) := by
  cases h : (List.range (wOf t)).find? (fun i => a.toNat.testBit i) with
  | none =>
    have hctz : intCtz t a.toNat = wOf t := by rw [intCtz, bitsUp, h]; rfl
    have hbits := List.find?_range_eq_none.mp h
    rw [hctz]
    exact ⟨Nat.le_refl _, fun j hj => (Bool.not_eq_true' _).mp (hbits j hj), fun hlt => absurd hlt (Nat.lt_irrefl _)⟩
  | some n =>
    have hctz : intCtz t a.toNat = n := by rw [intCtz, bitsUp, h]; rfl
    obtain ⟨hone, hmem, hbelow⟩ := List.find?_range_eq_some.mp h
    rw [hctz]
    exact ⟨Nat.le_of_lt (List.mem_range.mp hmem), fun j hj => (Bool.not_eq_true' _).mp (hbelow j hj), fun _ => hone⟩

theorem testBit_intBrev (t : ITy) (a : BitVec (wOf t)) (j : Nat) :
    (intBrev t a.toNat).testBit j = (decide (j < wOf t) && a.getLsbD (wOf t - 1 - j)) := testBit_foldl ..

/-- A count of at most W is the same number in 64 bits. -/
theorem toNat_ofNat_count {t : ITy} {n : Nat} (h : n ≤ wOf t) : (BitVec.ofNat 64 n).toNat = n := by
  have := wOf_le t
  exact Nat.mod_eq_of_lt (by omega)

/-- Settles O21: the counts are those of the pattern's bits, and brev's word is built from the last bit to the first. -/
theorem countsOfBits : Obligations.CountsOfBits := by
  unfold Obligations.CountsOfBits
  refine ⟨fun x t => ?_, fun x t => ?_, fun x t => ?_, fun x t => ?_⟩
  · exact lrGives1_of (fun _ => rfl) fun a => by rw [intPopc_low]
  · refine ⟨fun a => BitVec.ofNat 64 (intClz t (low t a).toNat), lrGives1_of (fun _ => rfl) fun _ => rfl, fun a => ?_⟩
    have hspec := intClz_spec t (low t a)
    rwa [toNat_ofNat_count hspec.1]
  · refine ⟨fun a => BitVec.ofNat 64 (intCtz t (low t a).toNat), lrGives1_of (fun _ => rfl) fun _ => rfl, fun a => ?_⟩
    have hspec := intCtz_spec t (low t a)
    rwa [toNat_ofNat_count hspec.1]
  · refine ⟨fun a => BitVec.ofNat 64 (intBrev t (low t a).toNat), lrGives1_of (fun _ => rfl) fun _ => rfl,
      fun a => ⟨fun j hj => ?_, fun j hj => ?_⟩⟩
    · have hw := wOf_le t
      rw [BitVec.getLsbD_ofNat, testBit_intBrev, decide_eq_true hj, decide_eq_true (show j < 64 by omega), Bool.true_and,
        Bool.true_and]
    · rw [BitVec.getLsbD_ofNat, testBit_intBrev, decide_eq_false (show ¬ j < wOf t by omega), Bool.false_and, Bool.and_false]

end Sys2Proof.Laws
end
